-- ==== Sys2Proof/Word.lean ====
section
/-!
DEFINITION. The words of the DK9 model: bytes, stamps and the plainest arithmetic over them.
-/
namespace Sys2Proof

/-- A byte of memory, of a host ring or of a frame. -/
abbrev Byte := BitVec 8

/-- A stamp: a 64-bit count of nanoseconds of device time (spec/00, Notation; R219). -/
abbrev Stamp := BitVec 64

/-- A value of a 64-bit scalar register or of a 64-bit register of BAR0. -/
abbrev Word := BitVec 64

/-- The natural number `n` as a word, modulo 2^64. -/
def Word.ofNat (n : Nat) : Word := BitVec.ofNat 64 n

end Sys2Proof
end

