-- ==== Sys2Proof/Syntax.lean ====
section
/-!
DEFINITION. The commands of the block: one constructor of `Instr` per row of spec/opcode_table.json,
with the operands the row's rules give it. What comes to the module from outside it (host memory that a
command reads, sensor readings, packets, what an engine's lanes observed) is an operand (log 2);
`dt` is the device time in ns that passes between the command before and this one (log 7).
-/
namespace Sys2Proof

/-- Fields of the sequencer format besides OPCODE (R110); `rsv` is the reserved field [71:64]. -/
structure SeqW where
  pneg : Bool
  pred : BitVec 3
  sd : BitVec 5
  ss1 : BitVec 5
  ss2 : BitVec 5
  pd : BitVec 3
  dd : BitVec 8
  ds : BitVec 8
  cond : BitVec 4
  pa : BitVec 3
  pb : BitVec 3
  rsv : BitVec 8
  imm : BitVec 64
  deriving DecidableEq, Repr

/-- Fields of the station format besides OPCODE (R109); `rsv` is the reserved field [56:48]. -/
structure StaW where
  pneg : Bool
  pred : BitVec 3
  so : BitVec 6
  sa : BitVec 6
  ka : Bool
  sb : BitVec 6
  kb : Bool
  da : BitVec 8
  db : BitVec 8
  func : BitVec 8
  ofmt : BitVec 8
  rtz : Bool
  nosat : Bool
  sx : BitVec 5
  rsv : BitVec 9
  immh : BitVec 16
  imm32 : BitVec 32
  deriving DecidableEq, Repr

/-- What every ring command carries besides its operands (R308, R314): the queue it stands in, its TAG, and
whether any byte R317 reserves in it is not 0. -/
structure QCmd where
  queue : BitVec 10
  tag : BitVec 32
  resv : Bool
  deriving DecidableEq, Repr

/-- What the host link did with the device reads and writes of a command (R319, R329): `data` are the bytes
that host memory answered; with `ok` clear the transfer failed after those bytes. -/
structure Dma where
  ok : Bool
  data : List Byte
  deriving DecidableEq, Repr

/-- A PCI Express function: the PF, or VF n + 1 (R305). -/
inductive Func where
  | pf
  | vf (n : Fin 8)
  deriving DecidableEq, Repr

/-- Who writes a doorbell or a register (R335, R336, R344). -/
inductive Agent where
  | pf
  | vf (n : Fin 8)
  | stewN
  | stewS
  | acx
  | lantern
  | block
  | program (p : Fin 8)
  | codec (slot : Fin 64)
  deriving DecidableEq, Repr

/-- The two Stewards (R19). -/
inductive Steward where
  | n
  | s
  deriving DecidableEq, Repr

/-- The two PLL references (R349). -/
inductive ClkRef where
  | xo
  | refclk
  deriving DecidableEq, Repr

/-- A read of some bytes, or a write of the bytes given. -/
inductive MemAcc where
  | read (len : Nat)
  | write (data : List Byte)
  deriving DecidableEq, Repr

/-- What a stack or its link reports of the reads of one 64-byte unit (R268): an error that on-die ECC corrected, a link CRC error or
a command or address parity error with how many tries of the transfer met it, or uncorrectable data. -/
inductive DramErrKind where
  | corrected
  | link (tries : Nat)
  | parity (tries : Nat)
  | uncorrectable
  deriving DecidableEq, Repr

/-- An error that the next read of a unit of DRAM meets (R268): the number of the unit, its device address / 64, and what it is. -/
structure DramErr where
  unit : BitVec 32
  kind : DramErrKind
  deriving DecidableEq, Repr

/-- A station word that reads DRAM, with the errors that its reads will meet (R109, R268). -/
structure LoadW where
  word : StaW
  errs : List DramErr
  deriving DecidableEq, Repr

/-- An access from outside the programs, with the errors that its reads will meet (R268). -/
structure OutAcc where
  acc : MemAcc
  errs : List DramErr
  deriving DecidableEq, Repr

/-- The doorbell of a queue, with the function that writes it (R305, R309). -/
structure Bell where
  func : Func
  queue : BitVec 10
  deriving DecidableEq, Repr

/-- What a write of SQ_TAIL carries: the new tail, and the entries that the host wrote from the old one on (R309, R314). -/
structure TailWrite where
  tail : BitVec 32
  entries : List (BitVec 512)
  deriving DecidableEq, Repr

/-- What the host sets as the link trains: the width code, and the size code of the PF's BAR2 (R302, R303, R306). -/
structure LinkSet where
  lanes : BitVec 2
  bar : Fin 5
  deriving DecidableEq, Repr

/-- The end of an engine's attempt at a work item (R148 to R152): the engine, the busy and Hamper-read fields of the load signature
(R377), the sums that it observes in its accumulators, 48 bits each (a float sum in the low 32): for each weight block of 64 columns
one for each activation row, then one for each column; and a core whose combining adders disagreed over the item's output. -/
structure CheckItem where
  engine : BitVec 8
  busy : BitVec 2
  hread : BitVec 2
  rows : List (BitVec 48)
  cols : List (BitVec 48)
  adder : Option (BitVec 6)
  deriving DecidableEq, Repr

/-- Operands of REGISTER (R317). -/
structure RegisterOps where
  size : BitVec 64
  cls : BitVec 8
  writable : BitVec 8
  location : BitVec 8
  pad : BitVec 8
  object : BitVec 32
  kvFormat : BitVec 8
  kvHeads : BitVec 8
  kvWidth : BitVec 16
  deriving DecidableEq, Repr

/-- Operands of QP_MODIFY (R317, R327). -/
structure QpModifyOps where
  qp : BitVec 16
  state : BitVec 8
  mtu : BitVec 8
  remoteQp : BitVec 32
  sendPsn : BitVec 32
  recvPsn : BitVec 32
  gid : BitVec 128
  tclass : BitVec 8
  deriving DecidableEq, Repr

/-- Operands of POST_SEND (R317). -/
structure PostSendOps where
  qp : BitVec 16
  op : BitVec 8
  pad : BitVec 8
  handle : BitVec 32
  off : BitVec 64
  raddr : BitVec 64
  len : BitVec 64
  rkey : BitVec 32
  imm : BitVec 32
  deriving DecidableEq, Repr

/-- The addresses of a received frame that steering looks at (R322). -/
structure NetAddr where
  dst : BitVec 48
  vlan : Option (BitVec 12)
  ipv4 : Option (BitVec 32)
  ipv6 : Option (BitVec 128)
  deriving DecidableEq, Repr

/-- A RoCEv2 packet for a QP, parsed (R325, R326, R330). `op`: 0 SEND, 1 WRITE, 2 READ request, 3 READ response,
4 acknowledgement, 5 sequence error NAK, 6 remote access NAK, 7 invalid request NAK, 8 CNP, 9 RNR NAK; others unsupported. -/
structure RocePkt where
  addr : NetAddr
  qp : BitVec 24
  op : Nat
  psn : BitVec 24
  icrcOk : Bool
  ecn : Bool
  first : Bool
  last : Bool
  valid : Bool
  rkey : BitVec 32
  raddr : BitVec 64
  len : Nat
  imm : Option (BitVec 32)
  data : List Byte
  deriving DecidableEq, Repr

/-- An Ethernet frame as the MAC hands it on (R321, R322): the fields steering looks at, and the bytes after them. -/
structure EthFrame where
  fcsOk : Bool
  size : Nat
  stacked : Bool
  fragment : Bool
  sumsOk : Bool
  pause : Bool
  addr : NetAddr
  src : BitVec 48
  etype : BitVec 16
  udp : Option (BitVec 16)
  data : List Byte
  deriving DecidableEq, Repr

/-- An RTP packet in a UDP datagram (R284, R296, R297): `starts` tells that the packet carries the start of an
IRAP, IDR or recovery-point picture. -/
structure RtpPkt where
  addr : NetAddr
  udp : BitVec 16
  pt : BitVec 7
  ssrc : BitVec 32
  seq : BitVec 16
  ts : BitVec 32
  marker : Bool
  starts : Bool
  data : List Byte
  deriving DecidableEq, Repr

/-- What the decoder made of a frame that is complete (R287, R293 to R295): picture reconstruction itself is the standards'
(log 17). `order` is the frame's place among the complete frames in decoding order, as the stream's reordering has it; `ctb` the
code of the stream's CTB size, 16 · 2^ctb; `full` and `matrix` the range and matrix_coefficients of its VUI. `rows` has a byte per
CTU row, in the places of R295: bit 0 no data came for the row, bit 2 a syntax error, bit 3 it predicts from a damaged picture,
bit 6 a parameter error. `reads` are the rows' reads of reference pictures as (row, picture, offset, bytes). The planes hold the
reconstructed 4:2:0 samples. -/
structure Decoded where
  order : Nat
  irap : Bool
  divOk : Bool
  ctb : BitVec 2
  full : Bool
  matrix : BitVec 8
  rows : List (BitVec 8)
  reads : List (Nat × Nat × Nat × Nat)
  luma : List (BitVec 10)
  cb : List (BitVec 10)
  cr : List (BitVec 10)
  deriving DecidableEq, Repr

/-- A block that the encoder predicts from a reference picture (R283): the CTU that it lies in, counted over the picture, its
place and size in luma samples, and its vector in quarter samples. -/
structure Motion where
  ctu : Nat
  x : Nat
  y : Nat
  w : Nat
  h : Nat
  mvx : Int
  mvy : Int
  deriving DecidableEq, Repr

/-- A slice that the encoder finished (R282, R283): its CTUs, its predicted blocks, its NAL unit, and the parameter sets in force
as NAL units. -/
structure SliceOut where
  ctus : Nat
  motion : List Motion
  sets : List (List Byte)
  data : List Byte
  deriving DecidableEq, Repr

/-- The body of a PTP message (R328). Times are ns of the sender's clock. A Sync with no `t1`, and a Pdelay_Resp with no `t3`, is
the first step of a two-step transmission. `rank` is what the best master clock algorithm compares, the lowest the best, with the
clock's identity in its low 64 bits. -/
inductive PtpBody where
  | announce (rank : BitVec 112)
  | sync (t1 : Option (BitVec 64))
  | followUp (t1 : BitVec 64)
  | delayReq
  | delayResp (t4 : BitVec 64)
  | pdelayReq
  | pdelayResp (t2 : BitVec 64) (t3 : Option (BitVec 64))
  | pdelayFollowUp (t3 : BitVec 64)
  deriving DecidableEq, Repr

/-- A PTP message on a port (R328, R330): its domain, whether it came over IEEE 802.3 and not UDP, its sequence number, whether
the port stamped it, and its body. -/
structure PtpMsg where
  domain : BitVec 8
  l2 : Bool
  seq : BitVec 16
  stamped : Bool
  body : PtpBody
  deriving DecidableEq, Repr

/-- Readings of the power stage and thermistors at a governor tick (R356, R357): powers in 0.1 W, temperatures in
1/16 °C. -/
structure PowerMeas where
  p1ms : Nat
  p100ms : Nat
  inlet : Int
  outlet : Int
  deriving DecidableEq, Repr

/-- Where an SRAM error was met (R252, R253): store 1 Hamper or 2 cluster store, its core or cluster, the byte
offset of the 64-bit word, and whether two bits failed. -/
structure SramErr where
  store : BitVec 2
  unit : BitVec 6
  off : BitVec 24
  double : Bool
  deriving DecidableEq, Repr

/-- What a training of a stack found (R255, R267): margins met, margins met on the settings before, and what the error check and
scrub in the stack has counted. -/
structure TrainResult where
  ok : Bool
  prevOk : Bool
  ecs : Nat
  deriving DecidableEq, Repr

/-- What self-test in BOOT found (R395, R417): one bit per shared block in the order of BIST_SHARED, logic and memory
of each cluster, and whether the PUF seed passed its check. -/
structure SelfTestResult where
  shared : BitVec 8
  logic : BitVec 8
  memory : BitVec 8
  pufOk : Bool
  deriving DecidableEq, Repr

/-- The end of a self-test (R391, R394): pass or fail, the observed signature, a failing memory word with its bit and
whether a spare serves it, and spares used. -/
structure BistResult where
  pass : Bool
  sig : BitVec 64
  mfail : Option (BitVec 64)
  repairs : Nat
  deriving DecidableEq, Repr

/-- A received TLP that violates the protocol (R329): its class, the function it met, whether it is a read, and its
header's doublewords. -/
structure TlpViolation where
  cls : BitVec 8
  func : BitVec 4
  isRead : Bool
  hdr0 : BitVec 64
  hdr1 : BitVec 64
  deriving DecidableEq, Repr

/-- An input-log record (R465): header fields and payload; `crc` covers header bytes [59:0] and the payload. -/
structure LogRec where
  lsn : BitVec 64
  origin : BitVec 64
  stamp : BitVec 64
  kind : BitVec 8
  part : BitVec 8
  req : BitVec 16
  step : BitVec 64
  data : List Byte
  crc : BitVec 32
  deriving DecidableEq, Repr

/-- A Roll-call QUERY with where it came from (R459). -/
structure RcQuery where
  mgr : BitVec 8
  nonce : BitVec 64
  src : BitVec 48
  vlan : Option (BitVec 12)
  deriving DecidableEq, Repr

/-- A Roll-call VOTE (R459, R461), its 32 checked payload bytes given by their fields: `fill` is payload [31:20] and
[7:6] and the version, type and length bytes are those of the table. -/
structure RcVote where
  mgr : BitVec 8
  cmd : BitVec 8
  target : BitVec 64
  epoch : BitVec 32
  fill : BitVec 112
  auth : BitVec 128
  src : BitVec 48
  vlan : Option (BitVec 12)
  deriving DecidableEq, Repr

/-- A LOG frame (R459): one fragment of a record sent by a peer, with the whole record's bytes once complete. -/
structure LogFrame where
  src : BitVec 48
  off : BitVec 32
  total : BitVec 32
  record : LogRec
  deriving DecidableEq, Repr

/-- The commands, one constructor per row of spec/opcode_table.json; each docstring gives the row and its rule. -/
inductive Instr where
  /-- NOP (R127). -/
  | seqNop (p : Fin 8) (w : SeqW)
  /-- LI (R127). -/
  | seqLi (p : Fin 8) (w : SeqW)
  /-- ADD (R127). -/
  | seqAdd (p : Fin 8) (w : SeqW)
  /-- ADDI (R127). -/
  | seqAddi (p : Fin 8) (w : SeqW)
  /-- SUB (R127). -/
  | seqSub (p : Fin 8) (w : SeqW)
  /-- MUL (R127). -/
  | seqMul (p : Fin 8) (w : SeqW)
  /-- AND (R127). -/
  | seqAnd (p : Fin 8) (w : SeqW)
  /-- OR (R127). -/
  | seqOr (p : Fin 8) (w : SeqW)
  /-- XOR (R127). -/
  | seqXor (p : Fin 8) (w : SeqW)
  /-- SHL (R127). -/
  | seqShl (p : Fin 8) (w : SeqW)
  /-- SHR (R127). -/
  | seqShr (p : Fin 8) (w : SeqW)
  /-- SRA (R127). -/
  | seqSra (p : Fin 8) (w : SeqW)
  /-- CMP (R127). -/
  | seqCmp (p : Fin 8) (w : SeqW)
  /-- CMPI (R127). -/
  | seqCmpi (p : Fin 8) (w : SeqW)
  /-- PSET (R127). -/
  | seqPset (p : Fin 8) (w : SeqW)
  /-- DLD (R127). -/
  | seqDld (p : Fin 8) (w : SeqW)
  /-- DMOV (R127). -/
  | seqDmov (p : Fin 8) (w : SeqW)
  /-- DSET (R127). -/
  | seqDset (p : Fin 8) (w : SeqW)
  /-- DGET (R127). -/
  | seqDget (p : Fin 8) (w : SeqW)
  /-- BR (R129). -/
  | seqBr (p : Fin 8) (w : SeqW)
  /-- LOOP (R128). -/
  | seqLoop (p : Fin 8) (w : SeqW)
  /-- ENDLOOP (R128). -/
  | seqEndloop (p : Fin 8) (w : SeqW)
  /-- STEP (R101). -/
  | seqStep (p : Fin 8) (w : SeqW)
  /-- WAIT (R130). -/
  | seqWait (p : Fin 8) (w : SeqW)
  /-- HALT (R127). -/
  | seqHalt (p : Fin 8) (w : SeqW)
  /-- SYS (R131). -/
  | seqSys (p : Fin 8) (w : SeqW)
  /-- IN_LOAD (R133). -/
  | inLoad (p : Fin 8) (w : LoadW)
  /-- IN_WIN (R133). -/
  | inWin (p : Fin 8) (w : LoadW)
  /-- IN_GATHER (R133). -/
  | inGather (p : Fin 8) (w : StaW)
  /-- MX_MM (R135). -/
  | mxMm (p : Fin 8) (w : StaW)
  /-- MX_SCORE (R182). -/
  | mxScore (p : Fin 8) (w : StaW)
  /-- MX_MIX (R185). -/
  | mxMix (p : Fin 8) (w : StaW)
  /-- VX_EW1 (R137). -/
  | vxEw1 (p : Fin 8) (w : StaW)
  /-- VX_EW2 (R138). -/
  | vxEw2 (p : Fin 8) (w : StaW)
  /-- VX_ACT (R137). -/
  | vxAct (p : Fin 8) (w : StaW)
  /-- VX_RMSNORM (R137). -/
  | vxRmsnorm (p : Fin 8) (w : StaW)
  /-- VX_LNORM (R137). -/
  | vxLnorm (p : Fin 8) (w : StaW)
  /-- VX_SMAX (R184). -/
  | vxSmax (p : Fin 8) (w : StaW)
  /-- VX_MERGE (R186). -/
  | vxMerge (p : Fin 8) (w : StaW)
  /-- VX_ROPE (R137). -/
  | vxRope (p : Fin 8) (w : StaW)
  /-- VX_SILUMUL (R137). -/
  | vxSilumul (p : Fin 8) (w : StaW)
  /-- VX_REDUCE (R137). -/
  | vxReduce (p : Fin 8) (w : StaW)
  /-- VX_POOL (R158). -/
  | vxPool (p : Fin 8) (w : StaW)
  /-- KV_GATHER (R180). -/
  | kvGather (p : Fin 8) (w : LoadW)
  /-- KV_ACCEPT (R175). -/
  | kvAccept (p : Fin 8) (w : StaW)
  /-- OUT_STORE (R141). -/
  | outStore (p : Fin 8) (w : StaW)
  /-- OUT_APPEND (R173). -/
  | outAppend (p : Fin 8) (w : StaW)
  /-- OUT_COMMIT (R141). -/
  | outCommit (p : Fin 8) (w : StaW)
  /-- CHECKSUM_ITEM_COMPARE (R148). -/
  | checksumItemCompare (dt : Nat) (p : Fin 8) (item : CheckItem)
  /-- HEALTH_WINDOW_EXPIRY (R381). -/
  | healthWindowExpiry (dt : Nat) (isCore : Bool) (unit : BitVec 8)
  /-- STREAM_DEADLOCK (R87). -/
  | streamDeadlock (dt : Nat) (p : Fin 8)
  /-- EV_EST_EXCEEDED (R232). -/
  | evEstExceeded (dt : Nat) (p : Fin 8)
  /-- COMMIT (R103). -/
  | commit (dt : Nat) (p : Fin 8)
  /-- PUBLISH_WINDOW_END (R103). -/
  | publishWindowEnd (dt : Nat) (p : Fin 8)
  /-- TICK_BOUNDARY (R226). -/
  | tickBoundary (dt : Nat)
  /-- ADMIT (R197). -/
  | reqAdmit (q : QCmd) (w0 : BitVec 64) (w1 : BitVec 64) (deadline : BitVec 64) (w5 : BitVec 64)
  /-- CANCEL (R198). -/
  | reqCancel (q : QCmd) (idx : BitVec 16)
  /-- FINISH (R199). -/
  | reqFinish (q : QCmd) (idx : BitVec 16)
  /-- PAUSE (R196). -/
  | reqPause (q : QCmd) (idx : BitVec 16)
  /-- RESUME (R196). -/
  | reqResume (q : QCmd) (idx : BitVec 16)
  /-- SET (R318). -/
  | reqSet (q : QCmd) (idx : BitVec 16) (hole : BitVec 48) (w0 : BitVec 64) (deadline : BitVec 64) (w5 : BitVec 64) (mask : BitVec 64)
  /-- RETIRE (R196). -/
  | reqRetire (q : QCmd) (idx : BitVec 16)
  /-- QUERY (R318). -/
  | reqQuery (q : QCmd) (idx : BitVec 16) (addr : BitVec 64) (dma : Dma)
  /-- LOAD_IMAGE (R73). -/
  | loadImage (q : QCmd) (addr : BitVec 64) (len : BitVec 64) (dma : Dma)
  /-- PROGRAM_RESUME (R115). -/
  | programResume (q : QCmd)
  /-- PROGRAM_HALT (R317). -/
  | programHalt (q : QCmd)
  /-- REGISTER (R319). -/
  | tensorRegister (q : QCmd) (r : RegisterOps)
  /-- RELEASE (R317). -/
  | tensorRelease (q : QCmd) (h : BitVec 32)
  /-- WRITE (R319). -/
  | tensorWrite (q : QCmd) (h : BitVec 32) (pad : BitVec 32) (off : BitVec 64) (addr : BitVec 64) (len : BitVec 64) (dma : Dma)
  /-- READ (R319). -/
  | tensorRead (q : QCmd) (h : BitVec 32) (pad : BitVec 32) (off : BitVec 64) (addr : BitVec 64) (len : BitVec 64) (dma : Dma)
  /-- EXPORT (R317). -/
  | tensorExport (q : QCmd) (h : BitVec 32) (ro : BitVec 8)
  /-- QP_CREATE (R327). -/
  | qpCreate (q : QCmd) (port : BitVec 8)
  /-- QP_MODIFY (R327). -/
  | qpModify (q : QCmd) (m : QpModifyOps)
  /-- QP_DESTROY (R317). -/
  | qpDestroy (q : QCmd) (qp : BitVec 16)
  /-- MR_REG (R317). -/
  | mrReg (q : QCmd) (h : BitVec 32) (acc : BitVec 8)
  /-- MR_DEREG (R317). -/
  | mrDereg (q : QCmd) (rkey : BitVec 32)
  /-- POST_SEND (R326). -/
  | postSend (q : QCmd) (s : PostSendOps)
  /-- POST_RECV (R327). -/
  | postRecv (q : QCmd) (qp : BitVec 16) (pad : BitVec 16) (h : BitVec 32) (off : BitVec 64) (len : BitVec 64)
  /-- SUBMIT (R281). -/
  | vccSubmit (q : QCmd) (slot : BitVec 16) (pad : BitVec 16) (h : BitVec 32) (stamp : BitVec 64)
  /-- RELEASE_FRAME (R291). -/
  | vccReleaseFrame (q : QCmd) (slot : BitVec 16) (pad : BitVec 16) (h : BitVec 32)
  /-- LATEST (R290). -/
  | vccLatest (q : QCmd) (slot : BitVec 16)
  /-- ARM (R228). -/
  | armCmd (q : QCmd) (credits : BitVec 32)
  /-- QUOTE (R422). -/
  | secQuote (q : QCmd) (nonce : BitVec 256) (addr : BitVec 64) (len : BitVec 64) (part : BitVec 8) (dma : Dma)
  /-- CERT (R419). -/
  | secCert (q : QCmd) (addr : BitVec 64) (len : BitVec 64) (dma : Dma)
  /-- KEY_IMPORT (R420). -/
  | keyImport (q : QCmd) (slot : BitVec 8) (pad : BitVec 56) (addr : BitVec 64) (dma : Dma)
  /-- KEY_DELETE (R420). -/
  | keyDelete (q : QCmd) (slot : BitVec 8)
  /-- FW_WRITE (R441). -/
  | fwWrite (q : QCmd) (off : BitVec 64) (addr : BitVec 64) (len : BitVec 64) (dma : Dma)
  /-- LOG_APPEND (R467). -/
  | logAppend (q : QCmd) (kind : BitVec 8) (pad : BitVec 40) (idx : BitVec 16) (addr : BitVec 64) (len : BitVec 64) (dma : Dma)
  /-- LOG_READ (R467). -/
  | logReadCmd (q : QCmd) (origin : BitVec 64) (lsn : BitVec 64) (addr : BitVec 64) (len : BitVec 64) (dma : Dma)
  /-- LOG_FETCH (R467). -/
  | logFetch (q : QCmd) (origin : BitVec 64) (lsn : BitVec 64) (peer : BitVec 8) (answer : List LogRec)
  /-- MGR_KEY (R467). -/
  | mgrKey (q : QCmd) (mgr : BitVec 8) (pad : BitVec 56) (addr : BitVec 64) (dma : Dma)
  /-- SQ_TAIL (R311). -/
  | sqTail (q : Bell) (v : TailWrite)
  /-- CQ_HEAD (R313). -/
  | cqHead (q : Bell) (v : BitVec 32)
  /-- CMD_CFG (R308). -/
  | cmdCfg (f : Func) (q : BitVec 10) (v : BitVec 32)
  /-- ASYNC_RECORD_DISCARD (R312). -/
  | asyncRecordDiscard (dt : Nat) (q : BitVec 10)
  /-- EDC_DOORBELL (R335). -/
  | edcDoorbell (wr : Agent) (v : BitVec 32)
  /-- EDC_CTX_CLAIM (R340). -/
  | edcCtxClaim (c : Fin 28)
  /-- EDC_CTX_COMPLETE (R341). -/
  | edcCtxComplete (c : Fin 28) (v : BitVec 32)
  /-- EDC_LOCK (R344). -/
  | edcLock (a : Agent) (wr : Option (BitVec 32))
  /-- EV_EDC_LOCK_BREAK (R344). -/
  | evEdcLockBreak (dt : Nat)
  /-- AUX_START (R477). -/
  | auxStart (dt : Nat) (straps : BitVec 5)
  /-- AUX_STOP (R476). -/
  | auxStop (dt : Nat)
  /-- PWR_EN (R478). -/
  | pwrEn (dt : Nat) (level : Bool) (stood : Nat)
  /-- TRAY_PRESENT (R478). -/
  | trayPresent (dt : Nat) (level : Bool) (stood : Nat)
  /-- RAIL_FAULT (R478). -/
  | railFault (dt : Nat) (lasted : Nat)
  /-- MAIN_POWER_UP (R477). -/
  | mainPowerUp (dt : Nat)
  /-- BOOT_FLOW_TIMEOUT (R369). -/
  | bootFlowTimeout (dt : Nat)
  /-- BOOT_SELF_TEST (R395). -/
  | bootSelfTest (dt : Nat) (r : SelfTestResult)
  /-- HOST_LINK_UP (R303). -/
  | hostLinkUp (dt : Nat) (gen : BitVec 3) (width : LinkSet)
  /-- DRAM_TRAINING (R434). -/
  | dramTraining (dt : Nat) (r : List TrainResult)
  /-- JOURNAL_REPLAY (R439). -/
  | journalReplay (dt : Nat)
  /-- FLASK_RELOAD (R435). -/
  | flaskReload (dt : Nat)
  /-- BOOT_COMPLETE (R431). -/
  | bootComplete (dt : Nat)
  /-- PERST (R304). -/
  | perst (dt : Nat)
  /-- PF_FLR (R304). -/
  | pfFlr
  /-- VF_FLR (R304). -/
  | vfFlr (n : Fin 8)
  /-- PCIE_TLP_VIOLATION (R329). -/
  | pcieTlpViolation (v : TlpViolation)
  /-- BAR2_ACCESS (R306). -/
  | bar2Access (f : Func) (off : BitVec 64) (acc : OutAcc)
  /-- COMPLETION_TIMEOUT (R329). -/
  | completionTimeout (dt : Nat) (q : BitVec 10) (ring : Bool)
  /-- REFERENCE_LOSS (R353). -/
  | referenceLoss (dt : Nat) (r : ClkRef)
  /-- PLL_RELOCK (R353). -/
  | pllRelock (dt : Nat) (r : ClkRef) (sound : Nat)
  /-- POWER_GOVERNOR (R357). -/
  | powerGovernor (dt : Nat) (m : PowerMeas)
  /-- HOTSPOT_SENSOR_SAMPLE (R359). -/
  | hotspotSensorSample (dt : Nat) (r : List (BitVec 16 × BitVec 16))
  /-- RULING_TEMPERATURE (R359). -/
  | rulingTemperature (dt : Nat)
  /-- SENSOR_DISAGREE_TIMEOUT (R359). -/
  | sensorDisagreeTimeout (dt : Nat) (h : Fin 32)
  /-- DIS_WINDOW_RESTART (R359). -/
  | disWindowRestart (dt : Nat)
  /-- THERMAL_FORECAST (R362). -/
  | thermalForecast (dt : Nat) (est : List (BitVec 16 × BitVec 16))
  /-- THETA_UPDATE (R363). -/
  | thetaUpdate (dt : Nat)
  /-- LANTERN_DIODE_CHECK (R361). -/
  | lanternDiodeCheck (dt : Nat)
  /-- FLOW_LOST (R366). -/
  | flowLost (dt : Nat)
  /-- FLOW_RESTORED (R368). -/
  | flowRestored (dt : Nat)
  /-- FLOW_LOSS_SAFE (R367). -/
  | flowLossSafe (dt : Nat)
  /-- THERMAL_CYCLE_SAMPLE (R371). -/
  | thermalCycleSample (dt : Nat)
  /-- THERMAL_CYCLE_JOURNAL (R371). -/
  | thermalCycleJournal (dt : Nat)
  /-- STACK_TEMP_READ (R263). -/
  | stackTempRead (dt : Nat) (temps : List (BitVec 8))
  /-- STACK_OVERTEMP_TRIP (R263). -/
  | stackOvertempTrip (dt : Nat) (s : Fin 6)
  /-- SRAM_SCRUB (R253). -/
  | sramScrub (dt : Nat) (errs : List SramErr)
  /-- RETRAIN_DUE (R264). -/
  | retrainDue (dt : Nat) (s : Fin 6)
  /-- RETRAIN_SLACK_START (R264). -/
  | retrainSlackStart (dt : Nat)
  /-- RETRAIN_COMPLETE (R267). -/
  | retrainComplete (dt : Nat) (o : TrainResult)
  /-- PPS_EDGE (R223). -/
  | ppsEdge (dt : Nat)
  /-- PTP_MESSAGE (R328). -/
  | ptpMessage (dt : Nat) (port : Fin 4) (m : PtpMsg)
  /-- TB_HOLDOVER (R222). -/
  | tbHoldover (dt : Nat)
  /-- RTP_PACKET (R284). -/
  | rtpPacket (dt : Nat) (port : Fin 4) (pkt : RtpPkt)
  /-- RTCP_SENDER_REPORT (R286). -/
  | rtcpSenderReport (dt : Nat) (slot : Fin 64) (ssrc : BitVec 32) (ntp : BitVec 64) (rtp : BitVec 32)
  /-- FRAME_COMPLETE_TIMEOUT (R285). -/
  | frameCompleteTimeout (dt : Nat) (slot : Fin 64)
  /-- FRAME_COMMIT (R292). -/
  | frameCommit (dt : Nat) (slot : Fin 64) (d : Decoded)
  /-- SENSOR_GROUP_COMMIT (R297). -/
  | sensorGroupCommit (dt : Nat) (slot : Fin 64)
  /-- SLICE_EMIT (R282). -/
  | sliceEmit (dt : Nat) (slot : Fin 64) (sl : SliceOut)
  /-- VCC_SLOT_SUBMIT (R281). -/
  | vccSlotSubmit (slot : Fin 64) (h : BitVec 32)
  /-- VCC_SLOT_RELEASE (R291). -/
  | vccSlotRelease (slot : Fin 64) (h : BitVec 32)
  /-- SLOT_ENABLE (R275). -/
  | slotEnable (slot : Fin 64) (v : BitVec 64)
  /-- SLOT_DISABLE (R298). -/
  | slotDisable (slot : Fin 64) (v : BitVec 64)
  /-- ROCE_PACKET (R326). -/
  | rocePacket (dt : Nat) (port : Fin 4) (pkt : RocePkt)
  /-- ROCE_RETRANSMIT_TIMEOUT (R325). -/
  | roceRetransmitTimeout (dt : Nat) (qp : BitVec 10)
  /-- CNP_RATE_RECOVERY (R325). -/
  | cnpRateRecovery (dt : Nat) (qp : BitVec 10)
  /-- ETH_FRAME_RECEIVE (R322). -/
  | ethFrameReceive (dt : Nat) (port : Fin 4) (f : EthFrame)
  /-- EV_PORT_LINK (R333). -/
  | evPortLink (dt : Nat) (port : Fin 4) (up : Bool) (mode : BitVec 2)
  /-- DUTY_GRANT (R456). -/
  | dutyGrant (dt : Nat) (level : Bool) (stood : Nat)
  /-- DUTY_IN (R457). -/
  | dutyIn (dt : Nat) (level : Bool) (stood : Nat)
  /-- SLOT_ID_CHANGE (R483). -/
  | slotIdChange (straps : BitVec 5)
  /-- SMB_ALERT_RESPONSE (R483). -/
  | smbAlertResponse
  /-- SMBUS_READ (R495). -/
  | smbusRead (off : BitVec 32)
  /-- SMBUS_WRITE (R495). -/
  | smbusWrite (off : BitVec 32) (v : BitVec 64)
  /-- SMBUS_RECOVERY_START (R447). -/
  | smbusRecoveryStart (len : BitVec 32)
  /-- SMBUS_RECOVERY_DATA (R447). -/
  | smbusRecoveryData (off : BitVec 32) (bytes : List Byte)
  /-- SMBUS_RECOVERY_FINISH (R447). -/
  | smbusRecoveryFinish
  /-- SMBUS_RECOVERY_STATUS (R447). -/
  | smbusRecoveryStatus
  /-- FW_RCV_START (R447). -/
  | fwRcvStart (v : BitVec 64)
  /-- FW_RCV_FINISH (R447). -/
  | fwRcvFinish (v : BitVec 64)
  /-- VERIFY (R441). -/
  | fwVerify
  /-- ACTIVATE (R443). -/
  | fwActivate
  /-- MIRROR_COMPLETE (R443). -/
  | mirrorComplete (dt : Nat) (st : Steward)
  /-- EV_FW_UPDATE_FAIL (R443). -/
  | evFwUpdateFail (dt : Nat)
  /-- CONFIRM (R445). -/
  | fwConfirm
  /-- REVERT (R445). -/
  | fwRevert
  /-- RECOVER (R446). -/
  | fwRecover
  /-- JOURNAL_WRITE (R438). -/
  | journalWrite (dt : Nat)
  /-- JOURNAL_COMMIT (R438). -/
  | journalCommit (dt : Nat)
  /-- HELM_CLAIM (R450). -/
  | helmClaim (dt : Nat) (n : Bool) (s : Bool)
  /-- HELM_BEAT (R450). -/
  | helmBeat (dt : Nat) (st : Steward)
  /-- HELM_PASS (R450). -/
  | helmPass (dt : Nat) (st : Steward)
  /-- EV_HELM_LAPSE (R450). -/
  | evHelmLapse (dt : Nat)
  /-- DUTY_HOLD_EXPIRY (R453). -/
  | dutyHoldExpiry (dt : Nat)
  /-- RESTART_FOLLOWER (R451). -/
  | restartFollower
  /-- ROLLCALL_QUERY (R460). -/
  | rollcallQuery (dt : Nat) (port : Fin 4) (q : RcQuery)
  /-- VOTE (R462). -/
  | vote (dt : Nat) (port : Fin 4) (v : RcVote)
  /-- VOTE_WINDOW_EXPIRY (R462). -/
  | voteWindowExpiry (dt : Nat) (cmd : BitVec 8)
  /-- LOG (R467). -/
  | logFrame (dt : Nat) (port : Fin 4) (f : LogFrame)
  /-- LOG_ACK (R467). -/
  | logAck (dt : Nat) (peer : Fin 2) (lsn : BitVec 64) (origin : BitVec 64)
  /-- FETCH (R467). -/
  | logFetchFrame (dt : Nat) (port : Fin 4) (src : BitVec 48) (lsn : BitVec 64) (origin : BitVec 64)
  /-- LOG_RETRANSMIT (R467). -/
  | logRetransmit (dt : Nat) (peer : Fin 2) (lsn : BitVec 64)
  /-- EV_LOG_PEER_LAG (R467). -/
  | evLogPeerLag (dt : Nat) (peer : Fin 2)
  /-- LOG_RETENTION_EXPIRY (R466). -/
  | logRetentionExpiry (dt : Nat)
  /-- HOLD (R469). -/
  | jobHold (v : BitVec 64)
  /-- JOB_RESUME (R469). -/
  | jobResume (v : BitVec 64)
  /-- CREATE (R404). -/
  | partCreate (v : BitVec 64)
  /-- PARTITION_ADD (R404). -/
  | partAdd (v : BitVec 64)
  /-- REMOVE (R404). -/
  | partRemove (v : BitVec 64)
  /-- DESTROY (R405). -/
  | partDestroy (v : BitVec 64)
  /-- SEC_WINDOW_WRITE (R407). -/
  | secWindowWrite (p : Fin 8) (w : Fin 8) (v : BitVec 64)
  /-- BLANKET_CLEAR_DONE (R409). -/
  | blanketClearDone (dt : Nat) (c : Fin 8)
  /-- EV_SCRUB_DONE (R410). -/
  | evScrubDone (dt : Nat) (p : Fin 8) (w : Fin 8)
  /-- SEC_TV_REC_SEL (R414). -/
  | secTvRecSel (p : Fin 8) (v : BitVec 64)
  /-- TENANT_VIEW_SAMPLE (R413). -/
  | tenantViewSample (dt : Nat) (energy : List Nat)
  /-- BIST_GO (R396). -/
  | bistGo (v : BitVec 32)
  /-- MAINT_ENTER (R398). -/
  | maintEnter (v : BitVec 32)
  /-- MAINT_ENTRY (R398). -/
  | maintEntry (dt : Nat)
  /-- MAINT_EXIT (R398). -/
  | maintExit (v : BitVec 32)
  /-- BIST_TEST_COMPLETE (R394). -/
  | bistTestComplete (dt : Nat) (r : BistResult)
  /-- RAS_ENG_SEL (R401). -/
  | rasEngSel (v : BitVec 64)
  /-- RAS_ENG_CLR (R384). -/
  | rasEngClr (v : BitVec 32)
  /-- THM_SENSOR_CLR (R360). -/
  | thmSensorClr (v : BitVec 32)
  /-- PLC_ENG_SEL (R248). -/
  | plcEngSel (v : BitVec 64)
  /-- PLC_HINT_SEL (R248). -/
  | plcHintSel (v : BitVec 64)
  /-- KV_CTX_SEL (R191). -/
  | kvCtxSel (v : BitVec 64)
  /-- SRV_REQ_SEL (R216). -/
  | srvReqSel (v : BitVec 64)
  /-- SRV_PART (R215). -/
  | srvPart (p : Fin 8) (v : BitVec 64)
  /-- TK_ARM_ADD (R228). -/
  | tkArmAdd (p : Fin 8) (v : BitVec 32)
  /-- FORCE (R264). -/
  | memForce (v : BitVec 64)
  /-- STAT_CLEAR (R388). -/
  | statClear (off : BitVec 32) (v : BitVec 64)
  /-- REGISTER_WRITE (R14). -/
  | registerWrite (a : Agent) (off : BitVec 32) (size : Nat) (v : BitVec 64)
  /-- FLOW_PULSE (R366). -/
  | flowPulse (dt : Nat) (low : Nat)
  /-- MODULE_RESTART (R10). -/
  | moduleRestart (dt : Nat)
  /-- ACX_ACCESS (R408). -/
  | acxAccess (core : Fin 16) (h : BitVec 32) (off : BitVec 64) (acc : OutAcc)
  /-- ACX_FRAME_SEND (R456). -/
  | acxFrameSend (port : Fin 4) (part : Option (Fin 8)) (bytes : List Byte)
  /-- MSI_X_ENABLE (R346). -/
  | msixEnable (f : Func) (en : Bool) (vec : BitVec 8) (masked : Bool)
  /-- VF_ENABLE (R331). -/
  | vfEnable (en : Bool)
  /-- LANTERN_RESTART (R443). -/
  | lanternRestart (dt : Nat)
  /-- PTM_REQUEST (R302). -/
  | ptmRequest (dt : Nat)
  deriving DecidableEq, Repr

end Sys2Proof
end

