-- ==== Sys2Proof/Decode.lean ====
section
/-!
DEFINITION. Commands spelled by words. The rows of spec/opcode_table.json give no bits (every `fields` is empty), so no word of
the table spells a command (log 19). The spec itself spells two families: the instructions of a program by 128-bit words (R108 to
R110, R124), and the commands of a ring by 64-byte entries (R314, R317, R318).
-/
namespace Sys2Proof

/-- The command a word spells by the table's bits: the table gives none (log 19). -/
def decodeTableWord (_nbits _w : Nat) : Option Instr := none

/-! ### Instruction words (R108 to R110, R124) -/

/-- Bits `lo` to `lo` + `n` - 1 of a word. -/
def cut (v : BitVec 128) (lo n : Nat) : BitVec n := v.extractLsb' lo n

/-- OPCODE, in every format (R108). -/
def opcodeOf (v : BitVec 128) : Nat := (cut v 120 8).toNat

/-- The fields of the station format (R109). -/
def staOf (v : BitVec 128) : StaW :=
  { pneg := v.getLsbD 119, pred := cut v 116 3, so := cut v 110 6, sa := cut v 104 6, ka := v.getLsbD 103, sb := cut v 97 6
    kb := v.getLsbD 96, da := cut v 88 8, db := cut v 80 8, func := cut v 72 8, ofmt := cut v 64 8, rtz := v.getLsbD 63
    nosat := v.getLsbD 62, sx := cut v 57 5, rsv := cut v 48 9, immh := cut v 32 16, imm32 := cut v 0 32 }

/-- The fields of the sequencer format (R110). -/
def seqOf (v : BitVec 128) : SeqW :=
  { pneg := v.getLsbD 119, pred := cut v 116 3, sd := cut v 111 5, ss1 := cut v 106 5, ss2 := cut v 101 5, pd := cut v 98 3
    dd := cut v 90 8, ds := cut v 82 8, cond := cut v 78 4, pa := cut v 75 3, pb := cut v 72 3, rsv := cut v 64 8
    imm := cut v 0 64 }

/-- A bit as a vector. -/
def bitV (b : Bool) : BitVec 1 := if b then 1 else 0

/-- The word of OPCODE `op` in the station format (R109). -/
def staWord (op : BitVec 8) (w : StaW) : BitVec 128 :=
  op ++ bitV w.pneg ++ w.pred ++ w.so ++ w.sa ++ bitV w.ka ++ w.sb ++ bitV w.kb ++ w.da ++ w.db ++ w.func ++ w.ofmt
    ++ bitV w.rtz ++ bitV w.nosat ++ w.sx ++ w.rsv ++ w.immh ++ w.imm32

/-- The word of OPCODE `op` in the sequencer format (R110). -/
def seqWord (op : BitVec 8) (w : SeqW) : BitVec 128 :=
  op ++ bitV w.pneg ++ w.pred ++ w.sd ++ w.ss1 ++ w.ss2 ++ w.pd ++ w.dd ++ w.ds ++ w.cond ++ w.pa ++ w.pb ++ w.rsv ++ w.imm

/-- The station operations (R124). What a read of DRAM meets on its way (R268) is no part of a word. -/
def stationOp (op : Nat) : Option (Fin 8 → StaW → Instr) :=
  match op with
  | 0x00 => some (fun p w => .inLoad p ⟨w, []⟩)
  | 0x01 => some (fun p w => .inWin p ⟨w, []⟩)
  | 0x02 => some .inGather
  | 0x20 => some .mxMm
  | 0x21 => some .mxScore
  | 0x22 => some .mxMix
  | 0x40 => some .vxEw1
  | 0x41 => some .vxEw2
  | 0x42 => some .vxAct
  | 0x43 => some .vxRmsnorm
  | 0x44 => some .vxLnorm
  | 0x45 => some .vxSmax
  | 0x46 => some .vxMerge
  | 0x47 => some .vxRope
  | 0x48 => some .vxSilumul
  | 0x49 => some .vxReduce
  | 0x4A => some .vxPool
  | 0x60 => some (fun p w => .kvGather p ⟨w, []⟩)
  | 0x61 => some .kvAccept
  | 0x80 => some .outStore
  | 0x81 => some .outAppend
  | 0x82 => some .outCommit
  | _ => none

/-- The sequencer operations (R124). -/
def sequencerOp (op : Nat) : Option (Fin 8 → SeqW → Instr) :=
  match op with
  | 0xA0 => some .seqNop
  | 0xA1 => some .seqLi
  | 0xA2 => some .seqAdd
  | 0xA3 => some .seqAddi
  | 0xA4 => some .seqSub
  | 0xA5 => some .seqMul
  | 0xA6 => some .seqAnd
  | 0xA7 => some .seqOr
  | 0xA8 => some .seqXor
  | 0xA9 => some .seqShl
  | 0xAA => some .seqShr
  | 0xAB => some .seqSra
  | 0xAC => some .seqCmp
  | 0xAD => some .seqCmpi
  | 0xAE => some .seqPset
  | 0xAF => some .seqDld
  | 0xB0 => some .seqDmov
  | 0xB1 => some .seqDset
  | 0xB2 => some .seqDget
  | 0xB3 => some .seqBr
  | 0xB4 => some .seqLoop
  | 0xB5 => some .seqEndloop
  | 0xB6 => some .seqStep
  | 0xB7 => some .seqWait
  | 0xB8 => some .seqHalt
  | 0xB9 => some .seqSys
  | _ => none

/-- The instruction that a word of partition `p`'s program spells; none for an invalid unit or an undefined operation (R111). -/
def insnOf (p : Fin 8) (v : BitVec 128) : Option Instr :=
  match stationOp (opcodeOf v) with
  | some f => some (f p (staOf v))
  | none => (sequencerOp (opcodeOf v)).map (fun f => f p (seqOf v))

/-- The word that spells an instruction of a program (R109, R110, R124). -/
def wordOf (i : Instr) : Option (BitVec 128) :=
  match i with
  | .inLoad _ w => some (staWord 0x00 w.word)
  | .inWin _ w => some (staWord 0x01 w.word)
  | .inGather _ w => some (staWord 0x02 w)
  | .mxMm _ w => some (staWord 0x20 w)
  | .mxScore _ w => some (staWord 0x21 w)
  | .mxMix _ w => some (staWord 0x22 w)
  | .vxEw1 _ w => some (staWord 0x40 w)
  | .vxEw2 _ w => some (staWord 0x41 w)
  | .vxAct _ w => some (staWord 0x42 w)
  | .vxRmsnorm _ w => some (staWord 0x43 w)
  | .vxLnorm _ w => some (staWord 0x44 w)
  | .vxSmax _ w => some (staWord 0x45 w)
  | .vxMerge _ w => some (staWord 0x46 w)
  | .vxRope _ w => some (staWord 0x47 w)
  | .vxSilumul _ w => some (staWord 0x48 w)
  | .vxReduce _ w => some (staWord 0x49 w)
  | .vxPool _ w => some (staWord 0x4A w)
  | .kvGather _ w => some (staWord 0x60 w.word)
  | .kvAccept _ w => some (staWord 0x61 w)
  | .outStore _ w => some (staWord 0x80 w)
  | .outAppend _ w => some (staWord 0x81 w)
  | .outCommit _ w => some (staWord 0x82 w)
  | .seqNop _ w => some (seqWord 0xA0 w)
  | .seqLi _ w => some (seqWord 0xA1 w)
  | .seqAdd _ w => some (seqWord 0xA2 w)
  | .seqAddi _ w => some (seqWord 0xA3 w)
  | .seqSub _ w => some (seqWord 0xA4 w)
  | .seqMul _ w => some (seqWord 0xA5 w)
  | .seqAnd _ w => some (seqWord 0xA6 w)
  | .seqOr _ w => some (seqWord 0xA7 w)
  | .seqXor _ w => some (seqWord 0xA8 w)
  | .seqShl _ w => some (seqWord 0xA9 w)
  | .seqShr _ w => some (seqWord 0xAA w)
  | .seqSra _ w => some (seqWord 0xAB w)
  | .seqCmp _ w => some (seqWord 0xAC w)
  | .seqCmpi _ w => some (seqWord 0xAD w)
  | .seqPset _ w => some (seqWord 0xAE w)
  | .seqDld _ w => some (seqWord 0xAF w)
  | .seqDmov _ w => some (seqWord 0xB0 w)
  | .seqDset _ w => some (seqWord 0xB1 w)
  | .seqDget _ w => some (seqWord 0xB2 w)
  | .seqBr _ w => some (seqWord 0xB3 w)
  | .seqLoop _ w => some (seqWord 0xB4 w)
  | .seqEndloop _ w => some (seqWord 0xB5 w)
  | .seqStep _ w => some (seqWord 0xB6 w)
  | .seqWait _ w => some (seqWord 0xB7 w)
  | .seqHalt _ w => some (seqWord 0xB8 w)
  | .seqSys _ w => some (seqWord 0xB9 w)
  | _ => none

/-! ### Entries of a submission ring (R314, R317, R318) -/

/-- What an entry holds of a command: its queue and TAG, CLASS, CODE, and its operands as (first byte, bytes, value). -/
structure Spelling where
  q : QCmd
  cls : Nat
  code : Nat
  ops : List (Nat × Nat × Nat)
  deriving DecidableEq, Repr

/-- Operands packed from byte `b` on without gaps, as (bytes, value) (R317). -/
def packed : Nat → List (Nat × Nat) → List (Nat × Nat × Nat)
  | _, [] => []
  | b, (n, v) :: l => (b, n, v) :: packed (b + n) l

/-- A command of CLASS `cls` and CODE `code` whose operands are packed from byte 8. -/
def spell (q : QCmd) (cls code : Nat) (ops : List (Nat × Nat)) : Option Spelling := some ⟨q, cls, code, packed 8 ops⟩

/-- The commands of a ring as entries spell them (R317, R318, R419, R420, R422, R441, R467); none for every other command. -/
def ringSpell (i : Instr) : Option Spelling :=
  match i with
  | .reqAdmit q w0 w1 d w5 => spell q 0x1 0x01 [(8, w0.toNat), (8, w1.toNat), (8, d.toNat), (8, w5.toNat)]
  | .reqCancel q idx => spell q 0x1 0x02 [(2, idx.toNat)]
  | .reqFinish q idx => spell q 0x1 0x03 [(2, idx.toNat)]
  | .reqPause q idx => spell q 0x1 0x04 [(2, idx.toNat)]
  | .reqResume q idx => spell q 0x1 0x05 [(2, idx.toNat)]
  | .reqSet q idx hole w0 d w5 mask => spell q 0x1 0x06 [(2, idx.toNat), (6, hole.toNat), (8, w0.toNat), (8, d.toNat), (8, w5.toNat), (8, mask.toNat)]
  | .reqRetire q idx => spell q 0x1 0x07 [(2, idx.toNat)]
  | .reqQuery q idx addr _ => some ⟨q, 0x1, 0x08, [(8, 2, idx.toNat), (16, 8, addr.toNat)]⟩
  | .loadImage q addr len _ => spell q 0x2 0x01 [(8, addr.toNat), (8, len.toNat)]
  | .programResume q => spell q 0x2 0x02 []
  | .programHalt q => spell q 0x2 0x03 []
  | .tensorRegister q r => spell q 0x3 0x01 [(8, r.size.toNat), (1, r.cls.toNat), (1, r.writable.toNat), (1, r.location.toNat),
      (1, r.pad.toNat), (4, r.object.toNat), (1, r.kvFormat.toNat), (1, r.kvHeads.toNat), (2, r.kvWidth.toNat)]
  | .tensorRelease q h => spell q 0x3 0x02 [(4, h.toNat)]
  | .tensorWrite q h pad off addr len _ => spell q 0x3 0x03 [(4, h.toNat), (4, pad.toNat), (8, off.toNat), (8, addr.toNat), (8, len.toNat)]
  | .tensorRead q h pad off addr len _ => spell q 0x3 0x04 [(4, h.toNat), (4, pad.toNat), (8, off.toNat), (8, addr.toNat), (8, len.toNat)]
  | .tensorExport q h ro => spell q 0x3 0x05 [(4, h.toNat), (1, ro.toNat)]
  | .qpCreate q port => spell q 0x4 0x01 [(1, port.toNat)]
  | .qpModify q m => spell q 0x4 0x02 [(2, m.qp.toNat), (1, m.state.toNat), (1, m.mtu.toNat), (4, m.remoteQp.toNat),
      (4, m.sendPsn.toNat), (4, m.recvPsn.toNat), (16, m.gid.toNat), (1, m.tclass.toNat)]
  | .qpDestroy q qp => spell q 0x4 0x03 [(2, qp.toNat)]
  | .mrReg q h acc => spell q 0x4 0x04 [(4, h.toNat), (1, acc.toNat)]
  | .mrDereg q rkey => spell q 0x4 0x05 [(4, rkey.toNat)]
  | .postSend q s => spell q 0x4 0x06 [(2, s.qp.toNat), (1, s.op.toNat), (1, s.pad.toNat), (4, s.handle.toNat), (8, s.off.toNat),
      (8, s.raddr.toNat), (8, s.len.toNat), (4, s.rkey.toNat), (4, s.imm.toNat)]
  | .postRecv q qp pad h off len => spell q 0x4 0x07 [(2, qp.toNat), (2, pad.toNat), (4, h.toNat), (8, off.toNat), (8, len.toNat)]
  | .vccSubmit q slot pad h stamp => spell q 0x5 0x01 [(2, slot.toNat), (2, pad.toNat), (4, h.toNat), (8, stamp.toNat)]
  | .vccReleaseFrame q slot pad h => spell q 0x5 0x02 [(2, slot.toNat), (2, pad.toNat), (4, h.toNat)]
  | .vccLatest q slot => spell q 0x5 0x03 [(2, slot.toNat)]
  | .armCmd q credits => spell q 0x6 0x01 [(4, credits.toNat)]
  | .secQuote q nonce addr len part _ => spell q 0x7 0x01 [(32, nonce.toNat), (8, addr.toNat), (8, len.toNat), (1, part.toNat)]
  | .secCert q addr len _ => spell q 0x7 0x02 [(8, addr.toNat), (8, len.toNat)]
  | .keyImport q slot pad addr _ => spell q 0x7 0x03 [(1, slot.toNat), (7, pad.toNat), (8, addr.toNat)]
  | .keyDelete q slot => spell q 0x7 0x04 [(1, slot.toNat)]
  | .fwWrite q off addr len _ => spell q 0x8 0x01 [(8, off.toNat), (8, addr.toNat), (8, len.toNat)]
  | .logAppend q kind pad idx addr len _ => spell q 0x9 0x01 [(1, kind.toNat), (1, pad.toNat % 256), (2, idx.toNat), (4, pad.toNat / 256), (8, addr.toNat), (8, len.toNat)]
  | .logReadCmd q origin lsn addr len _ => spell q 0x9 0x02 [(8, origin.toNat), (8, lsn.toNat), (8, addr.toNat), (8, len.toNat)]
  | .logFetch q origin lsn peer _ => spell q 0x9 0x03 [(8, origin.toNat), (8, lsn.toNat), (1, peer.toNat)]
  | .mgrKey q mgr pad addr _ => spell q 0x9 0x04 [(1, mgr.toNat), (7, pad.toNat), (8, addr.toNat)]
  | _ => none

/-- The number of `n` bytes from byte `b` of an entry on, little-endian (R314). -/
def entryBytes (v : BitVec 512) (b n : Nat) : Nat := v.toNat / 2 ^ (8 * b) % 2 ^ (8 * n)

/-- The codes that R317, R419 to R422, R441 and R467 define in a class. -/
def codesOf (cls : Nat) : Nat :=
  match cls with
  | 1 => 8
  | 2 => 3
  | 3 => 5
  | 4 => 7
  | 5 => 3
  | 6 => 1
  | 7 => 4
  | 8 => 1
  | 9 => 4
  | _ => 0

/-- CLASS and CODE of an entry are defined (R317). -/
def entryDefined (v : BitVec 512) : Bool :=
  decide (1 ≤ entryBytes v 1 1) && decide (entryBytes v 1 1 ≤ codesOf (entryBytes v 0 1))

/-- An entry spells a command of a ring (R314, R317, R318). Bytes 2 and 3 are the bytes that R314 reserves (log 70). -/
def entrySpells (v : BitVec 512) (i : Instr) : Bool :=
  match ringSpell i with
  | none => false
  | some x =>
    entryBytes v 0 1 == x.cls && entryBytes v 1 1 == x.code && (entryBytes v 2 2 != 0) == x.q.resv
      && entryBytes v 4 4 == x.q.tag.toNat && x.ops.all (fun o => entryBytes v o.1 o.2.1 == o.2.2)

/-- The entry that spells a command, its reserved bytes `rsv` and every byte that no operand takes 0 (R314, R317, R318). -/
def entryOf (rsv : BitVec 16) (x : Spelling) : BitVec 512 :=
  BitVec.ofNat 512 (x.cls + 2 ^ 8 * x.code + 2 ^ 16 * rsv.toNat + 2 ^ 32 * x.q.tag.toNat
    + (x.ops.map (fun o => 2 ^ (8 * o.1) * o.2.2)).sum)

end Sys2Proof
end

