-- ==== Sys2Proof/Machine/Map.lean ====
section
/-!
DEFINITION. Finite maps from natural numbers as plain data: a list of (key, value) pairs, keys strictly rising, no
value equal to the map's default. Memory, register files, tables and queues by number are all held so.
-/
namespace Sys2Proof.Machine

/-- A map from natural numbers, in the canonical form of `mapWf`. -/
abbrev SMap (α : Type) := List (Nat × α)

/-- The value at key `k`; `d` is what an unlisted key holds. -/
def mapGet {α : Type} (d : α) : SMap α → Nat → α
  | [], _ => d
  | (k', v) :: m, k => if k' = k then v else mapGet d m k

/-- The map without key `k`. -/
def mapErase {α : Type} : SMap α → Nat → SMap α
  | [], _ => []
  | (k', v) :: m, k => if k' = k then mapErase m k else (k', v) :: mapErase m k

/-- Puts a pair in its place by key; the key is not listed before. -/
def mapInsert {α : Type} : SMap α → Nat → α → SMap α
  | [], k, v => [(k, v)]
  | (k', v') :: m, k, v => if k < k' then (k, v) :: (k', v') :: m else (k', v') :: mapInsert m k v

/-- Writes `v` at `k`; writing the default removes the entry, so that equal maps are equal data. -/
def mapSet {α : Type} [DecidableEq α] (d : α) (m : SMap α) (k : Nat) (v : α) : SMap α :=
  if v = d then mapErase m k else mapInsert (mapErase m k) k v

/-- Every key of the map is above `k`. -/
def mapAbove {α : Type} (k : Nat) : SMap α → Bool
  | [] => true
  | (k', _) :: m => decide (k < k') && mapAbove k m

/-- The canonical form: keys strictly rising, no entry equal to the default. -/
def mapWf {α : Type} [DecidableEq α] (d : α) : SMap α → Bool
  | [] => true
  | (k, v) :: m => decide (v ≠ d) && mapAbove k m && mapWf d m

/-- Applies `f` to the value at `k`. -/
def mapUpd {α : Type} [DecidableEq α] (d : α) (m : SMap α) (k : Nat) (f : α → α) : SMap α :=
  mapSet d m k (f (mapGet d m k))

/-- The smallest natural number below `n` that satisfies `f`, from `i` on. -/
def firstIdx (f : Nat → Bool) : Nat → Nat → Option Nat
  | 0, _ => none
  | n + 1, i => if f i then some i else firstIdx f n (i + 1)

/-- A list of the `n` results of `f` from `i` on. -/
def tabulate {α : Type} (f : Nat → α) : Nat → Nat → List α
  | 0, _ => []
  | n + 1, i => f i :: tabulate f n (i + 1)

/-- Puts `x` ahead of the first element that is not `before` it. -/
def insertBy {α : Type} (before : α → α → Bool) (x : α) : List α → List α
  | [] => [x]
  | y :: l => if before y x then y :: insertBy before x l else x :: y :: l

/-- The list in the order that `before` gives, level elements in the order they had. -/
def sortBy {α : Type} (before : α → α → Bool) : List α → List α
  | [] => []
  | x :: l => insertBy before x (sortBy before l)

end Sys2Proof.Machine
end

