-- ==== Sys2Proof/Machine/Bits.lean ====
section
/-!
DEFINITION. Bit fields, sign extension, byte order (R40: little-endian) and serial-number arithmetic (R91).
-/
namespace Sys2Proof.Machine

/-- Bits [hi:lo] of `v`. -/
def fieldGet (v hi lo : Nat) : Nat := v / 2 ^ lo % 2 ^ (hi + 1 - lo)

/-- `v` with bits [hi:lo] replaced by `x` modulo the field's size. -/
def fieldSet (v hi lo x : Nat) : Nat :=
  v - fieldGet v hi lo * 2 ^ lo + x % 2 ^ (hi + 1 - lo) * 2 ^ lo

/-- `v` read as a two's complement integer of `w` bits. -/
def signed (w v : Nat) : Int :=
  if 2 ^ (w - 1) ≤ v % 2 ^ w then (v % 2 ^ w : Int) - (2 ^ w : Int) else (v % 2 ^ w : Int)

/-- The integer `x` as a two's complement pattern of `w` bits. -/
def unsigned (w : Nat) (x : Int) : Nat := (x % (2 ^ w : Int)).toNat

/-- `n` bytes of `v`, lowest first. -/
def leBytes : Nat → Nat → List Byte
  | 0, _ => []
  | n + 1, v => BitVec.ofNat 8 v :: leBytes n (v / 256)

/-- The number that bytes, lowest first, spell. -/
def ofLe : List Byte → Nat
  | [] => 0
  | b :: bs => b.toNat + 256 * ofLe bs

/-- `n` divided by `d`, rounded up. -/
def ceilDiv (n d : Nat) : Nat := (n + d - 1) / d

/-- `x` held between `lo` and `hi`. -/
def clampInt (lo hi x : Int) : Int := max lo (min hi x)

/-- Tick a is earlier than tick b, by RFC 1982 serial numbers of `w` bits (R91). -/
def serialBefore (w a b : Nat) : Bool :=
  let d := (b + 2 ^ w - a % 2 ^ w) % 2 ^ w
  decide (1 ≤ d ∧ d ≤ 2 ^ (w - 1) - 1)

/-- How many of the low `n` bits of `v` are set. -/
def popCount : Nat → Nat → Nat
  | 0, _ => 0
  | n + 1, v => v % 2 + popCount n (v / 2)

/-- Bit `i` of `v`. -/
def bitOf (v i : Nat) : Bool := v.testBit i

/-- `v` with bit `i` set to `b`. -/
def setBit (v i : Nat) (b : Bool) : Nat := fieldSet v i i (if b then 1 else 0)

/-- A truth value as 0 or 1. -/
def b2n (b : Bool) : Nat := if b then 1 else 0

/-- CRC-32C (Castagnoli, reflected) over bytes, as the boot record, the journal and the input log use it. -/
def crcByte : Nat → Nat → Nat
  | 0, c => c
  | n + 1, c => crcByte n (if c % 2 = 1 then Nat.xor (c / 2) 0x82F63B78 else c / 2)

/-- CRC-32C register after the bytes. -/
def crcRun : Nat → List Byte → Nat
  | c, [] => c
  | c, b :: bs => crcRun (crcByte 8 (Nat.xor c b.toNat)) bs

/-- CRC-32C of a list of bytes. -/
def crc32c (bs : List Byte) : Nat := Nat.xor (crcRun 0xFFFFFFFF bs) 0xFFFFFFFF

end Sys2Proof.Machine
end

