-- ==== Sys2Proof/Machine/Crypto.lean ====
section
/-!
DEFINITION. The public functions of cryptography that the rules name: SHA-256 and SHA-512 (FIPS 180-4), HMAC-SHA-256, and
the verification of RSASSA-PSS with SHA-512 and a 64-byte salt (R422, R428, R461; log 15).
-/
namespace Sys2Proof.Machine

/-- The first 80 primes. -/
def shaPrimes : List Nat :=
  [2, 3, 5, 7, 11, 13, 17, 19, 23, 29, 31, 37, 41, 43, 47, 53, 59, 61, 67, 71, 73, 79, 83, 89, 97, 101, 103, 107, 109, 113]
  ++ [127, 131, 137, 139, 149, 151, 157, 163, 167, 173, 179, 181, 191, 193, 197, 199, 211, 223, 227, 229, 233, 239, 241]
  ++ [251, 257, 263, 269, 271, 277, 281, 283, 293, 307, 311, 313, 317, 331, 337, 347, 349, 353, 359, 367, 373, 379, 383]
  ++ [389, 397, 401, 409]

/-- The largest `r` below `2 ^ b` with `r ^ k ≤ n`. -/
def iroot (k n : Nat) : Nat → Nat → Nat
  | 0, r => r
  | b + 1, r => iroot k n b (if (r + 2 ^ b) ^ k ≤ n then r + 2 ^ b else r)

/-- What sets SHA-256 and SHA-512 apart: word width, rounds, and the rotations of the four functions (the last of σ a shift). -/
structure ShaKind where
  w : Nat
  rounds : Nat
  S0 : Nat × Nat × Nat
  S1 : Nat × Nat × Nat
  s0 : Nat × Nat × Nat
  s1 : Nat × Nat × Nat

def sha256Kind : ShaKind :=
  { w := 32, rounds := 64, S0 := (2, 13, 22), S1 := (6, 11, 25), s0 := (7, 18, 3), s1 := (17, 19, 10) }

def sha512Kind : ShaKind :=
  { w := 64, rounds := 80, S0 := (28, 34, 39), S1 := (14, 18, 41), s0 := (1, 8, 7), s1 := (19, 61, 6) }

/-- Rotation of a `w`-bit word to the right. -/
def rotr (w x n : Nat) : Nat := x / 2 ^ n + x % 2 ^ n * 2 ^ (w - n)

def shaSum (k : ShaKind) (r : Nat × Nat × Nat) (x : Nat) : Nat :=
  Nat.xor (Nat.xor (rotr k.w x r.1) (rotr k.w x r.2.1)) (rotr k.w x r.2.2)

def shaMix (k : ShaKind) (r : Nat × Nat × Nat) (x : Nat) : Nat :=
  Nat.xor (Nat.xor (rotr k.w x r.1) (rotr k.w x r.2.1)) (x / 2 ^ r.2.2)

/-- The round constants: fractions of cube roots. -/
def shaK (k : ShaKind) : List Nat :=
  (shaPrimes.take k.rounds).map (fun p => iroot 3 (p * 2 ^ (3 * k.w)) (k.w + 4) 0 % 2 ^ k.w)

/-- The initial hash: fractions of square roots. -/
def shaInit (k : ShaKind) : List Nat :=
  (shaPrimes.take 8).map (fun p => iroot 2 (p * 2 ^ (2 * k.w)) (k.w + 3) 0 % 2 ^ k.w)

/-- The rounds over the constants left, the working variables, and the next 16 schedule words. -/
def shaRounds (k : ShaKind) : List Nat → List Nat → List Nat → List Nat
  | [], v, _ => v
  | c :: cs, v, w =>
    let m := 2 ^ k.w
    let g := fun (i : Nat) => v.getD i 0
    let x := fun (i : Nat) => w.getD i 0
    let ch := Nat.xor (Nat.land (g 4) (g 5)) (Nat.land (m - 1 - g 4) (g 6))
    let maj := Nat.xor (Nat.xor (Nat.land (g 0) (g 1)) (Nat.land (g 0) (g 2))) (Nat.land (g 1) (g 2))
    let t1 := g 7 + shaSum k k.S1 (g 4) + ch + c + x 0
    let t2 := shaSum k k.S0 (g 0) + maj
    let nw := (shaMix k k.s1 (x 14) + x 9 + shaMix k k.s0 (x 1) + x 0) % m
    shaRounds k cs [(t1 + t2) % m, g 0, g 1, g 2, (g 3 + t1) % m, g 4, g 5, g 6] (w.drop 1 ++ [nw])

/-- Bytes as a number, most significant first. -/
def ofBe (bs : List Byte) : Nat := ofLe bs.reverse

/-- A number as `n` bytes, most significant first. -/
def beBytes (n v : Nat) : List Byte := (leBytes n v).reverse

/-- The hash over `n` blocks of a padded message. -/
def shaBlocks (k : ShaKind) (ks : List Nat) : Nat → List Byte → List Nat → List Nat
  | 0, _, h => h
  | n + 1, bs, h =>
    let wb := k.w / 8
    let w := tabulate (fun i => ofBe ((bs.drop (wb * i)).take wb)) 16 0
    let v := shaRounds k ks h w
    shaBlocks k ks n (bs.drop (16 * wb)) ((h.zip v).map (fun x => (x.1 + x.2) % 2 ^ k.w))

/-- A message with its padding. -/
def shaPad (k : ShaKind) (bs : List Byte) : List Byte :=
  let b := 2 * k.w
  let tail := k.w / 4
  bs ++ [0x80] ++ List.replicate ((2 * b - (bs.length + 1 + tail) % b) % b) 0 ++ beBytes tail (8 * bs.length)

/-- The hash of a message. -/
def sha (k : ShaKind) (bs : List Byte) : List Byte :=
  let p := shaPad k bs
  (shaBlocks k (shaK k) (p.length / (2 * k.w)) p (shaInit k)).flatMap (beBytes (k.w / 8))

def sha256 (bs : List Byte) : List Byte := sha sha256Kind bs
def sha512 (bs : List Byte) : List Byte := sha sha512Kind bs

/-- Bytewise exclusive or. -/
def xorBytes (a b : List Byte) : List Byte := (a.zip b).map (fun x => x.1 ^^^ x.2)

/-- HMAC-SHA-256 under a key of at most 64 bytes. -/
def hmac256 (key bs : List Byte) : List Byte :=
  let k := key ++ List.replicate (64 - key.length) 0
  sha256 (xorBytes k (List.replicate 64 0x5C) ++ sha256 (xorBytes k (List.replicate 64 0x36) ++ bs))

/-- `b ^ e mod n` over the low `k` bits of `e`. -/
def modPow (b e n : Nat) : Nat → Nat
  | 0 => 1 % n
  | k + 1 =>
    let r := modPow (b * b % n) (e / 2) n k
    if e % 2 = 1 then b * r % n else r

/-- MGF1 with SHA-512. -/
def mgf1 (seed : List Byte) (n : Nat) : List Byte :=
  ((tabulate (fun i => i) (ceilDiv n 64) 0).flatMap (fun i => sha512 (seed ++ beBytes 4 i))).take n

/-- RSASSA-PSS with SHA-512, a 64-byte salt and a modulus of 4096 bits: `sig` verifies for the message. -/
def pssOk (n e sig : Nat) (msg : List Byte) : Bool :=
  let em := beBytes 512 (modPow sig e n 32)
  let h := (em.drop 447).take 64
  let db := xorBytes (em.take 447) (mgf1 h 447)
  let db := beBytes 447 (ofBe db % 2 ^ (8 * 447 - 1))
  let salt := db.drop 383
  decide (sig < n) && em.drop 511 == [0xBC] && decide (ofBe (em.take 1) < 128)
    && db.take 383 == List.replicate 382 0 ++ [0x01]
    && sha512 (List.replicate 8 0 ++ sha512 msg ++ salt) == h

end Sys2Proof.Machine
end

