-- ==== Sys2Proof/Config.lean ====
section
/-!
DEFINITION. What the spec leaves open, as constants without a body: no proof can see their values.
-/
namespace Sys2Proof.Config

/-- Free value number `n` (log 3): a next state takes value number `State.free`, reduced to the width of its place,
wherever the spec leaves a value open. -/
opaque freeNat : Nat → Nat

/-- Element `i` of free list number `n` (log 3): the values of a tile, of unwritten bytes or of the choices of an
order that the spec leaves open. -/
opaque freeAt : Nat → Nat → Nat

/-- The FP32 code that VX function number `f` gives for the operand code `x`, where it lies within the accuracy of
R66; else the correctly rounded result is taken (log 10). -/
opaque fnCode : Nat → Nat → Nat

/-- A change recorded by type `t` in journal format `a` can be expressed in format `b`, as `jfmtExpresses b a t` (R444; log 45). -/
opaque jfmtExpresses : Nat → Nat → Nat → Bool

/-- The UFS device refuses the counter write that free value number `n` decides on (R426; log 45). -/
opaque rpmbRefuses : Nat → Bool

/-- P_static as firmware scales it (R357, log 18): the measured power, the temperature at which it was measured, and the temperature
now, in 0.1 W and 1/16 °C. -/
opaque staticScale : Nat → Int → Int → Nat

/-- Byte `n` of the firmware bundle that the module is shipped with (R1, R425; log 16). -/
opaque shipped : Nat → Nat

/-- The root hash in mask ROM (R428; log 15), as the 64 bytes of a SHA-512 digest, most significant first. -/
opaque rootHash : Nat

/-- The private operation, modulo its 4096-bit modulus, of the identity key (0) and of the import key (1) that the SEC block
derives (R417; log 15). -/
opaque rsaPrivate : Nat → Nat → Nat

/-- The form in which the storage key wraps a weight key or a manager's key (R420, R461; log 15), and the key that a wrapped form
holds. -/
opaque keyWrap : Nat → Nat
opaque keyUnwrap : Nat → Nat

/-- The low 64 bits of the SHA-512 of the identity public key (R419; log 15). -/
opaque secId : Nat

/-- Bytes of the device certificate chain, of which there are at most 16 384, and byte `n` of it (R419; log 15). -/
opaque certLen : Nat
opaque certByte : Nat → Nat

end Sys2Proof.Config
end

