-- ==== Sys2Proof/Machine/Fp.lean ====
section
/-!
DEFINITION. Number formats and their arithmetic (spec/02): the value of every code, rounding, saturation, block
scaling, and the FP32 operations of the lanes and accumulators.
-/
namespace Sys2Proof.Machine

/-! ### Format codes (R38, R39) -/

def FMT_INT4 : Nat := 0x01
def FMT_INT8 : Nat := 0x02
def FMT_INT32 : Nat := 0x03
def FMT_E4M3 : Nat := 0x10
def FMT_E5M2 : Nat := 0x11
def FMT_FP16 : Nat := 0x12
def FMT_BF16 : Nat := 0x13
def FMT_FP32 : Nat := 0x14
def FMT_BS4 : Nat := 0x20
def FMT_BS6 : Nat := 0x21
def FMT_BS8 : Nat := 0x22

/-- Element width in bits, 0 for a code that R38 does not list. -/
def fmtBits (f : Nat) : Nat :=
  if f = 0x01 ∨ f = 0x20 then 4 else if f = 0x21 then 6
  else if f = 0x02 ∨ f = 0x10 ∨ f = 0x11 ∨ f = 0x22 then 8
  else if f = 0x12 ∨ f = 0x13 then 16 else if f = 0x03 ∨ f = 0x14 then 32 else 0

/-- A code of R38 with SPARSE clear. -/
def fmtOk (f : Nat) : Bool := fmtBits f != 0

/-- A block-scaled format (R45). -/
def fmtBlock (f : Nat) : Bool := f == 0x20 || f == 0x21 || f == 0x22

/-- An integer format (R41). -/
def fmtInt (f : Nat) : Bool := f == 0x01 || f == 0x02 || f == 0x03

/-- A format that MX reads (R38). -/
def fmtMx (f : Nat) : Bool := fmtOk f && f != 0x03 && f != 0x14

/-- Bytes of 32 elements of a block-scaled format (R45). -/
def blockBytes (f : Nat) : Nat := 4 * fmtBits f

/-- Fraction bits of a block-scaled format (R45). -/
def blockFrac (f : Nat) : Nat := fmtBits f - 2

/-- Elements in `n` bytes of a row. -/
def elemsIn (f n : Nat) : Nat := n * 8 / max 1 (fmtBits f)

/-- Bytes of `n` elements of a row. -/
def bytesOf (f n : Nat) : Nat := ceilDiv (n * fmtBits f) 8

/-! ### Values -/

/-- A value of a float format: a NaN, an infinity or (-1)^neg · m · 2^e. The sign of zero is kept (R44). -/
inductive FVal where
  | nan
  | inf (neg : Bool)
  | fin (neg : Bool) (m : Nat) (e : Int)
  deriving DecidableEq, Repr

/-- Positive zero. -/
def fzero : FVal := .fin false 0 0

/-- An integer as a value. -/
def fInt (x : Int) : FVal := .fin (decide (x < 0)) x.natAbs 0

/-- A natural number as a value. -/
def fNat (n : Nat) : FVal := .fin false n 0

def FVal.isNan : FVal → Bool
  | .nan => true
  | _ => false

/-- NaN or infinite. -/
def FVal.odd : FVal → Bool
  | .fin _ _ _ => false
  | _ => true

def FVal.isZero : FVal → Bool
  | .fin _ m _ => m == 0
  | _ => false

def FVal.sign : FVal → Bool
  | .nan => false
  | .inf s => s
  | .fin s _ _ => s

def FVal.negate : FVal → FVal
  | .nan => .nan
  | .inf s => .inf (!s)
  | .fin s m e => .fin (!s) m e

def FVal.magnitude : FVal → FVal
  | .nan => .nan
  | .inf _ => .inf false
  | .fin _ m e => .fin false m e

/-- A finite value as an integer number of 2^q, exact where q is at most its exponent; rounded down otherwise. -/
def FVal.scaled (q : Int) : FVal → Int
  | .fin s m e =>
    let v : Int := if q ≤ e then (m * 2 ^ (e - q).toNat : Nat) else (m / 2 ^ (q - e).toNat : Nat)
    if s then -v else v
  | _ => 0

/-- The exponent of a finite value. -/
def FVal.expo : FVal → Int
  | .fin _ _ e => e
  | _ => 0

/-- Ordering of R64 between values that are not NaN, with -0 below +0. -/
def FVal.lt (a b : FVal) : Bool :=
  match a, b with
  | .nan, _ => false
  | _, .nan => false
  | .inf s, .inf t => s && !t
  | .inf s, .fin _ _ _ => s
  | .fin _ _ _, .inf t => !t
  | .fin s m e, .fin t n f =>
    let q := min e f
    let x := (FVal.fin s m e).scaled q
    let y := (FVal.fin t n f).scaled q
    decide (x < y) || (decide (x = y) && s && !t)

/-! ### Float formats (R42, R43) -/

/-- Mantissa bits, the exponent of the smallest subnormal, and the largest finite code. -/
structure FFmt where
  mbits : Nat
  qmin : Int
  top : Nat
  width : Nat
  ieee : Bool
  deriving DecidableEq, Repr

def ffE4M3 : FFmt := { mbits := 3, qmin := -9, top := 0x7E, width := 8, ieee := false }
def ffE5M2 : FFmt := { mbits := 2, qmin := -16, top := 0x7B, width := 8, ieee := true }
def ffFP16 : FFmt := { mbits := 10, qmin := -24, top := 0x7BFF, width := 16, ieee := true }
def ffBF16 : FFmt := { mbits := 7, qmin := -133, top := 0x7F7F, width := 16, ieee := true }
def ffFP32 : FFmt := { mbits := 23, qmin := -149, top := 0x7F7FFFFF, width := 32, ieee := true }

/-- The float format of a code. -/
def fltFmt (f : Nat) : FFmt :=
  if f = 0x10 then ffE4M3 else if f = 0x11 then ffE5M2 else if f = 0x12 then ffFP16
  else if f = 0x13 then ffBF16 else ffFP32

/-- The value of a float code (R42, R43). -/
def fltDecode (k : FFmt) (code : Nat) : FVal :=
  let mag := code % 2 ^ (k.width - 1)
  let neg := decide (2 ^ (k.width - 1) ≤ code % 2 ^ k.width)
  if k.top < mag then (if k.ieee && mag == k.top + 1 then .inf neg else .nan)
  else
    let e := mag / 2 ^ k.mbits
    let m := mag % 2 ^ k.mbits
    if e = 0 then .fin neg m k.qmin else .fin neg (2 ^ k.mbits + m) (k.qmin + (e - 1 : Nat))

/-- The canonical NaN (R44). -/
def fltNan (k : FFmt) : Nat := if k.ieee then k.top + 1 + 2 ^ (k.mbits - 1) else 0x7F

/-- `m / 2^d` rounded to an integer: to nearest, ties to even, or toward zero (R59). -/
def roundShift (rtz : Bool) (m d : Nat) : Nat :=
  let q := m / 2 ^ d
  let r := m % 2 ^ d
  if rtz then q else if 2 * r > 2 ^ d ∨ (2 * r = 2 ^ d ∧ q % 2 = 1) then q + 1 else q

/-- The code of a magnitude rounded as though the exponent range had no upper end (R496). -/
def fltRound (k : FFmt) (rtz : Bool) (m : Nat) (e : Int) : Nat :=
  if m = 0 then 0
  else
    let q := max (e + Nat.log2 m - k.mbits) k.qmin
    let r := if q ≤ e then m * 2 ^ (e - q).toNat else roundShift rtz m (q - e).toNat
    (q - k.qmin).toNat * 2 ^ k.mbits + r

/-- The code of a value in a float format, and whether the conversion clamped or overflowed (R59 to R61, R496). -/
def fltEncode (k : FFmt) (rtz nosat : Bool) (v : FVal) : Nat × Bool :=
  let s := if v.sign then 2 ^ (k.width - 1) else 0
  match v with
  | .nan => (fltNan k, false)
  | .inf _ => if k.ieee then (s + k.top + 1, false) else (s + k.top, true)
  | .fin _ m e =>
    let c := fltRound k rtz m e
    if c ≤ k.top then (s + c, false)
    else if nosat && k.ieee then (s + k.top + 1, true)
    else (s + k.top, true)

/-- A value rounded to FP32 by RNE, overflow giving infinity: what lanes and accumulators hold (R51, R59). -/
def r32 (v : FVal) : FVal := fltDecode ffFP32 (fltEncode ffFP32 false true v).1

/-- The FP32 code of a value that FP32 holds. -/
def code32 (v : FVal) : Nat := (fltEncode ffFP32 false true v).1

/-- The value of an FP32 code. -/
def val32 (c : Nat) : FVal := fltDecode ffFP32 c

/-! ### Arithmetic of the lanes (R62, R63, R66): exact, then rounded once -/

/-- The exact sum. A zero from opposite signs is +0. -/
def addExact (a b : FVal) : FVal :=
  match a, b with
  | .nan, _ => .nan
  | _, .nan => .nan
  | .inf s, .inf t => if s = t then .inf s else .nan
  | .inf s, .fin _ _ _ => .inf s
  | .fin _ _ _, .inf t => .inf t
  | .fin s m e, .fin t n f =>
    let q := min e f
    let x := (FVal.fin s m e).scaled q + (FVal.fin t n f).scaled q
    if x = 0 then .fin (s && t && m == 0 && n == 0) 0 0 else .fin (decide (x < 0)) x.natAbs q

/-- The exact product. -/
def mulExact (a b : FVal) : FVal :=
  match a, b with
  | .nan, _ => .nan
  | _, .nan => .nan
  | .inf s, .inf t => .inf (s != t)
  | .inf s, .fin t n _ => if n = 0 then .nan else .inf (s != t)
  | .fin s m _, .inf t => if m = 0 then .nan else .inf (s != t)
  | .fin s m e, .fin t n f => .fin (s != t) (m * n) (e + f)

def fadd (a b : FVal) : FVal := r32 (addExact a b)
def fsub (a b : FVal) : FVal := fadd a b.negate
def fmul (a b : FVal) : FVal := r32 (mulExact a b)
/-- a × b + c, rounded once. -/
def ffma (a b c : FVal) : FVal := r32 (addExact (mulExact a b) c)

/-- A quotient of positive numbers with 64 bits and a sticky bit, so that one rounding of it is correct. -/
def quotSticky (m n : Nat) : Nat × Int :=
  let k := 64 + Nat.log2 n
  let q := m * 2 ^ k / n
  (2 * q + (if m * 2 ^ k % n = 0 then 0 else 1), -(k : Int) - 1)

/-- The quotient, rounded once. -/
def fdiv (a b : FVal) : FVal :=
  match a, b with
  | .nan, _ => .nan
  | _, .nan => .nan
  | .inf _, .inf _ => .nan
  | .inf s, .fin t _ _ => .inf (s != t)
  | .fin s _ _, .inf t => .fin (s != t) 0 0
  | .fin s m e, .fin t n f =>
    if n = 0 then (if m = 0 then .nan else .inf (s != t))
    else
      let q := quotSticky m n
      r32 (.fin (s != t) q.1 (e - f + q.2))

/-- The integer square root by digits, `fuel` bits of result. -/
def isqrtGo : Nat → Nat → Nat → Nat
  | 0, _, r => r
  | fuel + 1, n, r => isqrtGo fuel n (if (r + 2 ^ fuel) * (r + 2 ^ fuel) ≤ n then r + 2 ^ fuel else r)

/-- The integer square root. -/
def isqrt (n : Nat) : Nat := isqrtGo (Nat.log2 n / 2 + 1) n 0

/-- The square root, rounded once. -/
def fsqrt (a : FVal) : FVal :=
  match a with
  | .nan => .nan
  | .inf s => if s then .nan else .inf false
  | .fin s m e =>
    if m = 0 then .fin s 0 0
    else if s then .nan
    else
      let e' := e - e % 2 - 80
      let n := m * 2 ^ (e - e').toNat
      let r := isqrt n
      r32 (.fin false (2 * r + (if r * r = n then 0 else 1)) (e' / 2 - 1))

/-- The larger, NaN where either is NaN, and +0 above -0 (R64). -/
def fmax (a b : FVal) : FVal := if a.isNan || b.isNan then .nan else if a.lt b then b else a
/-- The smaller, NaN where either is NaN (R64). -/
def fmin (a b : FVal) : FVal := if a.isNan || b.isNan then .nan else if b.lt a then b else a

/-! ### Integer conversions (R60) -/

/-- Clamps an integer to `w` bits; the flag tells that it saturated. -/
def satInt (w : Nat) (x : Int) : Int × Bool :=
  let c := clampInt (-(2 ^ (w - 1) : Nat)) ((2 ^ (w - 1) - 1 : Nat) : Int) x
  (c, decide (c ≠ x))

/-- A finite value rounded to an integer. -/
def toInt (rtz : Bool) (neg : Bool) (m : Nat) (e : Int) : Int :=
  let v := if 0 ≤ e then m * 2 ^ e.toNat else roundShift rtz m (-e).toNat
  if neg then -(v : Int) else v

/-- A value as a code of an integer format of `w` bits, with CONV_CLAMP where it saturates or a NaN becomes 0. -/
def intEncode (w : Nat) (rtz : Bool) (v : FVal) : Nat × Bool :=
  match v with
  | .nan => (0, true)
  | .inf s => (if s then 2 ^ (w - 1) else 2 ^ (w - 1) - 1, true)
  | .fin s m e =>
    let r := satInt w (toInt rtz s m e)
    (unsigned w r.1, r.2)

/-! ### Block scaling (R45 to R49) -/

/-- floor(log2 |v|) of a finite non-zero value. -/
def floorLog2 (v : FVal) : Int :=
  match v with
  | .fin _ m e => e + Nat.log2 m
  | _ => 0

/-- One element of a block with scale byte `s`: the rounded multiple, clamped (R49). -/
def quantElem (f : Nat) (rtz : Bool) (s : Nat) (v : FVal) : Nat × Bool :=
  match v with
  | .fin neg m e =>
    let r := satInt (fmtBits f) (toInt rtz neg m (e + blockFrac f - ((s : Int) - 127)))
    (unsigned (fmtBits f) r.1, r.2)
  | _ => (0, false)

/-- The block that R49 gives for FP32 values: scale byte, element codes, and whether an element was clamped. -/
def quantBlock (f : Nat) (rtz : Bool) (xs : List FVal) : Nat × List Nat × Bool :=
  if xs.any FVal.odd then (255, xs.map (fun _ => 0), false)
  else
    let nz := xs.filter (fun v => !v.isZero)
    match nz with
    | [] => (0, xs.map (fun _ => 0), false)
    | v :: vs =>
      let k := vs.foldl (fun k v => max k (floorLog2 v)) (floorLog2 v)
      let s := (clampInt 0 254 (k + 127)).toNat
      let es := xs.map (quantElem f rtz s)
      (s, es.map Prod.fst, es.any Prod.snd)

/-- Splits a list into pieces of `n`; `fuel` bounds the number of pieces. -/
def pieces {α : Type} (n : Nat) : Nat → List α → List (List α)
  | 0, _ => []
  | fuel + 1, xs => if xs.isEmpty then [] else xs.take n :: pieces n fuel (xs.drop n)

/-- A list cut into blocks of `n` elements. -/
def chunks {α : Type} (n : Nat) (xs : List α) : List (List α) := pieces n xs.length xs

/-- The values of a row: element codes with one scale byte per 32 of them for a block-scaled format (R42 to R46). -/
def rowVals (f : Nat) (codes scales : List Nat) : List FVal :=
  if fmtBlock f then
    ((chunks 32 codes).zip scales).flatMap (fun b =>
      b.1.map (fun c =>
        if b.2 = 255 then FVal.nan
        else
          let x := signed (fmtBits f) c
          .fin (decide (x < 0)) x.natAbs ((b.2 : Int) - 127 - blockFrac f)))
  else if fmtInt f then codes.map (fun c => fInt (signed (fmtBits f) c))
  else codes.map (fltDecode (fltFmt f))

/-- A value in an FP32 lane, and whether that clamped. A block-scaled value below 2^-149 is ±0, and one that FP32
cannot hold overflows by SAT (R60, R496). -/
def lane (f : Nat) (nosat : Bool) (v : FVal) : FVal × Bool :=
  match v with
  | .fin s m e =>
    if fmtBlock f && m != 0 && decide (e + Nat.log2 m < -149) then (.fin s 0 0, false)
    else
      let r := fltEncode ffFP32 false nosat v
      (val32 r.1, r.2)
  | _ => (v, false)

/-- The FP32 lanes of a row, and CONV_CLAMP. -/
def rowLanes (f : Nat) (nosat : Bool) (codes scales : List Nat) : List FVal × Bool :=
  let r := (rowVals f codes scales).map (lane f nosat)
  (r.map Prod.fst, r.any Prod.snd)

/-- A row of codes with its scale bytes. -/
structure Row where
  codes : List Nat
  scales : List Nat
  deriving DecidableEq, Repr

/-- Writes FP32 values as a row of a format, and tells whether a conversion set CONV_CLAMP (R60, R61). A partial last
block is padded with zero elements. -/
def rowEncode (f : Nat) (rtz nosat : Bool) (vs : List FVal) : Row × Bool :=
  if fmtBlock f then
    let n := vs.length
    let vs := vs ++ List.replicate ((32 - n % 32) % 32) fzero
    let bs := (chunks 32 vs).map (quantBlock f rtz)
    ({ codes := bs.flatMap (fun b => b.2.1), scales := bs.map Prod.fst }, bs.any (fun b => b.2.2))
  else if fmtInt f then
    let es := vs.map (intEncode (fmtBits f) rtz)
    ({ codes := es.map Prod.fst, scales := [] }, es.any Prod.snd)
  else
    let es := vs.map (fltEncode (fltFmt f) rtz nosat)
    ({ codes := es.map Prod.fst, scales := [] }, es.any Prod.snd)

/-- Converts a row from one format to another without a scale (R60, R497), with CONV_CLAMP; an integer goes to an
integer by the row for integers. Between equal formats there is no conversion: the codes pass as they are, a NaN's with its payload
and sign (DEDUCED; log 74). -/
def rowConvert (f g : Nat) (rtz nosat : Bool) (r : Row) : Row × Bool :=
  if f = g then (r, false)
  else if fmtInt f && fmtInt g then
    let es := r.codes.map (fun c => satInt (fmtBits g) (signed (fmtBits f) c))
    ({ codes := es.map (fun e => unsigned (fmtBits g) e.1), scales := [] }, es.any Prod.snd)
  else if fmtBlock f || fmtBlock g then
    let l := rowLanes f nosat r.codes r.scales
    let o := rowEncode g rtz nosat l.1
    (o.1, l.2 || o.2)
  else rowEncode g rtz nosat (rowVals f r.codes r.scales)

/-- A conversion made a NaN of an element that was none (R49, R63, R67). -/
def madeNan (f g : Nat) (x y : Row) : Bool :=
  ((rowVals f x.codes x.scales).zip (rowVals g y.codes y.scales)).any (fun p => !p.1.isNan && p.2.isNan)

/-! ### Sums whose order is open (R51, R53, R66, R70; log 10) -/

/-- Combines two entries of a list, which `pick` chooses, until one is left: a tree of any shape. -/
def treeFold {α : Type} (op : α → α → α) (pick : Nat → Nat) : Nat → Nat → List α → List α
  | 0, _, xs => xs
  | fuel + 1, n, xs =>
    let i := pick n % max 1 xs.length
    match xs.drop i with
    | [] => xs
    | a :: rest =>
      let ys := xs.take i ++ rest
      let j := pick (n + 1) % max 1 ys.length
      match ys.drop j with
      | [] => xs
      | b :: rest' => treeFold op pick fuel (n + 2) (op a b :: (ys.take j ++ rest'))

/-- The sum of a list in a tree of any shape, `z` for the empty list. -/
def treeSum {α : Type} (z : α) (op : α → α → α) (pick : Nat → Nat) (xs : List α) : α :=
  (treeFold op pick xs.length 0 xs).headD z

/-- A saturating INT32 addition that remembers whether any addition saturated (R53). -/
def satAdd (a b : Int × Bool) : Int × Bool :=
  let r := satInt 32 (a.1 + b.1)
  (r.1, a.2 || b.2 || r.2)

end Sys2Proof.Machine
end

