-- ==== Sys2Proof/Machine/RegMap.lean ====
section
/-!
DEFINITION. The register map of BAR0: offsets, fields, reset values and access masks, as the register tables of the
chapters give them (R13, R35, R190, R214, R246 to R248, R271, R299, R308, R331, R347, R372, R373, R401, R402, R423,
R448, R470, R484). A field without a stated reset value resets to 0 here (log 5).
-/
namespace Sys2Proof.Machine

/-- A field of a register: the register's BAR0 offset and bits [hi:lo]. -/
structure Fld where
  reg : Nat
  hi : Nat
  lo : Nat
  deriving DecidableEq, Repr

/-- What the map says of a register, or of a row of registers: offset, (count, stride) of each index, width in bits,
reset value, and masks of its RW, W1C and WO bits. -/
structure RegInfo where
  off : Nat
  dims : List (Nat × Nat)
  width : Nat
  reset : Nat
  rw : Nat
  w1c : Nat
  deriving DecidableEq, Repr

/-- GEN_ID (R35). -/
def GEN_ID : Nat := 0x0
@[reducible] def GEN_ID_FAMILY : Fld := ⟨GEN_ID, 31, 24⟩
@[reducible] def GEN_ID_PART : Fld := ⟨GEN_ID, 23, 16⟩
@[reducible] def GEN_ID_STEPPING : Fld := ⟨GEN_ID, 15, 8⟩
@[reducible] def GEN_ID_LAYOUT : Fld := ⟨GEN_ID, 7, 0⟩
/-- GEN_CAP (R35). -/
def GEN_CAP : Nat := 0x8
@[reducible] def GEN_CAP_ACX_CORES : Fld := ⟨GEN_CAP, 63, 56⟩
@[reducible] def GEN_CAP_CODEC_CORES : Fld := ⟨GEN_CAP, 55, 48⟩
@[reducible] def GEN_CAP_ETH_PORTS : Fld := ⟨GEN_CAP, 47, 40⟩
@[reducible] def GEN_CAP_VFS : Fld := ⟨GEN_CAP, 39, 32⟩
@[reducible] def GEN_CAP_STACKS : Fld := ⟨GEN_CAP, 27, 24⟩
@[reducible] def GEN_CAP_HALVES : Fld := ⟨GEN_CAP, 23, 20⟩
@[reducible] def GEN_CAP_CLUSTERS : Fld := ⟨GEN_CAP, 19, 16⟩
@[reducible] def GEN_CAP_CORES_PER_CLUSTER : Fld := ⟨GEN_CAP, 15, 12⟩
@[reducible] def GEN_CAP_ENGINES_PER_CORE : Fld := ⟨GEN_CAP, 11, 8⟩
@[reducible] def GEN_CAP_ENGINE_DIM : Fld := ⟨GEN_CAP, 7, 0⟩
/-- GEN_AVAIL (R35). -/
def GEN_AVAIL : Nat := 0x10
@[reducible] def GEN_AVAIL_SEQ : Fld := ⟨GEN_AVAIL, 63, 48⟩
@[reducible] def GEN_AVAIL_STACKS_OK : Fld := ⟨GEN_AVAIL, 45, 40⟩
@[reducible] def GEN_AVAIL_CLUSTERS_OK : Fld := ⟨GEN_AVAIL, 39, 32⟩
@[reducible] def GEN_AVAIL_COOL_ONLY : Fld := ⟨GEN_AVAIL, 24, 16⟩
@[reducible] def GEN_AVAIL_RETIRED : Fld := ⟨GEN_AVAIL, 8, 0⟩
/-- GEN_MEM (R35). -/
def GEN_MEM : Nat := 0x18
@[reducible] def GEN_MEM_DRAM_TOTAL : Fld := ⟨GEN_MEM, 47, 32⟩
@[reducible] def GEN_MEM_DRAM_PLACEABLE : Fld := ⟨GEN_MEM, 31, 16⟩
@[reducible] def GEN_MEM_ACX_GIB : Fld := ⟨GEN_MEM, 15, 8⟩
@[reducible] def GEN_MEM_FW_GIB : Fld := ⟨GEN_MEM, 7, 0⟩
/-- GEN_STATE (R13). -/
def GEN_STATE : Nat := 0x40
@[reducible] def GEN_STATE_PREV : Fld := ⟨GEN_STATE, 11, 8⟩
@[reducible] def GEN_STATE_MODE : Fld := ⟨GEN_STATE, 3, 0⟩
/-- GEN_SLOT (R484). -/
def GEN_SLOT : Nat := 0x48
@[reducible] def GEN_SLOT_RAIL_FAULT : Fld := ⟨GEN_SLOT, 15, 15⟩
@[reducible] def GEN_SLOT_SLOT_CHANGED : Fld := ⟨GEN_SLOT, 14, 14⟩
@[reducible] def GEN_SLOT_PWR_EN : Fld := ⟨GEN_SLOT, 13, 13⟩
@[reducible] def GEN_SLOT_TRAY_PRESENT : Fld := ⟨GEN_SLOT, 12, 12⟩
@[reducible] def GEN_SLOT_SLOT_ID : Fld := ⟨GEN_SLOT, 4, 0⟩
/-- TB_TIME (R246). -/
def TB_TIME : Nat := 0x100000
@[reducible] def TB_TIME_TIME : Fld := ⟨TB_TIME, 63, 0⟩
/-- TB_CTRL (R246). -/
def TB_CTRL : Nat := 0x100008
@[reducible] def TB_CTRL_SLEW_PPM : Fld := ⟨TB_CTRL, 19, 8⟩
@[reducible] def TB_CTRL_SRC : Fld := ⟨TB_CTRL, 1, 0⟩
/-- TB_STATUS (R246). -/
def TB_STATUS : Nat := 0x10000C
@[reducible] def TB_STATUS_PPS_GLITCH : Fld := ⟨TB_STATUS, 5, 5⟩
@[reducible] def TB_STATUS_STEPPED : Fld := ⟨TB_STATUS, 4, 4⟩
@[reducible] def TB_STATUS_PTP_OK : Fld := ⟨TB_STATUS, 3, 3⟩
@[reducible] def TB_STATUS_PPS_OK : Fld := ⟨TB_STATUS, 2, 2⟩
@[reducible] def TB_STATUS_HOLDOVER : Fld := ⟨TB_STATUS, 1, 1⟩
@[reducible] def TB_STATUS_LOCK : Fld := ⟨TB_STATUS, 0, 0⟩
/-- TB_OFFSET (R246). -/
def TB_OFFSET : Nat := 0x100010
@[reducible] def TB_OFFSET_OFFSET : Fld := ⟨TB_OFFSET, 63, 0⟩
/-- TB_FREQ_ADJ (R246). -/
def TB_FREQ_ADJ : Nat := 0x100018
@[reducible] def TB_FREQ_ADJ_ADJ : Fld := ⟨TB_FREQ_ADJ, 31, 0⟩
/-- TB_PPS_STAMP (R246). -/
def TB_PPS_STAMP : Nat := 0x100020
@[reducible] def TB_PPS_STAMP_STAMP : Fld := ⟨TB_PPS_STAMP, 63, 0⟩
/-- TB_STEP_THRESH (R246). -/
def TB_STEP_THRESH : Nat := 0x100028
@[reducible] def TB_STEP_THRESH_US : Fld := ⟨TB_STEP_THRESH, 31, 0⟩
/-- TB_LOCK (R246). -/
def TB_LOCK : Nat := 0x10002C
@[reducible] def TB_LOCK_NS : Fld := ⟨TB_LOCK, 15, 0⟩
/-- TB_TRACE_CTRL (R246). -/
def TB_TRACE_CTRL : Nat := 0x100030
@[reducible] def TB_TRACE_CTRL_EN : Fld := ⟨TB_TRACE_CTRL, 31, 31⟩
@[reducible] def TB_TRACE_CTRL_TILE_SHIFT : Fld := ⟨TB_TRACE_CTRL, 27, 24⟩
@[reducible] def TB_TRACE_CTRL_TYPES : Fld := ⟨TB_TRACE_CTRL, 16, 0⟩
/-- TB_TRACE_BASE (R246). -/
def TB_TRACE_BASE : Nat := 0x100038
@[reducible] def TB_TRACE_BASE_BASE : Fld := ⟨TB_TRACE_BASE, 63, 0⟩
/-- TB_TRACE_HEAD (R246). -/
def TB_TRACE_HEAD : Nat := 0x100040
@[reducible] def TB_TRACE_HEAD_WRAPS : Fld := ⟨TB_TRACE_HEAD, 63, 32⟩
@[reducible] def TB_TRACE_HEAD_INDEX : Fld := ⟨TB_TRACE_HEAD, 31, 0⟩
/-- TB_STAT_PPS_GLITCH (R246). -/
def TB_STAT_PPS_GLITCH : Nat := 0x100080
@[reducible] def TB_STAT_PPS_GLITCH_SAT : Fld := ⟨TB_STAT_PPS_GLITCH, 63, 63⟩
@[reducible] def TB_STAT_PPS_GLITCH_CLR : Fld := ⟨TB_STAT_PPS_GLITCH, 62, 62⟩
@[reducible] def TB_STAT_PPS_GLITCH_COUNT : Fld := ⟨TB_STAT_PPS_GLITCH, 47, 0⟩
/-- TB_STAT_PTP_OUTLIER (R246). -/
def TB_STAT_PTP_OUTLIER : Nat := 0x100088
@[reducible] def TB_STAT_PTP_OUTLIER_SAT : Fld := ⟨TB_STAT_PTP_OUTLIER, 63, 63⟩
@[reducible] def TB_STAT_PTP_OUTLIER_CLR : Fld := ⟨TB_STAT_PTP_OUTLIER, 62, 62⟩
@[reducible] def TB_STAT_PTP_OUTLIER_COUNT : Fld := ⟨TB_STAT_PTP_OUTLIER, 47, 0⟩
/-- TK_COUNT (R247). -/
def TK_COUNT : Nat := 0x100100
@[reducible] def TK_COUNT_COUNT : Fld := ⟨TK_COUNT, 63, 0⟩
/-- TK_PERIOD (R247). -/
def TK_PERIOD : Nat := 0x100108
@[reducible] def TK_PERIOD_US : Fld := ⟨TK_PERIOD, 16, 0⟩
/-- TK_SLACK (R247). -/
def TK_SLACK : Nat := 0x10010C
@[reducible] def TK_SLACK_RETRAIN : Fld := ⟨TK_SLACK, 31, 31⟩
@[reducible] def TK_SLACK_BASE_US : Fld := ⟨TK_SLACK, 12, 0⟩
/-- TK_NEXT (R247). -/
def TK_NEXT : Nat := 0x100110
@[reducible] def TK_NEXT_NEXT : Fld := ⟨TK_NEXT, 63, 0⟩
/-- TK_CTRL (R247). -/
def TK_CTRL : Nat := 0x100118
@[reducible] def TK_CTRL_SHARED : Fld := ⟨TK_CTRL, 0, 0⟩
/-- TK_PART (R247). -/
def TK_PART (i : Nat) : Nat := 0x100200 + 0x8 * i
@[reducible] def TK_PART_VALID (i : Nat) : Fld := ⟨TK_PART i, 63, 63⟩
@[reducible] def TK_PART_MODE (i : Nat) : Fld := ⟨TK_PART i, 62, 62⟩
@[reducible] def TK_PART_PRIO (i : Nat) : Fld := ⟨TK_PART i, 61, 59⟩
@[reducible] def TK_PART_CARRY (i : Nat) : Fld := ⟨TK_PART i, 58, 58⟩
@[reducible] def TK_PART_EST_OVER (i : Nat) : Fld := ⟨TK_PART i, 57, 57⟩
@[reducible] def TK_PART_HELD (i : Nat) : Fld := ⟨TK_PART i, 56, 56⟩
@[reducible] def TK_PART_ARM_SRC (i : Nat) : Fld := ⟨TK_PART i, 55, 46⟩
@[reducible] def TK_PART_CREDITS (i : Nat) : Fld := ⟨TK_PART i, 39, 24⟩
@[reducible] def TK_PART_SLOTS (i : Nat) : Fld := ⟨TK_PART i, 23, 16⟩
@[reducible] def TK_PART_USED (i : Nat) : Fld := ⟨TK_PART i, 15, 8⟩
@[reducible] def TK_PART_DEFERRED (i : Nat) : Fld := ⟨TK_PART i, 7, 0⟩
/-- TK_ARM (R247). -/
def TK_ARM (i : Nat) : Nat := 0x100280 + 0x4 * i
@[reducible] def TK_ARM_ADD (i : Nat) : Fld := ⟨TK_ARM i, 15, 0⟩
/-- TK_STAT_ADMITTED (R247). -/
def TK_STAT_ADMITTED : Nat := 0x100300
@[reducible] def TK_STAT_ADMITTED_SAT : Fld := ⟨TK_STAT_ADMITTED, 63, 63⟩
@[reducible] def TK_STAT_ADMITTED_CLR : Fld := ⟨TK_STAT_ADMITTED, 62, 62⟩
@[reducible] def TK_STAT_ADMITTED_COUNT : Fld := ⟨TK_STAT_ADMITTED, 47, 0⟩
/-- TK_STAT_DEFERRED (R247). -/
def TK_STAT_DEFERRED : Nat := 0x100308
@[reducible] def TK_STAT_DEFERRED_SAT : Fld := ⟨TK_STAT_DEFERRED, 63, 63⟩
@[reducible] def TK_STAT_DEFERRED_CLR : Fld := ⟨TK_STAT_DEFERRED, 62, 62⟩
@[reducible] def TK_STAT_DEFERRED_COUNT : Fld := ⟨TK_STAT_DEFERRED, 47, 0⟩
/-- TK_STAT_OVERRUN (R247). -/
def TK_STAT_OVERRUN : Nat := 0x100310
@[reducible] def TK_STAT_OVERRUN_SAT : Fld := ⟨TK_STAT_OVERRUN, 63, 63⟩
@[reducible] def TK_STAT_OVERRUN_CLR : Fld := ⟨TK_STAT_OVERRUN, 62, 62⟩
@[reducible] def TK_STAT_OVERRUN_COUNT : Fld := ⟨TK_STAT_OVERRUN, 47, 0⟩
/-- TK_STAT_EST_OVER (R247). -/
def TK_STAT_EST_OVER : Nat := 0x100318
@[reducible] def TK_STAT_EST_OVER_SAT : Fld := ⟨TK_STAT_EST_OVER, 63, 63⟩
@[reducible] def TK_STAT_EST_OVER_CLR : Fld := ⟨TK_STAT_EST_OVER, 62, 62⟩
@[reducible] def TK_STAT_EST_OVER_COUNT : Fld := ⟨TK_STAT_EST_OVER, 47, 0⟩
/-- EDC_CAP (R347). -/
def EDC_CAP : Nat := 0x200000
@[reducible] def EDC_CAP_CONTEXTS : Fld := ⟨EDC_CAP, 31, 24⟩
@[reducible] def EDC_CAP_PRIO_MAX : Fld := ⟨EDC_CAP, 19, 16⟩
@[reducible] def EDC_CAP_SOURCES : Fld := ⟨EDC_CAP, 9, 0⟩
/-- EDC_DOORBELL (R347). -/
def EDC_DOORBELL : Nat := 0x200008
@[reducible] def EDC_DOORBELL_WITHDRAW : Fld := ⟨EDC_DOORBELL, 31, 31⟩
@[reducible] def EDC_DOORBELL_SOURCE : Fld := ⟨EDC_DOORBELL, 9, 0⟩
/-- EDC_STATUS (R347). -/
def EDC_STATUS : Nat := 0x20000C
@[reducible] def EDC_STATUS_FOREIGN : Fld := ⟨EDC_STATUS, 2, 2⟩
@[reducible] def EDC_STATUS_BAD_DOORBELL : Fld := ⟨EDC_STATUS, 1, 1⟩
@[reducible] def EDC_STATUS_CFG_REJECT : Fld := ⟨EDC_STATUS, 0, 0⟩
/-- EDC_LOCK (R347). -/
def EDC_LOCK : Nat := 0x200010
@[reducible] def EDC_LOCK_GRANTED : Fld := ⟨EDC_LOCK, 31, 31⟩
@[reducible] def EDC_LOCK_OWNER : Fld := ⟨EDC_LOCK, 2, 0⟩
/-- EDC_RET_STATUS (R347). -/
def EDC_RET_STATUS : Nat := 0x200014
@[reducible] def EDC_RET_STATUS_CRC_BAD : Fld := ⟨EDC_RET_STATUS, 2, 2⟩
@[reducible] def EDC_RET_STATUS_RESTORED : Fld := ⟨EDC_RET_STATUS, 1, 1⟩
@[reducible] def EDC_RET_STATUS_SAVED : Fld := ⟨EDC_RET_STATUS, 0, 0⟩
/-- EDC_PEND (R347). -/
def EDC_PEND (i : Nat) : Nat := 0x200100 + 0x4 * i
@[reducible] def EDC_PEND_PEND (i : Nat) : Fld := ⟨EDC_PEND i, 31, 0⟩
/-- EDC_MASK (R347). -/
def EDC_MASK (i : Nat) : Nat := 0x200180 + 0x4 * i
@[reducible] def EDC_MASK_MASK (i : Nat) : Fld := ⟨EDC_MASK i, 31, 0⟩
/-- EDC_ACTIVE (R347). -/
def EDC_ACTIVE (i : Nat) : Nat := 0x200200 + 0x4 * i
@[reducible] def EDC_ACTIVE_ACTIVE (i : Nat) : Fld := ⟨EDC_ACTIVE i, 31, 0⟩
/-- EDC_STAT_DOORBELLS (R347). -/
def EDC_STAT_DOORBELLS : Nat := 0x200300
@[reducible] def EDC_STAT_DOORBELLS_SAT : Fld := ⟨EDC_STAT_DOORBELLS, 63, 63⟩
@[reducible] def EDC_STAT_DOORBELLS_CLR : Fld := ⟨EDC_STAT_DOORBELLS, 62, 62⟩
@[reducible] def EDC_STAT_DOORBELLS_COUNT : Fld := ⟨EDC_STAT_DOORBELLS, 47, 0⟩
/-- EDC_STAT_COALESCED (R347). -/
def EDC_STAT_COALESCED : Nat := 0x200308
@[reducible] def EDC_STAT_COALESCED_SAT : Fld := ⟨EDC_STAT_COALESCED, 63, 63⟩
@[reducible] def EDC_STAT_COALESCED_CLR : Fld := ⟨EDC_STAT_COALESCED, 62, 62⟩
@[reducible] def EDC_STAT_COALESCED_COUNT : Fld := ⟨EDC_STAT_COALESCED, 47, 0⟩
/-- EDC_STAT_SPURIOUS (R347). -/
def EDC_STAT_SPURIOUS : Nat := 0x200310
@[reducible] def EDC_STAT_SPURIOUS_SAT : Fld := ⟨EDC_STAT_SPURIOUS, 63, 63⟩
@[reducible] def EDC_STAT_SPURIOUS_CLR : Fld := ⟨EDC_STAT_SPURIOUS, 62, 62⟩
@[reducible] def EDC_STAT_SPURIOUS_COUNT : Fld := ⟨EDC_STAT_SPURIOUS, 47, 0⟩
/-- EDC_STAT_FOREIGN (R347). -/
def EDC_STAT_FOREIGN : Nat := 0x200318
@[reducible] def EDC_STAT_FOREIGN_SAT : Fld := ⟨EDC_STAT_FOREIGN, 63, 63⟩
@[reducible] def EDC_STAT_FOREIGN_CLR : Fld := ⟨EDC_STAT_FOREIGN, 62, 62⟩
@[reducible] def EDC_STAT_FOREIGN_COUNT : Fld := ⟨EDC_STAT_FOREIGN, 47, 0⟩
/-- EDC_STAT_LOCK_BREAK (R347). -/
def EDC_STAT_LOCK_BREAK : Nat := 0x200320
@[reducible] def EDC_STAT_LOCK_BREAK_SAT : Fld := ⟨EDC_STAT_LOCK_BREAK, 63, 63⟩
@[reducible] def EDC_STAT_LOCK_BREAK_CLR : Fld := ⟨EDC_STAT_LOCK_BREAK, 62, 62⟩
@[reducible] def EDC_STAT_LOCK_BREAK_COUNT : Fld := ⟨EDC_STAT_LOCK_BREAK, 47, 0⟩
/-- EDC_SRC_CFG (R347). -/
def EDC_SRC_CFG (i : Nat) : Nat := 0x201000 + 0x4 * i
@[reducible] def EDC_SRC_CFG_PRIO (i : Nat) : Fld := ⟨EDC_SRC_CFG i, 31, 28⟩
@[reducible] def EDC_SRC_CFG_OWNER (i : Nat) : Fld := ⟨EDC_SRC_CFG i, 27, 24⟩
@[reducible] def EDC_SRC_CFG_CTX (i : Nat) : Fld := ⟨EDC_SRC_CFG i, 20, 16⟩
@[reducible] def EDC_SRC_CFG_VEC (i : Nat) : Fld := ⟨EDC_SRC_CFG i, 15, 8⟩
/-- EDC_CTX_CLAIM (R347). -/
def EDC_CTX_CLAIM (i : Nat) : Nat := 0x202000 + 0x20 * i
@[reducible] def EDC_CTX_CLAIM_SOURCE (i : Nat) : Fld := ⟨EDC_CTX_CLAIM i, 9, 0⟩
/-- EDC_CTX_COMPLETE (R347). -/
def EDC_CTX_COMPLETE (i : Nat) : Nat := 0x202004 + 0x20 * i
@[reducible] def EDC_CTX_COMPLETE_SOURCE (i : Nat) : Fld := ⟨EDC_CTX_COMPLETE i, 9, 0⟩
/-- EDC_CTX_THRESH (R347). -/
def EDC_CTX_THRESH (i : Nat) : Nat := 0x202008 + 0x20 * i
@[reducible] def EDC_CTX_THRESH_THRESH (i : Nat) : Fld := ⟨EDC_CTX_THRESH i, 3, 0⟩
/-- EDC_CTX_STATUS (R347). -/
def EDC_CTX_STATUS (i : Nat) : Nat := 0x20200C + 0x20 * i
@[reducible] def EDC_CTX_STATUS_NOTIFIED (i : Nat) : Fld := ⟨EDC_CTX_STATUS i, 31, 31⟩
@[reducible] def EDC_CTX_STATUS_ACTIVE_COUNT (i : Nat) : Fld := ⟨EDC_CTX_STATUS i, 9, 0⟩
/-- CLK_STATUS (R372). -/
def CLK_STATUS : Nat := 0x300000
@[reducible] def CLK_STATUS_COAST_SEEN : Fld := ⟨CLK_STATUS, 16, 16⟩
@[reducible] def CLK_STATUS_COAST : Fld := ⟨CLK_STATUS, 15, 8⟩
@[reducible] def CLK_STATUS_LOCK : Fld := ⟨CLK_STATUS, 7, 0⟩
/-- CLK_CTRL (R372). -/
def CLK_CTRL : Nat := 0x300004
@[reducible] def CLK_CTRL_GATE_DIS : Fld := ⟨CLK_CTRL, 0, 0⟩
/-- CLK_ACLK (R372). -/
def CLK_ACLK : Nat := 0x300008
@[reducible] def CLK_ACLK_CUR_MHZ : Fld := ⟨CLK_ACLK, 25, 16⟩
@[reducible] def CLK_ACLK_MAX_MHZ : Fld := ⟨CLK_ACLK, 9, 0⟩
/-- CLK_FCLK (R372). -/
def CLK_FCLK : Nat := 0x30000C
@[reducible] def CLK_FCLK_CUR_MHZ : Fld := ⟨CLK_FCLK, 25, 16⟩
@[reducible] def CLK_FCLK_SET_MHZ : Fld := ⟨CLK_FCLK, 9, 0⟩
/-- CLK_ACTIVE (R372). -/
def CLK_ACTIVE : Nat := 0x300010
@[reducible] def CLK_ACTIVE_PCT : Fld := ⟨CLK_ACTIVE, 63, 0⟩
/-- CLK_STAT_COAST (R372). -/
def CLK_STAT_COAST : Nat := 0x300100
@[reducible] def CLK_STAT_COAST_SAT : Fld := ⟨CLK_STAT_COAST, 63, 63⟩
@[reducible] def CLK_STAT_COAST_CLR : Fld := ⟨CLK_STAT_COAST, 62, 62⟩
@[reducible] def CLK_STAT_COAST_COUNT : Fld := ⟨CLK_STAT_COAST, 47, 0⟩
/-- CLK_STAT_ACLK_CHANGE (R372). -/
def CLK_STAT_ACLK_CHANGE : Nat := 0x300108
@[reducible] def CLK_STAT_ACLK_CHANGE_SAT : Fld := ⟨CLK_STAT_ACLK_CHANGE, 63, 63⟩
@[reducible] def CLK_STAT_ACLK_CHANGE_CLR : Fld := ⟨CLK_STAT_ACLK_CHANGE, 62, 62⟩
@[reducible] def CLK_STAT_ACLK_CHANGE_COUNT : Fld := ⟨CLK_STAT_ACLK_CHANGE, 47, 0⟩
/-- THM_STATUS (R373). -/
def THM_STATUS : Nat := 0x400000
@[reducible] def THM_STATUS_THROTTLED : Fld := ⟨THM_STATUS, 31, 31⟩
@[reducible] def THM_STATUS_BAND : Fld := ⟨THM_STATUS, 30, 28⟩
@[reducible] def THM_STATUS_R_COAST : Fld := ⟨THM_STATUS, 23, 23⟩
@[reducible] def THM_STATUS_R_FLOW : Fld := ⟨THM_STATUS, 22, 22⟩
@[reducible] def THM_STATUS_R_TEMP : Fld := ⟨THM_STATUS, 21, 21⟩
@[reducible] def THM_STATUS_R_THETA : Fld := ⟨THM_STATUS, 20, 20⟩
@[reducible] def THM_STATUS_R_CAP : Fld := ⟨THM_STATUS, 19, 19⟩
@[reducible] def THM_STATUS_R_STACK : Fld := ⟨THM_STATUS, 18, 18⟩
@[reducible] def THM_STATUS_R_RAMP : Fld := ⟨THM_STATUS, 17, 17⟩
@[reducible] def THM_STATUS_TRIP_SEEN : Fld := ⟨THM_STATUS, 6, 6⟩
@[reducible] def THM_STATUS_INLET_HIGH : Fld := ⟨THM_STATUS, 5, 5⟩
@[reducible] def THM_STATUS_INLET_LOW : Fld := ⟨THM_STATUS, 4, 4⟩
@[reducible] def THM_STATUS_THETA_RISE : Fld := ⟨THM_STATUS, 3, 3⟩
@[reducible] def THM_STATUS_DISAGREE : Fld := ⟨THM_STATUS, 2, 2⟩
@[reducible] def THM_STATUS_SUSPECT : Fld := ⟨THM_STATUS, 1, 1⟩
@[reducible] def THM_STATUS_FLOW_LOST_SEEN : Fld := ⟨THM_STATUS, 0, 0⟩
/-- THM_CAP (R373). -/
def THM_CAP : Nat := 0x400004
@[reducible] def THM_CAP_EFF_W : Fld := ⟨THM_CAP, 25, 16⟩
@[reducible] def THM_CAP_CFG_W : Fld := ⟨THM_CAP, 9, 0⟩
/-- THM_SLEW (R373). -/
def THM_SLEW : Nat := 0x400008
@[reducible] def THM_SLEW_RAMP_FLOOR : Fld := ⟨THM_SLEW, 25, 16⟩
@[reducible] def THM_SLEW_UP_WPS : Fld := ⟨THM_SLEW, 9, 0⟩
/-- THM_THETA (R373). -/
def THM_THETA : Nat := 0x40000C
@[reducible] def THM_THETA_BASE : Fld := ⟨THM_THETA, 31, 16⟩
@[reducible] def THM_THETA_FILT : Fld := ⟨THM_THETA, 15, 0⟩
/-- THM_LIMITS (R373). -/
def THM_LIMITS : Nat := 0x400010
@[reducible] def THM_LIMITS_FC_TOL : Fld := ⟨THM_LIMITS, 31, 24⟩
@[reducible] def THM_LIMITS_RISE_PCT : Fld := ⟨THM_LIMITS, 23, 16⟩
@[reducible] def THM_LIMITS_TRIP_C : Fld := ⟨THM_LIMITS, 15, 8⟩
@[reducible] def THM_LIMITS_THROTTLE_C : Fld := ⟨THM_LIMITS, 7, 0⟩
/-- THM_FLOW (R373). -/
def THM_FLOW : Nat := 0x400014
@[reducible] def THM_FLOW_SRC : Fld := ⟨THM_FLOW, 25, 24⟩
@[reducible] def THM_FLOW_CP : Fld := ⟨THM_FLOW, 23, 16⟩
@[reducible] def THM_FLOW_K : Fld := ⟨THM_FLOW, 15, 0⟩
/-- THM_FLOW_STATUS (R373). -/
def THM_FLOW_STATUS : Nat := 0x400018
@[reducible] def THM_FLOW_STATUS_FLOW_LOST : Fld := ⟨THM_FLOW_STATUS, 17, 17⟩
@[reducible] def THM_FLOW_STATUS_PULSE_OK : Fld := ⟨THM_FLOW_STATUS, 16, 16⟩
@[reducible] def THM_FLOW_STATUS_RATE : Fld := ⟨THM_FLOW_STATUS, 15, 0⟩
/-- THM_COOLANT (R373). -/
def THM_COOLANT : Nat := 0x40001C
@[reducible] def THM_COOLANT_OUTLET : Fld := ⟨THM_COOLANT, 31, 16⟩
@[reducible] def THM_COOLANT_INLET : Fld := ⟨THM_COOLANT, 15, 0⟩
/-- THM_POWER (R373). -/
def THM_POWER : Nat := 0x400020
@[reducible] def THM_POWER_P_100MS : Fld := ⟨THM_POWER, 31, 16⟩
@[reducible] def THM_POWER_P_1MS : Fld := ⟨THM_POWER, 15, 0⟩
/-- THM_SENSOR_CLR (R373). -/
def THM_SENSOR_CLR : Nat := 0x400024
@[reducible] def THM_SENSOR_CLR_GO : Fld := ⟨THM_SENSOR_CLR, 31, 31⟩
@[reducible] def THM_SENSOR_CLR_HOTSPOT : Fld := ⟨THM_SENSOR_CLR, 4, 0⟩
/-- THM_LIFE (R373). -/
def THM_LIFE : Nat := 0x400028
@[reducible] def THM_LIFE_LIFE_PPM : Fld := ⟨THM_LIFE, 31, 0⟩
/-- THM_DIS_WINDOW (R373). -/
def THM_DIS_WINDOW : Nat := 0x40002C
@[reducible] def THM_DIS_WINDOW_WINDOW_S : Fld := ⟨THM_DIS_WINDOW, 15, 0⟩
/-- THM_HS (R373). -/
def THM_HS (i : Nat) : Nat := 0x400100 + 0x8 * i
@[reducible] def THM_HS_RULING (i : Nat) : Fld := ⟨THM_HS i, 63, 48⟩
@[reducible] def THM_HS_DIODE (i : Nat) : Fld := ⟨THM_HS i, 47, 32⟩
@[reducible] def THM_HS_RING (i : Nat) : Fld := ⟨THM_HS i, 31, 16⟩
@[reducible] def THM_HS_DIODE_SUSPECT (i : Nat) : Fld := ⟨THM_HS i, 15, 15⟩
@[reducible] def THM_HS_RING_SUSPECT (i : Nat) : Fld := ⟨THM_HS i, 14, 14⟩
@[reducible] def THM_HS_DISAGREE (i : Nat) : Fld := ⟨THM_HS i, 13, 13⟩
@[reducible] def THM_HS_BOTH_BAD (i : Nat) : Fld := ⟨THM_HS i, 12, 12⟩
@[reducible] def THM_HS_DIS_COUNT (i : Nat) : Fld := ⟨THM_HS i, 11, 4⟩
/-- THM_FC (R373). -/
def THM_FC (i : Nat) : Nat := 0x400200 + 0x8 * i
@[reducible] def THM_FC_MODEL (i : Nat) : Fld := ⟨THM_FC i, 63, 48⟩
@[reducible] def THM_FC_PEAK (i : Nat) : Fld := ⟨THM_FC i, 47, 32⟩
/-- THM_CYCLE (R373). -/
def THM_CYCLE (i : Nat) : Nat := 0x400300 + 0x8 * i
@[reducible] def THM_CYCLE_HALF_CYCLES (i : Nat) : Fld := ⟨THM_CYCLE i, 31, 0⟩
/-- THM_STAT_THROTTLE_MS (R373). -/
def THM_STAT_THROTTLE_MS : Nat := 0x400400
@[reducible] def THM_STAT_THROTTLE_MS_SAT : Fld := ⟨THM_STAT_THROTTLE_MS, 63, 63⟩
@[reducible] def THM_STAT_THROTTLE_MS_CLR : Fld := ⟨THM_STAT_THROTTLE_MS, 62, 62⟩
@[reducible] def THM_STAT_THROTTLE_MS_COUNT : Fld := ⟨THM_STAT_THROTTLE_MS, 47, 0⟩
/-- THM_STAT_DISAGREE (R373). -/
def THM_STAT_DISAGREE : Nat := 0x400408
@[reducible] def THM_STAT_DISAGREE_SAT : Fld := ⟨THM_STAT_DISAGREE, 63, 63⟩
@[reducible] def THM_STAT_DISAGREE_CLR : Fld := ⟨THM_STAT_DISAGREE, 62, 62⟩
@[reducible] def THM_STAT_DISAGREE_COUNT : Fld := ⟨THM_STAT_DISAGREE, 47, 0⟩
/-- THM_STAT_FLOW_LOST (R373). -/
def THM_STAT_FLOW_LOST : Nat := 0x400410
@[reducible] def THM_STAT_FLOW_LOST_SAT : Fld := ⟨THM_STAT_FLOW_LOST, 63, 63⟩
@[reducible] def THM_STAT_FLOW_LOST_CLR : Fld := ⟨THM_STAT_FLOW_LOST, 62, 62⟩
@[reducible] def THM_STAT_FLOW_LOST_COUNT : Fld := ⟨THM_STAT_FLOW_LOST, 47, 0⟩
/-- THM_STAT_TRIP (R373). -/
def THM_STAT_TRIP : Nat := 0x400418
@[reducible] def THM_STAT_TRIP_SAT : Fld := ⟨THM_STAT_TRIP, 63, 63⟩
@[reducible] def THM_STAT_TRIP_CLR : Fld := ⟨THM_STAT_TRIP, 62, 62⟩
@[reducible] def THM_STAT_TRIP_COUNT : Fld := ⟨THM_STAT_TRIP, 47, 0⟩
/-- RAS_CTRL (R401). -/
def RAS_CTRL : Nat := 0x500000
@[reducible] def RAS_CTRL_AUTO : Fld := ⟨RAS_CTRL, 20, 20⟩
@[reducible] def RAS_CTRL_THRESH : Fld := ⟨RAS_CTRL, 19, 16⟩
@[reducible] def RAS_CTRL_WINDOW_S : Fld := ⟨RAS_CTRL, 15, 0⟩
/-- RAS_STATUS (R401). -/
def RAS_STATUS : Nat := 0x500004
@[reducible] def RAS_STATUS_CFG_REJECT : Fld := ⟨RAS_STATUS, 4, 4⟩
@[reducible] def RAS_STATUS_LOG_WRAP : Fld := ⟨RAS_STATUS, 3, 3⟩
@[reducible] def RAS_STATUS_UNRESOLVED : Fld := ⟨RAS_STATUS, 2, 2⟩
@[reducible] def RAS_STATUS_SRAM_QUEUED : Fld := ⟨RAS_STATUS, 1, 1⟩
@[reducible] def RAS_STATUS_HEALTH_CHANGE : Fld := ⟨RAS_STATUS, 0, 0⟩
/-- RAS_LOG_BASE (R401). -/
def RAS_LOG_BASE : Nat := 0x500008
@[reducible] def RAS_LOG_BASE_BASE : Fld := ⟨RAS_LOG_BASE, 63, 0⟩
/-- RAS_LOG_HEAD (R401). -/
def RAS_LOG_HEAD : Nat := 0x500010
@[reducible] def RAS_LOG_HEAD_WRAPS : Fld := ⟨RAS_LOG_HEAD, 63, 32⟩
@[reducible] def RAS_LOG_HEAD_INDEX : Fld := ⟨RAS_LOG_HEAD, 31, 0⟩
/-- RAS_ENG_SEL (R401). -/
def RAS_ENG_SEL : Nat := 0x500018
@[reducible] def RAS_ENG_SEL_GO : Fld := ⟨RAS_ENG_SEL, 63, 63⟩
@[reducible] def RAS_ENG_SEL_DONE : Fld := ⟨RAS_ENG_SEL, 62, 62⟩
@[reducible] def RAS_ENG_SEL_CORE : Fld := ⟨RAS_ENG_SEL, 61, 61⟩
@[reducible] def RAS_ENG_SEL_UNIT : Fld := ⟨RAS_ENG_SEL, 7, 0⟩
/-- RAS_ENG_DATA (R401). -/
def RAS_ENG_DATA : Nat := 0x500020
@[reducible] def RAS_ENG_DATA_STATE : Fld := ⟨RAS_ENG_DATA, 63, 62⟩
@[reducible] def RAS_ENG_DATA_LIMIT_BIN : Fld := ⟨RAS_ENG_DATA, 61, 59⟩
@[reducible] def RAS_ENG_DATA_COUNT : Fld := ⟨RAS_ENG_DATA, 55, 52⟩
@[reducible] def RAS_ENG_DATA_BINS : Fld := ⟨RAS_ENG_DATA, 51, 44⟩
@[reducible] def RAS_ENG_DATA_EXCLUDED : Fld := ⟨RAS_ENG_DATA, 31, 0⟩
/-- RAS_ENG_WIN (R401). -/
def RAS_ENG_WIN : Nat := 0x500028
@[reducible] def RAS_ENG_WIN_OPENED : Fld := ⟨RAS_ENG_WIN, 63, 0⟩
/-- RAS_ENG_CLR (R401). -/
def RAS_ENG_CLR : Nat := 0x500030
@[reducible] def RAS_ENG_CLR_GO : Fld := ⟨RAS_ENG_CLR, 31, 31⟩
@[reducible] def RAS_ENG_CLR_ENGINE : Fld := ⟨RAS_ENG_CLR, 7, 0⟩
/-- RAS_SRAM_QUEUE (R401). -/
def RAS_SRAM_QUEUE : Nat := 0x500038
@[reducible] def RAS_SRAM_QUEUE_WORDS : Fld := ⟨RAS_SRAM_QUEUE, 15, 0⟩
/-- RAS_STAT_ITEM_FAIL (R401). -/
def RAS_STAT_ITEM_FAIL : Nat := 0x500100
@[reducible] def RAS_STAT_ITEM_FAIL_SAT : Fld := ⟨RAS_STAT_ITEM_FAIL, 63, 63⟩
@[reducible] def RAS_STAT_ITEM_FAIL_CLR : Fld := ⟨RAS_STAT_ITEM_FAIL, 62, 62⟩
@[reducible] def RAS_STAT_ITEM_FAIL_COUNT : Fld := ⟨RAS_STAT_ITEM_FAIL, 47, 0⟩
/-- RAS_STAT_UNRESOLVED (R401). -/
def RAS_STAT_UNRESOLVED : Nat := 0x500108
@[reducible] def RAS_STAT_UNRESOLVED_SAT : Fld := ⟨RAS_STAT_UNRESOLVED, 63, 63⟩
@[reducible] def RAS_STAT_UNRESOLVED_CLR : Fld := ⟨RAS_STAT_UNRESOLVED, 62, 62⟩
@[reducible] def RAS_STAT_UNRESOLVED_COUNT : Fld := ⟨RAS_STAT_UNRESOLVED, 47, 0⟩
/-- RAS_STAT_ADDER (R401). -/
def RAS_STAT_ADDER : Nat := 0x500110
@[reducible] def RAS_STAT_ADDER_SAT : Fld := ⟨RAS_STAT_ADDER, 63, 63⟩
@[reducible] def RAS_STAT_ADDER_CLR : Fld := ⟨RAS_STAT_ADDER, 62, 62⟩
@[reducible] def RAS_STAT_ADDER_COUNT : Fld := ⟨RAS_STAT_ADDER, 47, 0⟩
/-- RAS_STAT_UNCHARGED (R401). -/
def RAS_STAT_UNCHARGED : Nat := 0x500118
@[reducible] def RAS_STAT_UNCHARGED_SAT : Fld := ⟨RAS_STAT_UNCHARGED, 63, 63⟩
@[reducible] def RAS_STAT_UNCHARGED_CLR : Fld := ⟨RAS_STAT_UNCHARGED, 62, 62⟩
@[reducible] def RAS_STAT_UNCHARGED_COUNT : Fld := ⟨RAS_STAT_UNCHARGED, 47, 0⟩
/-- RAS_STAT_COOL_ONLY (R401). -/
def RAS_STAT_COOL_ONLY : Nat := 0x500120
@[reducible] def RAS_STAT_COOL_ONLY_SAT : Fld := ⟨RAS_STAT_COOL_ONLY, 63, 63⟩
@[reducible] def RAS_STAT_COOL_ONLY_CLR : Fld := ⟨RAS_STAT_COOL_ONLY, 62, 62⟩
@[reducible] def RAS_STAT_COOL_ONLY_COUNT : Fld := ⟨RAS_STAT_COOL_ONLY, 47, 0⟩
/-- RAS_STAT_EXCLUDED (R401). -/
def RAS_STAT_EXCLUDED : Nat := 0x500128
@[reducible] def RAS_STAT_EXCLUDED_SAT : Fld := ⟨RAS_STAT_EXCLUDED, 63, 63⟩
@[reducible] def RAS_STAT_EXCLUDED_CLR : Fld := ⟨RAS_STAT_EXCLUDED, 62, 62⟩
@[reducible] def RAS_STAT_EXCLUDED_COUNT : Fld := ⟨RAS_STAT_EXCLUDED, 47, 0⟩
/-- RAS_STAT_RETIRED (R401). -/
def RAS_STAT_RETIRED : Nat := 0x500130
@[reducible] def RAS_STAT_RETIRED_SAT : Fld := ⟨RAS_STAT_RETIRED, 63, 63⟩
@[reducible] def RAS_STAT_RETIRED_CLR : Fld := ⟨RAS_STAT_RETIRED, 62, 62⟩
@[reducible] def RAS_STAT_RETIRED_COUNT : Fld := ⟨RAS_STAT_RETIRED, 47, 0⟩
/-- RAS_STAT_LOG (R401). -/
def RAS_STAT_LOG : Nat := 0x500138
@[reducible] def RAS_STAT_LOG_SAT : Fld := ⟨RAS_STAT_LOG, 63, 63⟩
@[reducible] def RAS_STAT_LOG_CLR : Fld := ⟨RAS_STAT_LOG, 62, 62⟩
@[reducible] def RAS_STAT_LOG_COUNT : Fld := ⟨RAS_STAT_LOG, 47, 0⟩
/-- BIST_CTRL (R402). -/
def BIST_CTRL : Nat := 0x600000
@[reducible] def BIST_CTRL_GO : Fld := ⟨BIST_CTRL, 31, 31⟩
@[reducible] def BIST_CTRL_MAINT_ENTER : Fld := ⟨BIST_CTRL, 30, 30⟩
@[reducible] def BIST_CTRL_MAINT_EXIT : Fld := ⟨BIST_CTRL, 29, 29⟩
@[reducible] def BIST_CTRL_SHARED : Fld := ⟨BIST_CTRL, 28, 28⟩
@[reducible] def BIST_CTRL_KIND : Fld := ⟨BIST_CTRL, 10, 8⟩
@[reducible] def BIST_CTRL_CLUSTERS : Fld := ⟨BIST_CTRL, 7, 0⟩
/-- BIST_RESERVE (R402). -/
def BIST_RESERVE : Nat := 0x600004
@[reducible] def BIST_RESERVE_RESERVE_W : Fld := ⟨BIST_RESERVE, 7, 0⟩
/-- BIST_STATUS (R402). -/
def BIST_STATUS : Nat := 0x600008
@[reducible] def BIST_STATUS_BUSY : Fld := ⟨BIST_STATUS, 31, 31⟩
@[reducible] def BIST_STATUS_CUR : Fld := ⟨BIST_STATUS, 30, 28⟩
@[reducible] def BIST_STATUS_CUR_KIND : Fld := ⟨BIST_STATUS, 27, 25⟩
@[reducible] def BIST_STATUS_ABORTED : Fld := ⟨BIST_STATUS, 24, 24⟩
@[reducible] def BIST_STATUS_QUEUED : Fld := ⟨BIST_STATUS, 23, 16⟩
@[reducible] def BIST_STATUS_IN_RESET : Fld := ⟨BIST_STATUS, 15, 8⟩
@[reducible] def BIST_STATUS_CFG_REJECT : Fld := ⟨BIST_STATUS, 0, 0⟩
/-- BIST_RESULT (R402). -/
def BIST_RESULT (i : Nat) : Nat := 0x600100 + 0x8 * i
@[reducible] def BIST_RESULT_LOGIC (i : Nat) : Fld := ⟨BIST_RESULT i, 63, 62⟩
@[reducible] def BIST_RESULT_MEMORY (i : Nat) : Fld := ⟨BIST_RESULT i, 61, 60⟩
@[reducible] def BIST_RESULT_CALIB (i : Nat) : Fld := ⟨BIST_RESULT i, 59, 58⟩
@[reducible] def BIST_RESULT_SPARES_USED (i : Nat) : Fld := ⟨BIST_RESULT i, 47, 32⟩
@[reducible] def BIST_RESULT_SIG (i : Nat) : Fld := ⟨BIST_RESULT i, 31, 0⟩
/-- BIST_STAMP (R402). -/
def BIST_STAMP (i : Nat) : Nat := 0x600140 + 0x8 * i
@[reducible] def BIST_STAMP_STAMP (i : Nat) : Fld := ⟨BIST_STAMP i, 63, 0⟩
/-- BIST_SHARED (R402). -/
def BIST_SHARED : Nat := 0x600180
@[reducible] def BIST_SHARED_RESULTS : Fld := ⟨BIST_SHARED, 15, 0⟩
/-- BIST_MFAIL (R402). -/
def BIST_MFAIL : Nat := 0x600188
@[reducible] def BIST_MFAIL_STORE : Fld := ⟨BIST_MFAIL, 63, 62⟩
@[reducible] def BIST_MFAIL_UNIT : Fld := ⟨BIST_MFAIL, 61, 56⟩
@[reducible] def BIST_MFAIL_OFFSET : Fld := ⟨BIST_MFAIL, 55, 32⟩
@[reducible] def BIST_MFAIL_BIT : Fld := ⟨BIST_MFAIL, 31, 25⟩
@[reducible] def BIST_MFAIL_REPAIRED : Fld := ⟨BIST_MFAIL, 24, 24⟩
/-- BIST_STAT_RUNS (R402). -/
def BIST_STAT_RUNS : Nat := 0x600200
@[reducible] def BIST_STAT_RUNS_SAT : Fld := ⟨BIST_STAT_RUNS, 63, 63⟩
@[reducible] def BIST_STAT_RUNS_CLR : Fld := ⟨BIST_STAT_RUNS, 62, 62⟩
@[reducible] def BIST_STAT_RUNS_COUNT : Fld := ⟨BIST_STAT_RUNS, 47, 0⟩
/-- BIST_STAT_FAILS (R402). -/
def BIST_STAT_FAILS : Nat := 0x600208
@[reducible] def BIST_STAT_FAILS_SAT : Fld := ⟨BIST_STAT_FAILS, 63, 63⟩
@[reducible] def BIST_STAT_FAILS_CLR : Fld := ⟨BIST_STAT_FAILS, 62, 62⟩
@[reducible] def BIST_STAT_FAILS_COUNT : Fld := ⟨BIST_STAT_FAILS, 47, 0⟩
/-- BIST_STAT_REPAIRS (R402). -/
def BIST_STAT_REPAIRS : Nat := 0x600210
@[reducible] def BIST_STAT_REPAIRS_SAT : Fld := ⟨BIST_STAT_REPAIRS, 63, 63⟩
@[reducible] def BIST_STAT_REPAIRS_CLR : Fld := ⟨BIST_STAT_REPAIRS, 62, 62⟩
@[reducible] def BIST_STAT_REPAIRS_COUNT : Fld := ⟨BIST_STAT_REPAIRS, 47, 0⟩
/-- SEC_STATUS (R423). -/
def SEC_STATUS : Nat := 0x700000
@[reducible] def SEC_STATUS_PUF_FAIL : Fld := ⟨SEC_STATUS, 4, 4⟩
@[reducible] def SEC_STATUS_ID_READY : Fld := ⟨SEC_STATUS, 3, 3⟩
@[reducible] def SEC_STATUS_SCRUBBING : Fld := ⟨SEC_STATUS, 2, 2⟩
@[reducible] def SEC_STATUS_CMD_BUSY : Fld := ⟨SEC_STATUS, 1, 1⟩
@[reducible] def SEC_STATUS_CFG_REJECT : Fld := ⟨SEC_STATUS, 0, 0⟩
/-- SEC_PART_CMD (R423). -/
def SEC_PART_CMD : Nat := 0x700008
@[reducible] def SEC_PART_CMD_GO : Fld := ⟨SEC_PART_CMD, 63, 63⟩
@[reducible] def SEC_PART_CMD_DONE : Fld := ⟨SEC_PART_CMD, 62, 62⟩
@[reducible] def SEC_PART_CMD_OP : Fld := ⟨SEC_PART_CMD, 61, 59⟩
@[reducible] def SEC_PART_CMD_PART : Fld := ⟨SEC_PART_CMD, 58, 56⟩
@[reducible] def SEC_PART_CMD_RESULT : Fld := ⟨SEC_PART_CMD, 47, 32⟩
@[reducible] def SEC_PART_CMD_CLUSTERS : Fld := ⟨SEC_PART_CMD, 7, 0⟩
/-- SEC_ID (R423). -/
def SEC_ID : Nat := 0x700010
@[reducible] def SEC_ID_ID : Fld := ⟨SEC_ID, 63, 0⟩
/-- SEC_KEYS (R423). -/
def SEC_KEYS : Nat := 0x700018
@[reducible] def SEC_KEYS_KEYS : Fld := ⟨SEC_KEYS, 63, 0⟩
/-- SEC_PART (R423). -/
def SEC_PART (i : Nat) : Nat := 0x700100 + 0x8 * i
@[reducible] def SEC_PART_STATE (i : Nat) : Fld := ⟨SEC_PART i, 63, 62⟩
@[reducible] def SEC_PART_CLUSTERS (i : Nat) : Fld := ⟨SEC_PART i, 39, 32⟩
@[reducible] def SEC_PART_SCRUB_MIB (i : Nat) : Fld := ⟨SEC_PART i, 31, 0⟩
/-- SEC_WIN (R423). -/
def SEC_WIN (i : Nat) (j : Nat) : Nat := 0x700200 + 0x40 * i + 0x8 * j
@[reducible] def SEC_WIN_EN (i : Nat) (j : Nat) : Fld := ⟨SEC_WIN i j, 63, 63⟩
@[reducible] def SEC_WIN_SCRUB (i : Nat) (j : Nat) : Fld := ⟨SEC_WIN i j, 62, 62⟩
@[reducible] def SEC_WIN_BASE (i : Nat) (j : Nat) : Fld := ⟨SEC_WIN i j, 37, 26⟩
@[reducible] def SEC_WIN_SIZE (i : Nat) (j : Nat) : Fld := ⟨SEC_WIN i j, 25, 14⟩
/-- SEC_STAT_QUOTES (R423). -/
def SEC_STAT_QUOTES : Nat := 0x700400
@[reducible] def SEC_STAT_QUOTES_SAT : Fld := ⟨SEC_STAT_QUOTES, 63, 63⟩
@[reducible] def SEC_STAT_QUOTES_CLR : Fld := ⟨SEC_STAT_QUOTES, 62, 62⟩
@[reducible] def SEC_STAT_QUOTES_COUNT : Fld := ⟨SEC_STAT_QUOTES, 47, 0⟩
/-- SEC_STAT_SCRUB_MIB (R423). -/
def SEC_STAT_SCRUB_MIB : Nat := 0x700408
@[reducible] def SEC_STAT_SCRUB_MIB_SAT : Fld := ⟨SEC_STAT_SCRUB_MIB, 63, 63⟩
@[reducible] def SEC_STAT_SCRUB_MIB_CLR : Fld := ⟨SEC_STAT_SCRUB_MIB, 62, 62⟩
@[reducible] def SEC_STAT_SCRUB_MIB_COUNT : Fld := ⟨SEC_STAT_SCRUB_MIB, 47, 0⟩
/-- SEC_STAT_WINDOW (R423). -/
def SEC_STAT_WINDOW : Nat := 0x700410
@[reducible] def SEC_STAT_WINDOW_SAT : Fld := ⟨SEC_STAT_WINDOW, 63, 63⟩
@[reducible] def SEC_STAT_WINDOW_CLR : Fld := ⟨SEC_STAT_WINDOW, 62, 62⟩
@[reducible] def SEC_STAT_WINDOW_COUNT : Fld := ⟨SEC_STAT_WINDOW, 47, 0⟩
/-- FW_CTRL (R448). -/
def FW_CTRL : Nat := 0x800000
@[reducible] def FW_CTRL_RECOVER : Fld := ⟨FW_CTRL, 4, 4⟩
@[reducible] def FW_CTRL_REVERT : Fld := ⟨FW_CTRL, 3, 3⟩
@[reducible] def FW_CTRL_CONFIRM : Fld := ⟨FW_CTRL, 2, 2⟩
@[reducible] def FW_CTRL_ACTIVATE : Fld := ⟨FW_CTRL, 1, 1⟩
@[reducible] def FW_CTRL_VERIFY : Fld := ⟨FW_CTRL, 0, 0⟩
/-- FW_STATUS (R448). -/
def FW_STATUS : Nat := 0x800004
@[reducible] def FW_STATUS_REJECT : Fld := ⟨FW_STATUS, 23, 20⟩
@[reducible] def FW_STATUS_UPDATING : Fld := ⟨FW_STATUS, 15, 15⟩
@[reducible] def FW_STATUS_TRIAL : Fld := ⟨FW_STATUS, 14, 14⟩
@[reducible] def FW_STATUS_IDLE_OK : Fld := ⟨FW_STATUS, 13, 13⟩
@[reducible] def FW_STATUS_SVN_UNCHECKED : Fld := ⟨FW_STATUS, 12, 12⟩
@[reducible] def FW_STATUS_DUAL_LOSS : Fld := ⟨FW_STATUS, 11, 11⟩
@[reducible] def FW_STATUS_FALLBACK : Fld := ⟨FW_STATUS, 10, 10⟩
@[reducible] def FW_STATUS_ACTIVE : Fld := ⟨FW_STATUS, 9, 8⟩
/-- FW_ACTIVE (R448). -/
def FW_ACTIVE : Nat := 0x800008
@[reducible] def FW_ACTIVE_VERSION : Fld := ⟨FW_ACTIVE, 63, 32⟩
@[reducible] def FW_ACTIVE_SVN : Fld := ⟨FW_ACTIVE, 31, 0⟩
/-- FW_IDLE (R448). -/
def FW_IDLE : Nat := 0x800010
@[reducible] def FW_IDLE_VERSION : Fld := ⟨FW_IDLE, 63, 32⟩
@[reducible] def FW_IDLE_SVN : Fld := ⟨FW_IDLE, 31, 0⟩
/-- FW_SVN_FLOOR (R448). -/
def FW_SVN_FLOOR : Nat := 0x800018
@[reducible] def FW_SVN_FLOOR_SVN : Fld := ⟨FW_SVN_FLOOR, 31, 0⟩
/-- FW_JOURNAL (R448). -/
def FW_JOURNAL : Nat := 0x800020
@[reducible] def FW_JOURNAL_JRN_EPOCH : Fld := ⟨FW_JOURNAL, 63, 32⟩
@[reducible] def FW_JOURNAL_FILL_PCT : Fld := ⟨FW_JOURNAL, 15, 8⟩
@[reducible] def FW_JOURNAL_AREA : Fld := ⟨FW_JOURNAL, 0, 0⟩
/-- FW_RCV_CTRL (R448). -/
def FW_RCV_CTRL : Nat := 0x800100
@[reducible] def FW_RCV_CTRL_START : Fld := ⟨FW_RCV_CTRL, 63, 63⟩
@[reducible] def FW_RCV_CTRL_FINISH : Fld := ⟨FW_RCV_CTRL, 62, 62⟩
@[reducible] def FW_RCV_CTRL_DONE : Fld := ⟨FW_RCV_CTRL, 61, 61⟩
@[reducible] def FW_RCV_CTRL_RESULT : Fld := ⟨FW_RCV_CTRL, 47, 32⟩
@[reducible] def FW_RCV_CTRL_LENGTH : Fld := ⟨FW_RCV_CTRL, 20, 0⟩
/-- FW_RCV_OFS (R448). -/
def FW_RCV_OFS : Nat := 0x800108
@[reducible] def FW_RCV_OFS_OFS : Fld := ⟨FW_RCV_OFS, 31, 0⟩
/-- FW_STAT_RECORDS (R448). -/
def FW_STAT_RECORDS : Nat := 0x800200
@[reducible] def FW_STAT_RECORDS_SAT : Fld := ⟨FW_STAT_RECORDS, 63, 63⟩
@[reducible] def FW_STAT_RECORDS_CLR : Fld := ⟨FW_STAT_RECORDS, 62, 62⟩
@[reducible] def FW_STAT_RECORDS_COUNT : Fld := ⟨FW_STAT_RECORDS, 47, 0⟩
/-- FW_STAT_COMPACTIONS (R448). -/
def FW_STAT_COMPACTIONS : Nat := 0x800208
@[reducible] def FW_STAT_COMPACTIONS_SAT : Fld := ⟨FW_STAT_COMPACTIONS, 63, 63⟩
@[reducible] def FW_STAT_COMPACTIONS_CLR : Fld := ⟨FW_STAT_COMPACTIONS, 62, 62⟩
@[reducible] def FW_STAT_COMPACTIONS_COUNT : Fld := ⟨FW_STAT_COMPACTIONS, 47, 0⟩
/-- FW_STAT_UPDATES (R448). -/
def FW_STAT_UPDATES : Nat := 0x800210
@[reducible] def FW_STAT_UPDATES_SAT : Fld := ⟨FW_STAT_UPDATES, 63, 63⟩
@[reducible] def FW_STAT_UPDATES_CLR : Fld := ⟨FW_STAT_UPDATES, 62, 62⟩
@[reducible] def FW_STAT_UPDATES_COUNT : Fld := ⟨FW_STAT_UPDATES, 47, 0⟩
/-- HLM_HELM (R470). -/
def HLM_HELM : Nat := 0x900000
@[reducible] def HLM_HELM_STATE : Fld := ⟨HLM_HELM, 31, 30⟩
@[reducible] def HLM_HELM_N_MIRROR_OK : Fld := ⟨HLM_HELM, 29, 29⟩
@[reducible] def HLM_HELM_S_MIRROR_OK : Fld := ⟨HLM_HELM, 28, 28⟩
@[reducible] def HLM_HELM_N_HELD : Fld := ⟨HLM_HELM, 27, 27⟩
@[reducible] def HLM_HELM_S_HELD : Fld := ⟨HLM_HELM, 26, 26⟩
@[reducible] def HLM_HELM_N_CONTESTS : Fld := ⟨HLM_HELM, 15, 8⟩
@[reducible] def HLM_HELM_S_CONTESTS : Fld := ⟨HLM_HELM, 7, 0⟩
/-- HLM_CTRL (R470). -/
def HLM_CTRL : Nat := 0x900004
@[reducible] def HLM_CTRL_RESTART_FOLLOWER : Fld := ⟨HLM_CTRL, 31, 31⟩
@[reducible] def HLM_CTRL_DUTY_HOLD_MS : Fld := ⟨HLM_CTRL, 25, 16⟩
@[reducible] def HLM_CTRL_HELM_TIMEOUT_MS : Fld := ⟨HLM_CTRL, 7, 0⟩
/-- HLM_STATUS (R470). -/
def HLM_STATUS : Nat := 0x900008
@[reducible] def HLM_STATUS_CFG_REJECT : Fld := ⟨HLM_STATUS, 4, 4⟩
@[reducible] def HLM_STATUS_NO_FOLLOWER : Fld := ⟨HLM_STATUS, 3, 3⟩
@[reducible] def HLM_STATUS_LAPSE : Fld := ⟨HLM_STATUS, 2, 2⟩
@[reducible] def HLM_STATUS_CONTEST : Fld := ⟨HLM_STATUS, 1, 1⟩
@[reducible] def HLM_STATUS_FENCE_SEEN : Fld := ⟨HLM_STATUS, 0, 0⟩
/-- HLM_DUTY (R470). -/
def HLM_DUTY : Nat := 0x900010
@[reducible] def HLM_DUTY_PAIRED : Fld := ⟨HLM_DUTY, 31, 31⟩
@[reducible] def HLM_DUTY_ROLE : Fld := ⟨HLM_DUTY, 30, 30⟩
@[reducible] def HLM_DUTY_ACTIVE : Fld := ⟨HLM_DUTY, 29, 29⟩
@[reducible] def HLM_DUTY_DUTY_IN : Fld := ⟨HLM_DUTY, 10, 10⟩
@[reducible] def HLM_DUTY_DUTY_OUT : Fld := ⟨HLM_DUTY, 9, 9⟩
@[reducible] def HLM_DUTY_GRANT : Fld := ⟨HLM_DUTY, 8, 8⟩
@[reducible] def HLM_DUTY_SVC_MASK : Fld := ⟨HLM_DUTY, 7, 0⟩
/-- HLM_MODULE_ID (R470). -/
def HLM_MODULE_ID : Nat := 0x900018
@[reducible] def HLM_MODULE_ID_ID : Fld := ⟨HLM_MODULE_ID, 63, 0⟩
/-- HLM_QUORUM (R470). -/
def HLM_QUORUM : Nat := 0x900020
@[reducible] def HLM_QUORUM_FENCE_EPOCH : Fld := ⟨HLM_QUORUM, 63, 32⟩
@[reducible] def HLM_QUORUM_Q : Fld := ⟨HLM_QUORUM, 18, 16⟩
@[reducible] def HLM_QUORUM_OPEN : Fld := ⟨HLM_QUORUM, 8, 2⟩
@[reducible] def HLM_QUORUM_EXPELLED : Fld := ⟨HLM_QUORUM, 1, 1⟩
@[reducible] def HLM_QUORUM_FENCED : Fld := ⟨HLM_QUORUM, 0, 0⟩
/-- HLM_MGR (R470). -/
def HLM_MGR (i : Nat) : Nat := 0x900040 + 0x8 * i
@[reducible] def HLM_MGR_EN (i : Nat) : Fld := ⟨HLM_MGR i, 63, 63⟩
@[reducible] def HLM_MGR_KEY_SET (i : Nat) : Fld := ⟨HLM_MGR i, 62, 62⟩
@[reducible] def HLM_MGR_MAC (i : Nat) : Fld := ⟨HLM_MGR i, 47, 0⟩
/-- HLM_LOG_CTRL (R470). -/
def HLM_LOG_CTRL : Nat := 0x900080
@[reducible] def HLM_LOG_CTRL_RETAIN_S : Fld := ⟨HLM_LOG_CTRL, 63, 44⟩
@[reducible] def HLM_LOG_CTRL_RING_GIB : Fld := ⟨HLM_LOG_CTRL, 39, 32⟩
@[reducible] def HLM_LOG_CTRL_WRITE_THROUGH : Fld := ⟨HLM_LOG_CTRL, 18, 18⟩
@[reducible] def HLM_LOG_CTRL_SENSORS : Fld := ⟨HLM_LOG_CTRL, 17, 17⟩
@[reducible] def HLM_LOG_CTRL_FRAMES : Fld := ⟨HLM_LOG_CTRL, 16, 16⟩
@[reducible] def HLM_LOG_CTRL_LOG_MASK : Fld := ⟨HLM_LOG_CTRL, 7, 0⟩
/-- HLM_LOG_STATUS (R470). -/
def HLM_LOG_STATUS : Nat := 0x900088
@[reducible] def HLM_LOG_STATUS_LSN : Fld := ⟨HLM_LOG_STATUS, 63, 8⟩
@[reducible] def HLM_LOG_STATUS_SHORT : Fld := ⟨HLM_LOG_STATUS, 2, 2⟩
@[reducible] def HLM_LOG_STATUS_PEER1_LAG : Fld := ⟨HLM_LOG_STATUS, 1, 1⟩
@[reducible] def HLM_LOG_STATUS_PEER0_LAG : Fld := ⟨HLM_LOG_STATUS, 0, 0⟩
/-- HLM_LOG_OLDEST (R470). -/
def HLM_LOG_OLDEST : Nat := 0x900090
@[reducible] def HLM_LOG_OLDEST_LSN : Fld := ⟨HLM_LOG_OLDEST, 63, 0⟩
/-- HLM_LOG_PEER (R470). -/
def HLM_LOG_PEER (i : Nat) : Nat := 0x9000A0 + 0x8 * i
@[reducible] def HLM_LOG_PEER_EN (i : Nat) : Fld := ⟨HLM_LOG_PEER i, 63, 63⟩
@[reducible] def HLM_LOG_PEER_PORT (i : Nat) : Fld := ⟨HLM_LOG_PEER i, 61, 60⟩
@[reducible] def HLM_LOG_PEER_MAC (i : Nat) : Fld := ⟨HLM_LOG_PEER i, 47, 0⟩
/-- HLM_MEMBER (R470). -/
def HLM_MEMBER : Nat := 0x9000C0
@[reducible] def HLM_MEMBER_MEMBER : Fld := ⟨HLM_MEMBER, 63, 63⟩
@[reducible] def HLM_MEMBER_REQUIRE : Fld := ⟨HLM_MEMBER, 62, 62⟩
@[reducible] def HLM_MEMBER_CABINET : Fld := ⟨HLM_MEMBER, 47, 32⟩
@[reducible] def HLM_MEMBER_JOB : Fld := ⟨HLM_MEMBER, 31, 8⟩
@[reducible] def HLM_MEMBER_NUMBER : Fld := ⟨HLM_MEMBER, 7, 0⟩
/-- HLM_JOB (R470). -/
def HLM_JOB : Nat := 0x9000C8
@[reducible] def HLM_JOB_JOB_EPOCH : Fld := ⟨HLM_JOB, 63, 32⟩
@[reducible] def HLM_JOB_RESUME : Fld := ⟨HLM_JOB, 1, 1⟩
@[reducible] def HLM_JOB_HOLD : Fld := ⟨HLM_JOB, 0, 0⟩
/-- HLM_STEP (R470). -/
def HLM_STEP : Nat := 0x9000D0
@[reducible] def HLM_STEP_STEPS : Fld := ⟨HLM_STEP, 63, 0⟩
/-- HLM_STAT_CONTEST (R470). -/
def HLM_STAT_CONTEST : Nat := 0x900200
@[reducible] def HLM_STAT_CONTEST_SAT : Fld := ⟨HLM_STAT_CONTEST, 63, 63⟩
@[reducible] def HLM_STAT_CONTEST_CLR : Fld := ⟨HLM_STAT_CONTEST, 62, 62⟩
@[reducible] def HLM_STAT_CONTEST_COUNT : Fld := ⟨HLM_STAT_CONTEST, 47, 0⟩
/-- HLM_STAT_VOTE_OK (R470). -/
def HLM_STAT_VOTE_OK : Nat := 0x900208
@[reducible] def HLM_STAT_VOTE_OK_SAT : Fld := ⟨HLM_STAT_VOTE_OK, 63, 63⟩
@[reducible] def HLM_STAT_VOTE_OK_CLR : Fld := ⟨HLM_STAT_VOTE_OK, 62, 62⟩
@[reducible] def HLM_STAT_VOTE_OK_COUNT : Fld := ⟨HLM_STAT_VOTE_OK, 47, 0⟩
/-- HLM_STAT_VOTE_BAD (R470). -/
def HLM_STAT_VOTE_BAD : Nat := 0x900210
@[reducible] def HLM_STAT_VOTE_BAD_SAT : Fld := ⟨HLM_STAT_VOTE_BAD, 63, 63⟩
@[reducible] def HLM_STAT_VOTE_BAD_CLR : Fld := ⟨HLM_STAT_VOTE_BAD, 62, 62⟩
@[reducible] def HLM_STAT_VOTE_BAD_COUNT : Fld := ⟨HLM_STAT_VOTE_BAD, 47, 0⟩
/-- HLM_STAT_ROLLCALL (R470). -/
def HLM_STAT_ROLLCALL : Nat := 0x900218
@[reducible] def HLM_STAT_ROLLCALL_SAT : Fld := ⟨HLM_STAT_ROLLCALL, 63, 63⟩
@[reducible] def HLM_STAT_ROLLCALL_CLR : Fld := ⟨HLM_STAT_ROLLCALL, 62, 62⟩
@[reducible] def HLM_STAT_ROLLCALL_COUNT : Fld := ⟨HLM_STAT_ROLLCALL, 47, 0⟩
/-- HLM_STAT_FRAME_BAD (R470). -/
def HLM_STAT_FRAME_BAD : Nat := 0x900220
@[reducible] def HLM_STAT_FRAME_BAD_SAT : Fld := ⟨HLM_STAT_FRAME_BAD, 63, 63⟩
@[reducible] def HLM_STAT_FRAME_BAD_CLR : Fld := ⟨HLM_STAT_FRAME_BAD, 62, 62⟩
@[reducible] def HLM_STAT_FRAME_BAD_COUNT : Fld := ⟨HLM_STAT_FRAME_BAD, 47, 0⟩
/-- HLM_STAT_DUTY_GLITCH (R470). -/
def HLM_STAT_DUTY_GLITCH : Nat := 0x900228
@[reducible] def HLM_STAT_DUTY_GLITCH_SAT : Fld := ⟨HLM_STAT_DUTY_GLITCH, 63, 63⟩
@[reducible] def HLM_STAT_DUTY_GLITCH_CLR : Fld := ⟨HLM_STAT_DUTY_GLITCH, 62, 62⟩
@[reducible] def HLM_STAT_DUTY_GLITCH_COUNT : Fld := ⟨HLM_STAT_DUTY_GLITCH, 47, 0⟩
/-- HLM_STAT_LOG_RETX (R470). -/
def HLM_STAT_LOG_RETX : Nat := 0x900230
@[reducible] def HLM_STAT_LOG_RETX_SAT : Fld := ⟨HLM_STAT_LOG_RETX, 63, 63⟩
@[reducible] def HLM_STAT_LOG_RETX_CLR : Fld := ⟨HLM_STAT_LOG_RETX, 62, 62⟩
@[reducible] def HLM_STAT_LOG_RETX_COUNT : Fld := ⟨HLM_STAT_LOG_RETX, 47, 0⟩
/-- PLC_CTRL (R248). -/
def PLC_CTRL : Nat := 0xA00000
@[reducible] def PLC_CTRL_MIG_MAX_MIB : Fld := ⟨PLC_CTRL, 15, 0⟩
/-- PLC_STATUS (R248). -/
def PLC_STATUS : Nat := 0xA00004
@[reducible] def PLC_STATUS_NO_ENGINE : Fld := ⟨PLC_STATUS, 2, 2⟩
@[reducible] def PLC_STATUS_MIG_LIMITED : Fld := ⟨PLC_STATUS, 1, 1⟩
@[reducible] def PLC_STATUS_COOL_FALLBACK : Fld := ⟨PLC_STATUS, 0, 0⟩
/-- PLC_EPOCH (R248). -/
def PLC_EPOCH (i : Nat) : Nat := 0xA00100 + 0x8 * i
@[reducible] def PLC_EPOCH_EPOCH (i : Nat) : Fld := ⟨PLC_EPOCH i, 63, 32⟩
@[reducible] def PLC_EPOCH_CLUSTERS (i : Nat) : Fld := ⟨PLC_EPOCH i, 15, 8⟩
@[reducible] def PLC_EPOCH_LOW (i : Nat) : Fld := ⟨PLC_EPOCH i, 7, 0⟩
/-- PLC_ENG_SEL (R248). -/
def PLC_ENG_SEL : Nat := 0xA00200
@[reducible] def PLC_ENG_SEL_GO : Fld := ⟨PLC_ENG_SEL, 63, 63⟩
@[reducible] def PLC_ENG_SEL_DONE : Fld := ⟨PLC_ENG_SEL, 62, 62⟩
@[reducible] def PLC_ENG_SEL_ENGINE : Fld := ⟨PLC_ENG_SEL, 7, 0⟩
/-- PLC_ENG_DATA (R248). -/
def PLC_ENG_DATA : Nat := 0xA00208
@[reducible] def PLC_ENG_DATA_STATE : Fld := ⟨PLC_ENG_DATA, 63, 62⟩
@[reducible] def PLC_ENG_DATA_LIMIT_BIN : Fld := ⟨PLC_ENG_DATA, 61, 59⟩
@[reducible] def PLC_ENG_DATA_HOTSPOT : Fld := ⟨PLC_ENG_DATA, 58, 54⟩
@[reducible] def PLC_ENG_DATA_FORECAST : Fld := ⟨PLC_ENG_DATA, 47, 32⟩
@[reducible] def PLC_ENG_DATA_EXCLUDED : Fld := ⟨PLC_ENG_DATA, 31, 0⟩
/-- PLC_HINT_SEL (R248). -/
def PLC_HINT_SEL : Nat := 0xA00210
@[reducible] def PLC_HINT_SEL_GO : Fld := ⟨PLC_HINT_SEL, 63, 63⟩
@[reducible] def PLC_HINT_SEL_DONE : Fld := ⟨PLC_HINT_SEL, 62, 62⟩
@[reducible] def PLC_HINT_SEL_ERR : Fld := ⟨PLC_HINT_SEL, 61, 61⟩
@[reducible] def PLC_HINT_SEL_PART : Fld := ⟨PLC_HINT_SEL, 42, 40⟩
@[reducible] def PLC_HINT_SEL_HANDLE : Fld := ⟨PLC_HINT_SEL, 31, 0⟩
/-- PLC_HINT_DATA (R248). -/
def PLC_HINT_DATA : Nat := 0xA00218
@[reducible] def PLC_HINT_DATA_DECLINES : Fld := ⟨PLC_HINT_DATA, 63, 48⟩
@[reducible] def PLC_HINT_DATA_REASON : Fld := ⟨PLC_HINT_DATA, 11, 8⟩
@[reducible] def PLC_HINT_DATA_LEVEL : Fld := ⟨PLC_HINT_DATA, 5, 4⟩
@[reducible] def PLC_HINT_DATA_HINT : Fld := ⟨PLC_HINT_DATA, 3, 2⟩
/-- PLC_STAT_MIG_BYTES (R248). -/
def PLC_STAT_MIG_BYTES : Nat := 0xA00300
@[reducible] def PLC_STAT_MIG_BYTES_SAT : Fld := ⟨PLC_STAT_MIG_BYTES, 63, 63⟩
@[reducible] def PLC_STAT_MIG_BYTES_CLR : Fld := ⟨PLC_STAT_MIG_BYTES, 62, 62⟩
@[reducible] def PLC_STAT_MIG_BYTES_COUNT : Fld := ⟨PLC_STAT_MIG_BYTES, 47, 0⟩
/-- PLC_STAT_HINT_DECLINED (R248). -/
def PLC_STAT_HINT_DECLINED : Nat := 0xA00308
@[reducible] def PLC_STAT_HINT_DECLINED_SAT : Fld := ⟨PLC_STAT_HINT_DECLINED, 63, 63⟩
@[reducible] def PLC_STAT_HINT_DECLINED_CLR : Fld := ⟨PLC_STAT_HINT_DECLINED, 62, 62⟩
@[reducible] def PLC_STAT_HINT_DECLINED_COUNT : Fld := ⟨PLC_STAT_HINT_DECLINED, 47, 0⟩
/-- PLC_STAT_FALLBACK (R248). -/
def PLC_STAT_FALLBACK : Nat := 0xA00310
@[reducible] def PLC_STAT_FALLBACK_SAT : Fld := ⟨PLC_STAT_FALLBACK, 63, 63⟩
@[reducible] def PLC_STAT_FALLBACK_CLR : Fld := ⟨PLC_STAT_FALLBACK, 62, 62⟩
@[reducible] def PLC_STAT_FALLBACK_COUNT : Fld := ⟨PLC_STAT_FALLBACK, 47, 0⟩
/-- SRV_CAP (R214). -/
def SRV_CAP : Nat := 0xB00000
@[reducible] def SRV_CAP_PRIO_LEVELS : Fld := ⟨SRV_CAP, 63, 56⟩
@[reducible] def SRV_CAP_MAX_DRAFT : Fld := ⟨SRV_CAP, 55, 52⟩
@[reducible] def SRV_CAP_CHUNK_MAX : Fld := ⟨SRV_CAP, 51, 40⟩
@[reducible] def SRV_CAP_CHUNK_MIN : Fld := ⟨SRV_CAP, 39, 28⟩
@[reducible] def SRV_CAP_ENTRIES : Fld := ⟨SRV_CAP, 12, 0⟩
/-- SRV_CTRL (R214). -/
def SRV_CTRL : Nat := 0xB00008
@[reducible] def SRV_CTRL_RISK_PCT : Fld := ⟨SRV_CTRL, 31, 24⟩
@[reducible] def SRV_CTRL_AUTOPAUSE : Fld := ⟨SRV_CTRL, 16, 16⟩
@[reducible] def SRV_CTRL_EWMA_SHIFT : Fld := ⟨SRV_CTRL, 3, 0⟩
/-- SRV_DRAFT_GIVEUP (R214). -/
def SRV_DRAFT_GIVEUP : Nat := 0xB0000C
@[reducible] def SRV_DRAFT_GIVEUP_COUNT : Fld := ⟨SRV_DRAFT_GIVEUP, 3, 0⟩
/-- SRV_PAUSE (R214). -/
def SRV_PAUSE : Nat := 0xB00010
@[reducible] def SRV_PAUSE_RESUME_HOLD : Fld := ⟨SRV_PAUSE, 15, 8⟩
@[reducible] def SRV_PAUSE_PAUSE_MAX : Fld := ⟨SRV_PAUSE, 3, 0⟩
/-- SRV_STATUS (R214). -/
def SRV_STATUS : Nat := 0xB00014
@[reducible] def SRV_STATUS_CFG_REJECT : Fld := ⟨SRV_STATUS, 2, 2⟩
@[reducible] def SRV_STATUS_TABLE_FULL : Fld := ⟨SRV_STATUS, 1, 1⟩
@[reducible] def SRV_STATUS_SEL_BUSY : Fld := ⟨SRV_STATUS, 0, 0⟩
/-- SRV_REQ_SEL (R214). -/
def SRV_REQ_SEL : Nat := 0xB00018
@[reducible] def SRV_REQ_SEL_GO : Fld := ⟨SRV_REQ_SEL, 63, 63⟩
@[reducible] def SRV_REQ_SEL_DONE : Fld := ⟨SRV_REQ_SEL, 62, 62⟩
@[reducible] def SRV_REQ_SEL_ERR : Fld := ⟨SRV_REQ_SEL, 61, 61⟩
@[reducible] def SRV_REQ_SEL_INDEX : Fld := ⟨SRV_REQ_SEL, 11, 0⟩
/-- SRV_REQ_DATA (R214). -/
def SRV_REQ_DATA (i : Nat) : Nat := 0xB00040 + 0x8 * i
@[reducible] def SRV_REQ_DATA_WORD (i : Nat) : Fld := ⟨SRV_REQ_DATA i, 63, 0⟩
/-- SRV_PART (R214). -/
def SRV_PART (i : Nat) : Nat := 0xB00100 + 0x8 * i
@[reducible] def SRV_PART_VALID (i : Nat) : Fld := ⟨SRV_PART i, 63, 63⟩
@[reducible] def SRV_PART_IN_USE (i : Nat) : Fld := ⟨SRV_PART i, 44, 32⟩
@[reducible] def SRV_PART_COUNT (i : Nat) : Fld := ⟨SRV_PART i, 28, 16⟩
@[reducible] def SRV_PART_BASE (i : Nat) : Fld := ⟨SRV_PART i, 11, 0⟩
/-- SRV_STAT_ADMITTED (R214). -/
def SRV_STAT_ADMITTED : Nat := 0xB00200
@[reducible] def SRV_STAT_ADMITTED_SAT : Fld := ⟨SRV_STAT_ADMITTED, 63, 63⟩
@[reducible] def SRV_STAT_ADMITTED_CLR : Fld := ⟨SRV_STAT_ADMITTED, 62, 62⟩
@[reducible] def SRV_STAT_ADMITTED_COUNT : Fld := ⟨SRV_STAT_ADMITTED, 47, 0⟩
/-- SRV_STAT_TOKENS (R214). -/
def SRV_STAT_TOKENS : Nat := 0xB00208
@[reducible] def SRV_STAT_TOKENS_SAT : Fld := ⟨SRV_STAT_TOKENS, 63, 63⟩
@[reducible] def SRV_STAT_TOKENS_CLR : Fld := ⟨SRV_STAT_TOKENS, 62, 62⟩
@[reducible] def SRV_STAT_TOKENS_COUNT : Fld := ⟨SRV_STAT_TOKENS, 47, 0⟩
/-- SRV_STAT_AT_RISK (R214). -/
def SRV_STAT_AT_RISK : Nat := 0xB00210
@[reducible] def SRV_STAT_AT_RISK_SAT : Fld := ⟨SRV_STAT_AT_RISK, 63, 63⟩
@[reducible] def SRV_STAT_AT_RISK_CLR : Fld := ⟨SRV_STAT_AT_RISK, 62, 62⟩
@[reducible] def SRV_STAT_AT_RISK_COUNT : Fld := ⟨SRV_STAT_AT_RISK, 47, 0⟩
/-- SRV_STAT_MISSED (R214). -/
def SRV_STAT_MISSED : Nat := 0xB00218
@[reducible] def SRV_STAT_MISSED_SAT : Fld := ⟨SRV_STAT_MISSED, 63, 63⟩
@[reducible] def SRV_STAT_MISSED_CLR : Fld := ⟨SRV_STAT_MISSED, 62, 62⟩
@[reducible] def SRV_STAT_MISSED_COUNT : Fld := ⟨SRV_STAT_MISSED, 47, 0⟩
/-- SRV_STAT_CANCELLED (R214). -/
def SRV_STAT_CANCELLED : Nat := 0xB00220
@[reducible] def SRV_STAT_CANCELLED_SAT : Fld := ⟨SRV_STAT_CANCELLED, 63, 63⟩
@[reducible] def SRV_STAT_CANCELLED_CLR : Fld := ⟨SRV_STAT_CANCELLED, 62, 62⟩
@[reducible] def SRV_STAT_CANCELLED_COUNT : Fld := ⟨SRV_STAT_CANCELLED, 47, 0⟩
/-- SRV_STAT_LAPSED (R214). -/
def SRV_STAT_LAPSED : Nat := 0xB00228
@[reducible] def SRV_STAT_LAPSED_SAT : Fld := ⟨SRV_STAT_LAPSED, 63, 63⟩
@[reducible] def SRV_STAT_LAPSED_CLR : Fld := ⟨SRV_STAT_LAPSED, 62, 62⟩
@[reducible] def SRV_STAT_LAPSED_COUNT : Fld := ⟨SRV_STAT_LAPSED, 47, 0⟩
/-- SRV_STAT_FULL_REJECT (R214). -/
def SRV_STAT_FULL_REJECT : Nat := 0xB00230
@[reducible] def SRV_STAT_FULL_REJECT_SAT : Fld := ⟨SRV_STAT_FULL_REJECT, 63, 63⟩
@[reducible] def SRV_STAT_FULL_REJECT_CLR : Fld := ⟨SRV_STAT_FULL_REJECT, 62, 62⟩
@[reducible] def SRV_STAT_FULL_REJECT_COUNT : Fld := ⟨SRV_STAT_FULL_REJECT, 47, 0⟩
/-- SRV_STAT_DRAFT_OFF (R214). -/
def SRV_STAT_DRAFT_OFF : Nat := 0xB00238
@[reducible] def SRV_STAT_DRAFT_OFF_SAT : Fld := ⟨SRV_STAT_DRAFT_OFF, 63, 63⟩
@[reducible] def SRV_STAT_DRAFT_OFF_CLR : Fld := ⟨SRV_STAT_DRAFT_OFF, 62, 62⟩
@[reducible] def SRV_STAT_DRAFT_OFF_COUNT : Fld := ⟨SRV_STAT_DRAFT_OFF, 47, 0⟩
/-- KV_CAP (R190). -/
def KV_CAP : Nat := 0xC00000
@[reducible] def KV_CAP_MAX_SEG : Fld := ⟨KV_CAP, 63, 56⟩
@[reducible] def KV_CAP_K_MAX : Fld := ⟨KV_CAP, 55, 52⟩
@[reducible] def KV_CAP_K_MIN : Fld := ⟨KV_CAP, 51, 48⟩
@[reducible] def KV_CAP_FORMATS : Fld := ⟨KV_CAP, 47, 44⟩
@[reducible] def KV_CAP_MAX_LEN : Fld := ⟨KV_CAP, 41, 21⟩
@[reducible] def KV_CAP_ENTRIES : Fld := ⟨KV_CAP, 20, 0⟩
/-- KV_CTRL (R190). -/
def KV_CTRL : Nat := 0xC00008
@[reducible] def KV_CTRL_LOW_PCT : Fld := ⟨KV_CTRL, 7, 0⟩
/-- KV_STATUS (R190). -/
def KV_STATUS : Nat := 0xC0000C
@[reducible] def KV_STATUS_LOW : Fld := ⟨KV_STATUS, 2, 2⟩
@[reducible] def KV_STATUS_EXHAUSTED : Fld := ⟨KV_STATUS, 1, 1⟩
@[reducible] def KV_STATUS_CTX_BUSY : Fld := ⟨KV_STATUS, 0, 0⟩
/-- KV_CTX_SEL (R190). -/
def KV_CTX_SEL : Nat := 0xC00010
@[reducible] def KV_CTX_SEL_GO : Fld := ⟨KV_CTX_SEL, 63, 63⟩
@[reducible] def KV_CTX_SEL_DONE : Fld := ⟨KV_CTX_SEL, 62, 62⟩
@[reducible] def KV_CTX_SEL_ERR : Fld := ⟨KV_CTX_SEL, 61, 61⟩
@[reducible] def KV_CTX_SEL_REQ : Fld := ⟨KV_CTX_SEL, 43, 32⟩
@[reducible] def KV_CTX_SEL_HANDLE : Fld := ⟨KV_CTX_SEL, 31, 0⟩
/-- KV_CTX_DATA (R190). -/
def KV_CTX_DATA (i : Nat) : Nat := 0xC00018 + 0x8 * i
@[reducible] def KV_CTX_DATA_WORD (i : Nat) : Fld := ⟨KV_CTX_DATA i, 63, 0⟩
/-- KV_POOL (R190). -/
def KV_POOL (i : Nat) : Nat := 0xC00100 + 0x8 * i
@[reducible] def KV_POOL_VALID (i : Nat) : Fld := ⟨KV_POOL i, 63, 63⟩
@[reducible] def KV_POOL_ENTRIES (i : Nat) : Fld := ⟨KV_POOL i, 62, 42⟩
@[reducible] def KV_POOL_FREE (i : Nat) : Fld := ⟨KV_POOL i, 41, 21⟩
@[reducible] def KV_POOL_RESERVED (i : Nat) : Fld := ⟨KV_POOL i, 20, 0⟩
/-- KV_STAT_KEPT (R190). -/
def KV_STAT_KEPT : Nat := 0xC00200
@[reducible] def KV_STAT_KEPT_SAT : Fld := ⟨KV_STAT_KEPT, 63, 63⟩
@[reducible] def KV_STAT_KEPT_CLR : Fld := ⟨KV_STAT_KEPT, 62, 62⟩
@[reducible] def KV_STAT_KEPT_COUNT : Fld := ⟨KV_STAT_KEPT, 47, 0⟩
/-- KV_STAT_ROLLED (R190). -/
def KV_STAT_ROLLED : Nat := 0xC00208
@[reducible] def KV_STAT_ROLLED_SAT : Fld := ⟨KV_STAT_ROLLED, 63, 63⟩
@[reducible] def KV_STAT_ROLLED_CLR : Fld := ⟨KV_STAT_ROLLED, 62, 62⟩
@[reducible] def KV_STAT_ROLLED_COUNT : Fld := ⟨KV_STAT_ROLLED, 47, 0⟩
/-- KV_STAT_RESV_FAIL (R190). -/
def KV_STAT_RESV_FAIL : Nat := 0xC00210
@[reducible] def KV_STAT_RESV_FAIL_SAT : Fld := ⟨KV_STAT_RESV_FAIL, 63, 63⟩
@[reducible] def KV_STAT_RESV_FAIL_CLR : Fld := ⟨KV_STAT_RESV_FAIL, 62, 62⟩
@[reducible] def KV_STAT_RESV_FAIL_COUNT : Fld := ⟨KV_STAT_RESV_FAIL, 47, 0⟩
/-- KV_STAT_FREED (R190). -/
def KV_STAT_FREED : Nat := 0xC00218
@[reducible] def KV_STAT_FREED_SAT : Fld := ⟨KV_STAT_FREED, 63, 63⟩
@[reducible] def KV_STAT_FREED_CLR : Fld := ⟨KV_STAT_FREED, 62, 62⟩
@[reducible] def KV_STAT_FREED_COUNT : Fld := ⟨KV_STAT_FREED, 47, 0⟩
/-- VCC_CAP (R299). -/
def VCC_CAP : Nat := 0xD00000
@[reducible] def VCC_CAP_SLOTS : Fld := ⟨VCC_CAP, 63, 56⟩
@[reducible] def VCC_CAP_CORES : Fld := ⟨VCC_CAP, 55, 52⟩
@[reducible] def VCC_CAP_CORE_LU : Fld := ⟨VCC_CAP, 51, 40⟩
@[reducible] def VCC_CAP_H265_LEVEL : Fld := ⟨VCC_CAP, 39, 32⟩
@[reducible] def VCC_CAP_H264_LEVEL : Fld := ⟨VCC_CAP, 31, 24⟩
@[reducible] def VCC_CAP_DECODE : Fld := ⟨VCC_CAP, 23, 16⟩
@[reducible] def VCC_CAP_ENCODE : Fld := ⟨VCC_CAP, 15, 8⟩
/-- VCC_STATUS (R299). -/
def VCC_STATUS : Nat := 0xD00008
@[reducible] def VCC_STATUS_REJECT_REASON : Fld := ⟨VCC_STATUS, 7, 4⟩
@[reducible] def VCC_STATUS_NTP_SET : Fld := ⟨VCC_STATUS, 2, 2⟩
@[reducible] def VCC_STATUS_DAMAGE : Fld := ⟨VCC_STATUS, 1, 1⟩
@[reducible] def VCC_STATUS_CFG_REJECT : Fld := ⟨VCC_STATUS, 0, 0⟩
/-- VCC_NTP_OFS (R299). -/
def VCC_NTP_OFS : Nat := 0xD00010
@[reducible] def VCC_NTP_OFS_OFS : Fld := ⟨VCC_NTP_OFS, 63, 0⟩
/-- VCC_CORE (R299). -/
def VCC_CORE (i : Nat) : Nat := 0xD00020 + 0x8 * i
@[reducible] def VCC_CORE_SLOTS (i : Nat) : Fld := ⟨VCC_CORE i, 63, 56⟩
@[reducible] def VCC_CORE_LOAD (i : Nat) : Fld := ⟨VCC_CORE i, 55, 44⟩
/-- VCC_SLOT_CFG (R299). -/
def VCC_SLOT_CFG (i : Nat) : Nat := 0xD01000 + 0x80 * i
@[reducible] def VCC_SLOT_CFG_STATE (i : Nat) : Fld := ⟨VCC_SLOT_CFG i, 63, 61⟩
@[reducible] def VCC_SLOT_CFG_EN (i : Nat) : Fld := ⟨VCC_SLOT_CFG i, 60, 60⟩
@[reducible] def VCC_SLOT_CFG_KIND (i : Nat) : Fld := ⟨VCC_SLOT_CFG i, 59, 58⟩
@[reducible] def VCC_SLOT_CFG_PART (i : Nat) : Fld := ⟨VCC_SLOT_CFG i, 57, 55⟩
@[reducible] def VCC_SLOT_CFG_PROFILE (i : Nat) : Fld := ⟨VCC_SLOT_CFG i, 54, 52⟩
@[reducible] def VCC_SLOT_CFG_DIV (i : Nat) : Fld := ⟨VCC_SLOT_CFG i, 51, 49⟩
@[reducible] def VCC_SLOT_CFG_CORES (i : Nat) : Fld := ⟨VCC_SLOT_CFG i, 48, 45⟩
@[reducible] def VCC_SLOT_CFG_NBUF_M1 (i : Nat) : Fld := ⟨VCC_SLOT_CFG i, 42, 40⟩
@[reducible] def VCC_SLOT_CFG_DROP_OLDEST (i : Nat) : Fld := ⟨VCC_SLOT_CFG i, 39, 39⟩
@[reducible] def VCC_SLOT_CFG_EXPLICIT (i : Nat) : Fld := ⟨VCC_SLOT_CFG i, 38, 38⟩
@[reducible] def VCC_SLOT_CFG_EVT_SRC (i : Nat) : Fld := ⟨VCC_SLOT_CFG i, 37, 28⟩
@[reducible] def VCC_SLOT_CFG_LOAD (i : Nat) : Fld := ⟨VCC_SLOT_CFG i, 27, 16⟩
@[reducible] def VCC_SLOT_CFG_CORES_USED (i : Nat) : Fld := ⟨VCC_SLOT_CFG i, 15, 12⟩
/-- VCC_SLOT_GEOM (R299). -/
def VCC_SLOT_GEOM (i : Nat) : Nat := 0xD01008 + 0x80 * i
@[reducible] def VCC_SLOT_GEOM_WIDTH (i : Nat) : Fld := ⟨VCC_SLOT_GEOM i, 63, 50⟩
@[reducible] def VCC_SLOT_GEOM_HEIGHT (i : Nat) : Fld := ⟨VCC_SLOT_GEOM i, 49, 36⟩
@[reducible] def VCC_SLOT_GEOM_FPS (i : Nat) : Fld := ⟨VCC_SLOT_GEOM i, 35, 29⟩
/-- VCC_SLOT_OUT (R299). -/
def VCC_SLOT_OUT (i : Nat) : Nat := 0xD01010 + 0x80 * i
@[reducible] def VCC_SLOT_OUT_FORMAT (i : Nat) : Fld := ⟨VCC_SLOT_OUT i, 63, 56⟩
@[reducible] def VCC_SLOT_OUT_CHW (i : Nat) : Fld := ⟨VCC_SLOT_OUT i, 55, 55⟩
@[reducible] def VCC_SLOT_OUT_COLOR (i : Nat) : Fld := ⟨VCC_SLOT_OUT i, 54, 53⟩
@[reducible] def VCC_SLOT_OUT_SCALE (i : Nat) : Fld := ⟨VCC_SLOT_OUT i, 52, 51⟩
@[reducible] def VCC_SLOT_OUT_DEST_SRAM (i : Nat) : Fld := ⟨VCC_SLOT_OUT i, 50, 50⟩
@[reducible] def VCC_SLOT_OUT_BYTESWAP (i : Nat) : Fld := ⟨VCC_SLOT_OUT i, 49, 49⟩
@[reducible] def VCC_SLOT_OUT_GROUP_MS (i : Nat) : Fld := ⟨VCC_SLOT_OUT i, 48, 39⟩
/-- VCC_SLOT_NORM (R299). -/
def VCC_SLOT_NORM (i : Nat) (j : Nat) : Nat := 0xD01018 + 0x80 * i + 0x8 * j
@[reducible] def VCC_SLOT_NORM_OFF (i : Nat) (j : Nat) : Fld := ⟨VCC_SLOT_NORM i j, 63, 32⟩
@[reducible] def VCC_SLOT_NORM_SC (i : Nat) (j : Nat) : Fld := ⟨VCC_SLOT_NORM i j, 31, 0⟩
/-- VCC_SLOT_NET (R299). -/
def VCC_SLOT_NET (i : Nat) : Nat := 0xD01030 + 0x80 * i
@[reducible] def VCC_SLOT_NET_PORT (i : Nat) : Fld := ⟨VCC_SLOT_NET i, 63, 62⟩
@[reducible] def VCC_SLOT_NET_TX (i : Nat) : Fld := ⟨VCC_SLOT_NET i, 61, 61⟩
@[reducible] def VCC_SLOT_NET_PT (i : Nat) : Fld := ⟨VCC_SLOT_NET i, 60, 54⟩
@[reducible] def VCC_SLOT_NET_UDP_PORT (i : Nat) : Fld := ⟨VCC_SLOT_NET i, 47, 32⟩
@[reducible] def VCC_SLOT_NET_SSRC (i : Nat) : Fld := ⟨VCC_SLOT_NET i, 31, 0⟩
/-- VCC_SLOT_TIME (R299). -/
def VCC_SLOT_TIME (i : Nat) : Nat := 0xD01038 + 0x80 * i
@[reducible] def VCC_SLOT_TIME_MAP (i : Nat) : Fld := ⟨VCC_SLOT_TIME i, 63, 62⟩
@[reducible] def VCC_SLOT_TIME_CLK_HZ (i : Nat) : Fld := ⟨VCC_SLOT_TIME i, 61, 40⟩
@[reducible] def VCC_SLOT_TIME_LAT_US (i : Nat) : Fld := ⟨VCC_SLOT_TIME i, 39, 24⟩
@[reducible] def VCC_SLOT_TIME_REANCHOR_MS (i : Nat) : Fld := ⟨VCC_SLOT_TIME i, 23, 12⟩
@[reducible] def VCC_SLOT_TIME_REORDER_MS (i : Nat) : Fld := ⟨VCC_SLOT_TIME i, 11, 4⟩
/-- VCC_SLOT_ENC (R299). -/
def VCC_SLOT_ENC (i : Nat) : Nat := 0xD01040 + 0x80 * i
@[reducible] def VCC_SLOT_ENC_RC (i : Nat) : Fld := ⟨VCC_SLOT_ENC i, 63, 62⟩
@[reducible] def VCC_SLOT_ENC_QP (i : Nat) : Fld := ⟨VCC_SLOT_ENC i, 61, 56⟩
@[reducible] def VCC_SLOT_ENC_KBPS (i : Nat) : Fld := ⟨VCC_SLOT_ENC i, 55, 36⟩
@[reducible] def VCC_SLOT_ENC_IRAP_INTERVAL (i : Nat) : Fld := ⟨VCC_SLOT_ENC i, 35, 24⟩
@[reducible] def VCC_SLOT_ENC_REFS_M1 (i : Nat) : Fld := ⟨VCC_SLOT_ENC i, 23, 22⟩
@[reducible] def VCC_SLOT_ENC_BFRAMES (i : Nat) : Fld := ⟨VCC_SLOT_ENC i, 21, 21⟩
@[reducible] def VCC_SLOT_ENC_SLICE_ROWS (i : Nat) : Fld := ⟨VCC_SLOT_ENC i, 20, 13⟩
@[reducible] def VCC_SLOT_ENC_SLICE_BYTES_64 (i : Nat) : Fld := ⟨VCC_SLOT_ENC i, 12, 0⟩
/-- VCC_SLOT_STATUS (R299). -/
def VCC_SLOT_STATUS (i : Nat) : Nat := 0xD01048 + 0x80 * i
@[reducible] def VCC_SLOT_STATUS_SEQ (i : Nat) : Fld := ⟨VCC_SLOT_STATUS i, 63, 40⟩
@[reducible] def VCC_SLOT_STATUS_READY (i : Nat) : Fld := ⟨VCC_SLOT_STATUS i, 39, 32⟩
@[reducible] def VCC_SLOT_STATUS_HELD (i : Nat) : Fld := ⟨VCC_SLOT_STATUS i, 31, 24⟩
@[reducible] def VCC_SLOT_STATUS_IRAP_SEEN (i : Nat) : Fld := ⟨VCC_SLOT_STATUS i, 23, 23⟩
@[reducible] def VCC_SLOT_STATUS_SR_LOCK (i : Nat) : Fld := ⟨VCC_SLOT_STATUS i, 22, 22⟩
@[reducible] def VCC_SLOT_STATUS_DIV_FALLBACK (i : Nat) : Fld := ⟨VCC_SLOT_STATUS i, 21, 21⟩
@[reducible] def VCC_SLOT_STATUS_FLAGS (i : Nat) : Fld := ⟨VCC_SLOT_STATUS i, 15, 0⟩
/-- VCC_SLOT_LATEST (R299). -/
def VCC_SLOT_LATEST (i : Nat) : Nat := 0xD01050 + 0x80 * i
@[reducible] def VCC_SLOT_LATEST_ALIAS (i : Nat) : Fld := ⟨VCC_SLOT_LATEST i, 31, 0⟩
/-- VCC_SLOT_SUBMIT (R299). -/
def VCC_SLOT_SUBMIT (i : Nat) : Nat := 0xD01058 + 0x80 * i
@[reducible] def VCC_SLOT_SUBMIT_HANDLE (i : Nat) : Fld := ⟨VCC_SLOT_SUBMIT i, 31, 0⟩
/-- VCC_SLOT_SUBMIT_STAMP (R299). -/
def VCC_SLOT_SUBMIT_STAMP (i : Nat) : Nat := 0xD01060 + 0x80 * i
@[reducible] def VCC_SLOT_SUBMIT_STAMP_STAMP (i : Nat) : Fld := ⟨VCC_SLOT_SUBMIT_STAMP i, 63, 0⟩
/-- VCC_SLOT_RELEASE (R299). -/
def VCC_SLOT_RELEASE (i : Nat) : Nat := 0xD01068 + 0x80 * i
@[reducible] def VCC_SLOT_RELEASE_HANDLE (i : Nat) : Fld := ⟨VCC_SLOT_RELEASE i, 31, 0⟩
/-- VCC_STAT_FRAMES (R299). -/
def VCC_STAT_FRAMES : Nat := 0xD00200
@[reducible] def VCC_STAT_FRAMES_SAT : Fld := ⟨VCC_STAT_FRAMES, 63, 63⟩
@[reducible] def VCC_STAT_FRAMES_CLR : Fld := ⟨VCC_STAT_FRAMES, 62, 62⟩
@[reducible] def VCC_STAT_FRAMES_COUNT : Fld := ⟨VCC_STAT_FRAMES, 47, 0⟩
/-- VCC_STAT_CONCEALED_ROWS (R299). -/
def VCC_STAT_CONCEALED_ROWS : Nat := 0xD00208
@[reducible] def VCC_STAT_CONCEALED_ROWS_SAT : Fld := ⟨VCC_STAT_CONCEALED_ROWS, 63, 63⟩
@[reducible] def VCC_STAT_CONCEALED_ROWS_CLR : Fld := ⟨VCC_STAT_CONCEALED_ROWS, 62, 62⟩
@[reducible] def VCC_STAT_CONCEALED_ROWS_COUNT : Fld := ⟨VCC_STAT_CONCEALED_ROWS, 47, 0⟩
/-- VCC_STAT_DROPPED (R299). -/
def VCC_STAT_DROPPED : Nat := 0xD00210
@[reducible] def VCC_STAT_DROPPED_SAT : Fld := ⟨VCC_STAT_DROPPED, 63, 63⟩
@[reducible] def VCC_STAT_DROPPED_CLR : Fld := ⟨VCC_STAT_DROPPED, 62, 62⟩
@[reducible] def VCC_STAT_DROPPED_COUNT : Fld := ⟨VCC_STAT_DROPPED, 47, 0⟩
/-- VCC_STAT_LATE (R299). -/
def VCC_STAT_LATE : Nat := 0xD00218
@[reducible] def VCC_STAT_LATE_SAT : Fld := ⟨VCC_STAT_LATE, 63, 63⟩
@[reducible] def VCC_STAT_LATE_CLR : Fld := ⟨VCC_STAT_LATE, 62, 62⟩
@[reducible] def VCC_STAT_LATE_COUNT : Fld := ⟨VCC_STAT_LATE, 47, 0⟩
/-- VCC_STAT_REANCHOR (R299). -/
def VCC_STAT_REANCHOR : Nat := 0xD00220
@[reducible] def VCC_STAT_REANCHOR_SAT : Fld := ⟨VCC_STAT_REANCHOR, 63, 63⟩
@[reducible] def VCC_STAT_REANCHOR_CLR : Fld := ⟨VCC_STAT_REANCHOR, 62, 62⟩
@[reducible] def VCC_STAT_REANCHOR_COUNT : Fld := ⟨VCC_STAT_REANCHOR, 47, 0⟩
/-- VCC_STAT_MALFORMED (R299). -/
def VCC_STAT_MALFORMED : Nat := 0xD00228
@[reducible] def VCC_STAT_MALFORMED_SAT : Fld := ⟨VCC_STAT_MALFORMED, 63, 63⟩
@[reducible] def VCC_STAT_MALFORMED_CLR : Fld := ⟨VCC_STAT_MALFORMED, 62, 62⟩
@[reducible] def VCC_STAT_MALFORMED_COUNT : Fld := ⟨VCC_STAT_MALFORMED, 47, 0⟩
/-- VCC_STAT_SLICES_TX_GATED (R299). -/
def VCC_STAT_SLICES_TX_GATED : Nat := 0xD00230
@[reducible] def VCC_STAT_SLICES_TX_GATED_SAT : Fld := ⟨VCC_STAT_SLICES_TX_GATED, 63, 63⟩
@[reducible] def VCC_STAT_SLICES_TX_GATED_CLR : Fld := ⟨VCC_STAT_SLICES_TX_GATED, 62, 62⟩
@[reducible] def VCC_STAT_SLICES_TX_GATED_COUNT : Fld := ⟨VCC_STAT_SLICES_TX_GATED, 47, 0⟩
/-- NET_CAP (R331). -/
def NET_CAP : Nat := 0xE00000
@[reducible] def NET_CAP_PORTS : Fld := ⟨NET_CAP, 63, 56⟩
@[reducible] def NET_CAP_QPS : Fld := ⟨NET_CAP, 55, 40⟩
@[reducible] def NET_CAP_VFS : Fld := ⟨NET_CAP, 39, 32⟩
@[reducible] def NET_CAP_MAX_FRAME : Fld := ⟨NET_CAP, 15, 0⟩
/-- NET_CTRL (R331). -/
def NET_CTRL : Nat := 0xE00008
@[reducible] def NET_CTRL_VF_BAR2 : Fld := ⟨NET_CTRL, 7, 4⟩
@[reducible] def NET_CTRL_EGRESS_POOLED : Fld := ⟨NET_CTRL, 0, 0⟩
/-- NET_STATUS (R331). -/
def NET_STATUS : Nat := 0xE0000C
@[reducible] def NET_STATUS_CFG_REJECT : Fld := ⟨NET_STATUS, 5, 5⟩
@[reducible] def NET_STATUS_PTP_ANOMALY : Fld := ⟨NET_STATUS, 4, 4⟩
@[reducible] def NET_STATUS_QP_ERR : Fld := ⟨NET_STATUS, 3, 3⟩
@[reducible] def NET_STATUS_ETH_DROP : Fld := ⟨NET_STATUS, 2, 2⟩
@[reducible] def NET_STATUS_HL_ERR : Fld := ⟨NET_STATUS, 1, 1⟩
@[reducible] def NET_STATUS_HL_UP : Fld := ⟨NET_STATUS, 0, 0⟩
/-- NET_MAC_BASE (R331). -/
def NET_MAC_BASE : Nat := 0xE00010
@[reducible] def NET_MAC_BASE_BASE : Fld := ⟨NET_MAC_BASE, 47, 0⟩
/-- NET_HL_BAR2_BASE (R331). -/
def NET_HL_BAR2_BASE : Nat := 0xE00018
@[reducible] def NET_HL_BAR2_BASE_BASE : Fld := ⟨NET_HL_BAR2_BASE, 37, 0⟩
/-- NET_PTP (R331). -/
def NET_PTP : Nat := 0xE00020
@[reducible] def NET_PTP_SLAVE_PORT : Fld := ⟨NET_PTP, 18, 16⟩
@[reducible] def NET_PTP_DOMAIN : Fld := ⟨NET_PTP, 15, 8⟩
@[reducible] def NET_PTP_P2P : Fld := ⟨NET_PTP, 7, 7⟩
@[reducible] def NET_PTP_L2 : Fld := ⟨NET_PTP, 6, 6⟩
@[reducible] def NET_PTP_ONE_STEP : Fld := ⟨NET_PTP, 5, 5⟩
@[reducible] def NET_PTP_PORT_EN : Fld := ⟨NET_PTP, 3, 0⟩
/-- NET_PORT_CFG (R331). -/
def NET_PORT_CFG (i : Nat) : Nat := 0xE00040 + 0x10 * i
@[reducible] def NET_PORT_CFG_PFC_EN (i : Nat) : Fld := ⟨NET_PORT_CFG i, 4, 4⟩
@[reducible] def NET_PORT_CFG_MODE (i : Nat) : Fld := ⟨NET_PORT_CFG i, 3, 2⟩
@[reducible] def NET_PORT_CFG_AN (i : Nat) : Fld := ⟨NET_PORT_CFG i, 1, 1⟩
/-- NET_PORT_STATUS (R331). -/
def NET_PORT_STATUS (i : Nat) : Nat := 0xE00048 + 0x10 * i
@[reducible] def NET_PORT_STATUS_MODE_UP (i : Nat) : Fld := ⟨NET_PORT_STATUS i, 2, 1⟩
@[reducible] def NET_PORT_STATUS_LINK (i : Nat) : Fld := ⟨NET_PORT_STATUS i, 0, 0⟩
/-- NET_PART_W0 (R331). -/
def NET_PART_W0 (i : Nat) : Nat := 0xE00100 + 0x20 * i
@[reducible] def NET_PART_W0_EN (i : Nat) : Fld := ⟨NET_PART_W0 i, 63, 63⟩
@[reducible] def NET_PART_W0_VLAN (i : Nat) : Fld := ⟨NET_PART_W0 i, 59, 48⟩
@[reducible] def NET_PART_W0_IPV4 (i : Nat) : Fld := ⟨NET_PART_W0 i, 31, 0⟩
/-- NET_PART_W1 (R331). -/
def NET_PART_W1 (i : Nat) : Nat := 0xE00108 + 0x20 * i
@[reducible] def NET_PART_W1_IPV6_HI (i : Nat) : Fld := ⟨NET_PART_W1 i, 63, 0⟩
/-- NET_PART_W2 (R331). -/
def NET_PART_W2 (i : Nat) : Nat := 0xE00110 + 0x20 * i
@[reducible] def NET_PART_W2_IPV6_LO (i : Nat) : Fld := ⟨NET_PART_W2 i, 63, 0⟩
/-- NET_PART_W3 (R331). -/
def NET_PART_W3 (i : Nat) : Nat := 0xE00118 + 0x20 * i
@[reducible] def NET_PART_W3_QP_BASE (i : Nat) : Fld := ⟨NET_PART_W3 i, 63, 54⟩
@[reducible] def NET_PART_W3_QP_COUNT (i : Nat) : Fld := ⟨NET_PART_W3 i, 53, 43⟩
@[reducible] def NET_PART_W3_EGRESS (i : Nat) : Fld := ⟨NET_PART_W3 i, 37, 32⟩
/-- NET_HL_STATUS (R332). -/
def NET_HL_STATUS : Nat := 0xE00200
@[reducible] def NET_HL_STATUS_WIDTH : Fld := ⟨NET_HL_STATUS, 27, 26⟩
@[reducible] def NET_HL_STATUS_GEN : Fld := ⟨NET_HL_STATUS, 25, 23⟩
@[reducible] def NET_HL_STATUS_DEGRADED : Fld := ⟨NET_HL_STATUS, 22, 22⟩
@[reducible] def NET_HL_STATUS_VCLASS : Fld := ⟨NET_HL_STATUS, 15, 8⟩
@[reducible] def NET_HL_STATUS_FUNC : Fld := ⟨NET_HL_STATUS, 7, 4⟩
@[reducible] def NET_HL_STATUS_CAPTURED : Fld := ⟨NET_HL_STATUS, 0, 0⟩
/-- NET_HL_HDR (R332). -/
def NET_HL_HDR (i : Nat) : Nat := 0xE00210 + 0x8 * i
@[reducible] def NET_HL_HDR_HDR (i : Nat) : Fld := ⟨NET_HL_HDR i, 63, 0⟩
/-- NET_STAT_FCS (R332). -/
def NET_STAT_FCS : Nat := 0xE00300
@[reducible] def NET_STAT_FCS_SAT : Fld := ⟨NET_STAT_FCS, 63, 63⟩
@[reducible] def NET_STAT_FCS_CLR : Fld := ⟨NET_STAT_FCS, 62, 62⟩
@[reducible] def NET_STAT_FCS_COUNT : Fld := ⟨NET_STAT_FCS, 47, 0⟩
/-- NET_STAT_ICRC (R332). -/
def NET_STAT_ICRC : Nat := 0xE00308
@[reducible] def NET_STAT_ICRC_SAT : Fld := ⟨NET_STAT_ICRC, 63, 63⟩
@[reducible] def NET_STAT_ICRC_CLR : Fld := ⟨NET_STAT_ICRC, 62, 62⟩
@[reducible] def NET_STAT_ICRC_COUNT : Fld := ⟨NET_STAT_ICRC, 47, 0⟩
/-- NET_STAT_ROCE_BAD (R332). -/
def NET_STAT_ROCE_BAD : Nat := 0xE00310
@[reducible] def NET_STAT_ROCE_BAD_SAT : Fld := ⟨NET_STAT_ROCE_BAD, 63, 63⟩
@[reducible] def NET_STAT_ROCE_BAD_CLR : Fld := ⟨NET_STAT_ROCE_BAD, 62, 62⟩
@[reducible] def NET_STAT_ROCE_BAD_COUNT : Fld := ⟨NET_STAT_ROCE_BAD, 47, 0⟩
/-- NET_STAT_ROCE_NAK (R332). -/
def NET_STAT_ROCE_NAK : Nat := 0xE00318
@[reducible] def NET_STAT_ROCE_NAK_SAT : Fld := ⟨NET_STAT_ROCE_NAK, 63, 63⟩
@[reducible] def NET_STAT_ROCE_NAK_CLR : Fld := ⟨NET_STAT_ROCE_NAK, 62, 62⟩
@[reducible] def NET_STAT_ROCE_NAK_COUNT : Fld := ⟨NET_STAT_ROCE_NAK, 47, 0⟩
/-- NET_STAT_RETRANS (R332). -/
def NET_STAT_RETRANS : Nat := 0xE00320
@[reducible] def NET_STAT_RETRANS_SAT : Fld := ⟨NET_STAT_RETRANS, 63, 63⟩
@[reducible] def NET_STAT_RETRANS_CLR : Fld := ⟨NET_STAT_RETRANS, 62, 62⟩
@[reducible] def NET_STAT_RETRANS_COUNT : Fld := ⟨NET_STAT_RETRANS, 47, 0⟩
/-- NET_STAT_NO_MATCH (R332). -/
def NET_STAT_NO_MATCH : Nat := 0xE00328
@[reducible] def NET_STAT_NO_MATCH_SAT : Fld := ⟨NET_STAT_NO_MATCH, 63, 63⟩
@[reducible] def NET_STAT_NO_MATCH_CLR : Fld := ⟨NET_STAT_NO_MATCH, 62, 62⟩
@[reducible] def NET_STAT_NO_MATCH_COUNT : Fld := ⟨NET_STAT_NO_MATCH, 47, 0⟩
/-- NET_STAT_EGRESS_GATED (R332). -/
def NET_STAT_EGRESS_GATED : Nat := 0xE00330
@[reducible] def NET_STAT_EGRESS_GATED_SAT : Fld := ⟨NET_STAT_EGRESS_GATED, 63, 63⟩
@[reducible] def NET_STAT_EGRESS_GATED_CLR : Fld := ⟨NET_STAT_EGRESS_GATED, 62, 62⟩
@[reducible] def NET_STAT_EGRESS_GATED_COUNT : Fld := ⟨NET_STAT_EGRESS_GATED, 47, 0⟩
/-- NET_STAT_PTP_ANOM (R332). -/
def NET_STAT_PTP_ANOM : Nat := 0xE00338
@[reducible] def NET_STAT_PTP_ANOM_SAT : Fld := ⟨NET_STAT_PTP_ANOM, 63, 63⟩
@[reducible] def NET_STAT_PTP_ANOM_CLR : Fld := ⟨NET_STAT_PTP_ANOM, 62, 62⟩
@[reducible] def NET_STAT_PTP_ANOM_COUNT : Fld := ⟨NET_STAT_PTP_ANOM, 47, 0⟩
/-- NET_STAT_DB_BAD (R332). -/
def NET_STAT_DB_BAD : Nat := 0xE00340
@[reducible] def NET_STAT_DB_BAD_SAT : Fld := ⟨NET_STAT_DB_BAD, 63, 63⟩
@[reducible] def NET_STAT_DB_BAD_CLR : Fld := ⟨NET_STAT_DB_BAD, 62, 62⟩
@[reducible] def NET_STAT_DB_BAD_COUNT : Fld := ⟨NET_STAT_DB_BAD, 47, 0⟩
/-- NET_STAT_CQ_LOST (R332). -/
def NET_STAT_CQ_LOST : Nat := 0xE00348
@[reducible] def NET_STAT_CQ_LOST_SAT : Fld := ⟨NET_STAT_CQ_LOST, 63, 63⟩
@[reducible] def NET_STAT_CQ_LOST_CLR : Fld := ⟨NET_STAT_CQ_LOST, 62, 62⟩
@[reducible] def NET_STAT_CQ_LOST_COUNT : Fld := ⟨NET_STAT_CQ_LOST, 47, 0⟩
/-- NET_STAT_UR (R332). -/
def NET_STAT_UR : Nat := 0xE00350
@[reducible] def NET_STAT_UR_SAT : Fld := ⟨NET_STAT_UR, 63, 63⟩
@[reducible] def NET_STAT_UR_CLR : Fld := ⟨NET_STAT_UR, 62, 62⟩
@[reducible] def NET_STAT_UR_COUNT : Fld := ⟨NET_STAT_UR, 47, 0⟩
/-- NET_STAT_CA (R332). -/
def NET_STAT_CA : Nat := 0xE00358
@[reducible] def NET_STAT_CA_SAT : Fld := ⟨NET_STAT_CA, 63, 63⟩
@[reducible] def NET_STAT_CA_CLR : Fld := ⟨NET_STAT_CA, 62, 62⟩
@[reducible] def NET_STAT_CA_COUNT : Fld := ⟨NET_STAT_CA, 47, 0⟩
/-- MEM_CTRL (R271). -/
def MEM_CTRL : Nat := 0xF00000
@[reducible] def MEM_CTRL_ACTIVE : Fld := ⟨MEM_CTRL, 1, 1⟩
@[reducible] def MEM_CTRL_MODE : Fld := ⟨MEM_CTRL, 0, 0⟩
/-- MEM_STATUS (R271). -/
def MEM_STATUS : Nat := 0xF00004
@[reducible] def MEM_STATUS_CFG_REJECT : Fld := ⟨MEM_STATUS, 4, 4⟩
@[reducible] def MEM_STATUS_STACK_LOST : Fld := ⟨MEM_STATUS, 3, 3⟩
@[reducible] def MEM_STATUS_DEGRADED : Fld := ⟨MEM_STATUS, 2, 2⟩
@[reducible] def MEM_STATUS_UE : Fld := ⟨MEM_STATUS, 1, 1⟩
@[reducible] def MEM_STATUS_RETRAIN_ACTIVE : Fld := ⟨MEM_STATUS, 0, 0⟩
/-- MEM_RETRAIN (R271). -/
def MEM_RETRAIN : Nat := 0xF00010
@[reducible] def MEM_RETRAIN_INTERVAL_S : Fld := ⟨MEM_RETRAIN, 63, 44⟩
@[reducible] def MEM_RETRAIN_LEAD : Fld := ⟨MEM_RETRAIN, 43, 40⟩
@[reducible] def MEM_RETRAIN_DRIFT_C : Fld := ⟨MEM_RETRAIN, 39, 32⟩
@[reducible] def MEM_RETRAIN_MIRROR_GIB : Fld := ⟨MEM_RETRAIN, 31, 24⟩
@[reducible] def MEM_RETRAIN_FORCE : Fld := ⟨MEM_RETRAIN, 19, 19⟩
@[reducible] def MEM_RETRAIN_FORCE_STACK : Fld := ⟨MEM_RETRAIN, 18, 16⟩
@[reducible] def MEM_RETRAIN_NEXT_STACK : Fld := ⟨MEM_RETRAIN, 2, 0⟩
/-- MEM_TEMP (R271). -/
def MEM_TEMP : Nat := 0xF00018
@[reducible] def MEM_TEMP_LIMIT_C : Fld := ⟨MEM_TEMP, 15, 8⟩
@[reducible] def MEM_TEMP_REFRESH2X_C : Fld := ⟨MEM_TEMP, 7, 0⟩
/-- MEM_ERR_CTRL (R271). -/
def MEM_ERR_CTRL : Nat := 0xF0001C
@[reducible] def MEM_ERR_CTRL_LINK_DUE : Fld := ⟨MEM_ERR_CTRL, 15, 8⟩
@[reducible] def MEM_ERR_CTRL_STACK_LIMIT : Fld := ⟨MEM_ERR_CTRL, 7, 0⟩
/-- MEM_SHARE (R271). -/
def MEM_SHARE (i : Nat) : Nat := 0xF00040 + 0x4 * i
@[reducible] def MEM_SHARE_SOUTH (i : Nat) : Fld := ⟨MEM_SHARE i, 13, 8⟩
@[reducible] def MEM_SHARE_NORTH (i : Nat) : Fld := ⟨MEM_SHARE i, 5, 0⟩
/-- MEM_STACK (R271). -/
def MEM_STACK (i : Nat) : Nat := 0xF00100 + 0x8 * i
@[reducible] def MEM_STACK_STATE (i : Nat) : Fld := ⟨MEM_STACK i, 63, 62⟩
@[reducible] def MEM_STACK_RATE (i : Nat) : Fld := ⟨MEM_STACK i, 61, 60⟩
@[reducible] def MEM_STACK_REFRESH2X (i : Nat) : Fld := ⟨MEM_STACK i, 59, 59⟩
@[reducible] def MEM_STACK_HOT_LIMIT (i : Nat) : Fld := ⟨MEM_STACK i, 58, 58⟩
@[reducible] def MEM_STACK_MIRROR_READY (i : Nat) : Fld := ⟨MEM_STACK i, 57, 57⟩
@[reducible] def MEM_STACK_DUE (i : Nat) : Fld := ⟨MEM_STACK i, 56, 56⟩
@[reducible] def MEM_STACK_SPARES (i : Nat) : Fld := ⟨MEM_STACK i, 55, 48⟩
@[reducible] def MEM_STACK_FAILS (i : Nat) : Fld := ⟨MEM_STACK i, 47, 40⟩
@[reducible] def MEM_STACK_TEMP (i : Nat) : Fld := ⟨MEM_STACK i, 39, 32⟩
@[reducible] def MEM_STACK_REMAP_24H (i : Nat) : Fld := ⟨MEM_STACK i, 31, 16⟩
/-- MEM_TRAIN_STAMP (R271). -/
def MEM_TRAIN_STAMP (i : Nat) : Nat := 0xF00140 + 0x8 * i
@[reducible] def MEM_TRAIN_STAMP_STAMP (i : Nat) : Fld := ⟨MEM_TRAIN_STAMP i, 63, 0⟩
/-- MEM_UE_ADDR (R271). -/
def MEM_UE_ADDR : Nat := 0xF00180
@[reducible] def MEM_UE_ADDR_SOURCE : Fld := ⟨MEM_UE_ADDR, 63, 62⟩
@[reducible] def MEM_UE_ADDR_PART : Fld := ⟨MEM_UE_ADDR, 61, 59⟩
@[reducible] def MEM_UE_ADDR_ADDR : Fld := ⟨MEM_UE_ADDR, 37, 0⟩
/-- MEM_UE_STAMP (R271). -/
def MEM_UE_STAMP : Nat := 0xF00188
@[reducible] def MEM_UE_STAMP_STAMP : Fld := ⟨MEM_UE_STAMP, 63, 0⟩
/-- MEM_STAT_CE_DRAM (R271). -/
def MEM_STAT_CE_DRAM : Nat := 0xF00200
@[reducible] def MEM_STAT_CE_DRAM_SAT : Fld := ⟨MEM_STAT_CE_DRAM, 63, 63⟩
@[reducible] def MEM_STAT_CE_DRAM_CLR : Fld := ⟨MEM_STAT_CE_DRAM, 62, 62⟩
@[reducible] def MEM_STAT_CE_DRAM_COUNT : Fld := ⟨MEM_STAT_CE_DRAM, 47, 0⟩
/-- MEM_STAT_UE_DRAM (R271). -/
def MEM_STAT_UE_DRAM : Nat := 0xF00208
@[reducible] def MEM_STAT_UE_DRAM_SAT : Fld := ⟨MEM_STAT_UE_DRAM, 63, 63⟩
@[reducible] def MEM_STAT_UE_DRAM_CLR : Fld := ⟨MEM_STAT_UE_DRAM, 62, 62⟩
@[reducible] def MEM_STAT_UE_DRAM_COUNT : Fld := ⟨MEM_STAT_UE_DRAM, 47, 0⟩
/-- MEM_STAT_LINK_RETRY (R271). -/
def MEM_STAT_LINK_RETRY : Nat := 0xF00210
@[reducible] def MEM_STAT_LINK_RETRY_SAT : Fld := ⟨MEM_STAT_LINK_RETRY, 63, 63⟩
@[reducible] def MEM_STAT_LINK_RETRY_CLR : Fld := ⟨MEM_STAT_LINK_RETRY, 62, 62⟩
@[reducible] def MEM_STAT_LINK_RETRY_COUNT : Fld := ⟨MEM_STAT_LINK_RETRY, 47, 0⟩
/-- MEM_STAT_CE_SRAM (R271). -/
def MEM_STAT_CE_SRAM : Nat := 0xF00218
@[reducible] def MEM_STAT_CE_SRAM_SAT : Fld := ⟨MEM_STAT_CE_SRAM, 63, 63⟩
@[reducible] def MEM_STAT_CE_SRAM_CLR : Fld := ⟨MEM_STAT_CE_SRAM, 62, 62⟩
@[reducible] def MEM_STAT_CE_SRAM_COUNT : Fld := ⟨MEM_STAT_CE_SRAM, 47, 0⟩
/-- MEM_STAT_UE_SRAM (R271). -/
def MEM_STAT_UE_SRAM : Nat := 0xF00220
@[reducible] def MEM_STAT_UE_SRAM_SAT : Fld := ⟨MEM_STAT_UE_SRAM, 63, 63⟩
@[reducible] def MEM_STAT_UE_SRAM_CLR : Fld := ⟨MEM_STAT_UE_SRAM, 62, 62⟩
@[reducible] def MEM_STAT_UE_SRAM_COUNT : Fld := ⟨MEM_STAT_UE_SRAM, 47, 0⟩
/-- MEM_STAT_RETRAIN (R271). -/
def MEM_STAT_RETRAIN : Nat := 0xF00228
@[reducible] def MEM_STAT_RETRAIN_SAT : Fld := ⟨MEM_STAT_RETRAIN, 63, 63⟩
@[reducible] def MEM_STAT_RETRAIN_CLR : Fld := ⟨MEM_STAT_RETRAIN, 62, 62⟩
@[reducible] def MEM_STAT_RETRAIN_COUNT : Fld := ⟨MEM_STAT_RETRAIN, 47, 0⟩
/-- MEM_STAT_RETRAIN_MOVED (R271). -/
def MEM_STAT_RETRAIN_MOVED : Nat := 0xF00230
@[reducible] def MEM_STAT_RETRAIN_MOVED_SAT : Fld := ⟨MEM_STAT_RETRAIN_MOVED, 63, 63⟩
@[reducible] def MEM_STAT_RETRAIN_MOVED_CLR : Fld := ⟨MEM_STAT_RETRAIN_MOVED, 62, 62⟩
@[reducible] def MEM_STAT_RETRAIN_MOVED_COUNT : Fld := ⟨MEM_STAT_RETRAIN_MOVED, 47, 0⟩
/-- CMD_SQ_BASE (R308). -/
def CMD_SQ_BASE (i : Nat) (j : Nat) : Nat := 0x2000000 + 0x100000 * i + 0x40 * j
@[reducible] def CMD_SQ_BASE_ADDR (i : Nat) (j : Nat) : Fld := ⟨CMD_SQ_BASE i j, 63, 12⟩
/-- CMD_CQ_BASE (R308). -/
def CMD_CQ_BASE (i : Nat) (j : Nat) : Nat := 0x2000008 + 0x100000 * i + 0x40 * j
@[reducible] def CMD_CQ_BASE_ADDR (i : Nat) (j : Nat) : Fld := ⟨CMD_CQ_BASE i j, 63, 12⟩
/-- CMD_CFG (R308). -/
def CMD_CFG (i : Nat) (j : Nat) : Nat := 0x2000010 + 0x100000 * i + 0x40 * j
@[reducible] def CMD_CFG_EN (i : Nat) (j : Nat) : Fld := ⟨CMD_CFG i j, 31, 31⟩
@[reducible] def CMD_CFG_SQ_LOG2 (i : Nat) (j : Nat) : Fld := ⟨CMD_CFG i j, 20, 16⟩
@[reducible] def CMD_CFG_CQ_LOG2 (i : Nat) (j : Nat) : Fld := ⟨CMD_CFG i j, 12, 8⟩
@[reducible] def CMD_CFG_VEC (i : Nat) (j : Nat) : Fld := ⟨CMD_CFG i j, 7, 0⟩
/-- CMD_STATUS (R308). -/
def CMD_STATUS (i : Nat) (j : Nat) : Nat := 0x2000014 + 0x100000 * i + 0x40 * j
@[reducible] def CMD_STATUS_ERR_CODE (i : Nat) (j : Nat) : Fld := ⟨CMD_STATUS i j, 31, 16⟩
@[reducible] def CMD_STATUS_LOST (i : Nat) (j : Nat) : Fld := ⟨CMD_STATUS i j, 2, 2⟩
@[reducible] def CMD_STATUS_STOPPED (i : Nat) (j : Nat) : Fld := ⟨CMD_STATUS i j, 1, 1⟩
/-- CMD_PTRS (R308). -/
def CMD_PTRS (i : Nat) (j : Nat) : Nat := 0x2000018 + 0x100000 * i + 0x40 * j
@[reducible] def CMD_PTRS_SQ_HEAD (i : Nat) (j : Nat) : Fld := ⟨CMD_PTRS i j, 47, 32⟩
@[reducible] def CMD_PTRS_CQ_TAIL (i : Nat) (j : Nat) : Fld := ⟨CMD_PTRS i j, 15, 0⟩

/-- Part 0 of the register table. -/
def regTable0 : List RegInfo :=
  [⟨0x0, [], 32, 0x4E091001, 0x0, 0x0⟩,
   ⟨0x8, [], 64, 0x1004040806288440, 0x0, 0x0⟩,
   ⟨0x10, [], 64, 0x3FFF00000000, 0x0, 0x0⟩,
   ⟨0x18, [], 64, 0x90000000002, 0x0, 0x0⟩,
   ⟨0x40, [], 32, 0x1, 0x0, 0x0⟩,
   ⟨0x48, [], 32, 0x0, 0x0, 0xC000⟩,
   ⟨0x100000, [], 64, 0x0, 0x0, 0x0⟩,
   ⟨0x100008, [], 32, 0xC803, 0xFFF03, 0x0⟩,
   ⟨0x10000C, [], 32, 0x0, 0x0, 0x30⟩,
   ⟨0x100010, [], 64, 0x0, 0x0, 0x0⟩,
   ⟨0x100018, [], 32, 0x0, 0x0, 0x0⟩,
   ⟨0x100020, [], 64, 0x0, 0x0, 0x0⟩,
   ⟨0x100028, [], 32, 0x3E8, 0xFFFFFFFF, 0x0⟩,
   ⟨0x10002C, [], 32, 0x64, 0xFFFF, 0x0⟩,
   ⟨0x100030, [], 32, 0x8A01FFBF, 0x8F01FFFF, 0x0⟩,
   ⟨0x100038, [], 64, 0x0, 0x0, 0x0⟩,
   ⟨0x100040, [], 64, 0x0, 0x0, 0x0⟩,
   ⟨0x100080, [], 64, 0x0, 0x0, 0x0⟩,
   ⟨0x100088, [], 64, 0x0, 0x0, 0x0⟩,
   ⟨0x100100, [], 64, 0x0, 0x0, 0x0⟩,
   ⟨0x100108, [], 32, 0x2710, 0x1FFFF, 0x0⟩,
   ⟨0x10010C, [], 32, 0x1F4, 0x1FFF, 0x0⟩,
   ⟨0x100110, [], 64, 0x989680, 0x0, 0x0⟩,
   ⟨0x100118, [], 32, 0x0, 0x0, 0x0⟩,
   ⟨0x100200, [(8, 0x8)], 64, 0x0, 0x78FFC00000000000, 0x200000000000000⟩]

/-- Part 1 of the register table. -/
def regTable1 : List RegInfo :=
  [⟨0x100280, [(8, 0x4)], 32, 0x0, 0x0, 0x0⟩,
   ⟨0x100300, [], 64, 0x0, 0x0, 0x0⟩,
   ⟨0x100308, [], 64, 0x0, 0x0, 0x0⟩,
   ⟨0x100310, [], 64, 0x0, 0x0, 0x0⟩,
   ⟨0x100318, [], 64, 0x0, 0x0, 0x0⟩,
   ⟨0x200000, [], 32, 0x1C0F03FE, 0x0, 0x0⟩,
   ⟨0x200008, [], 32, 0x0, 0x0, 0x0⟩,
   ⟨0x20000C, [], 32, 0x0, 0x0, 0x7⟩,
   ⟨0x200010, [], 32, 0x0, 0x7, 0x0⟩,
   ⟨0x200014, [], 32, 0x0, 0x0, 0x7⟩,
   ⟨0x200100, [(32, 0x4)], 32, 0x0, 0xFFFFFFFF, 0x0⟩,
   ⟨0x200180, [(32, 0x4)], 32, 0xFFFFFFFF, 0xFFFFFFFF, 0x0⟩,
   ⟨0x200200, [(32, 0x4)], 32, 0x0, 0x0, 0x0⟩,
   ⟨0x200300, [], 64, 0x0, 0x0, 0x0⟩,
   ⟨0x200308, [], 64, 0x0, 0x0, 0x0⟩,
   ⟨0x200310, [], 64, 0x0, 0x0, 0x0⟩,
   ⟨0x200318, [], 64, 0x0, 0x0, 0x0⟩,
   ⟨0x200320, [], 64, 0x0, 0x0, 0x0⟩,
   ⟨0x201000, [(1023, 0x4)], 32, 0x181F0000, 0xFF1FFF00, 0x0⟩,
   ⟨0x202000, [(28, 0x20)], 32, 0x0, 0x0, 0x0⟩,
   ⟨0x202004, [(28, 0x20)], 32, 0x0, 0x0, 0x0⟩,
   ⟨0x202008, [(28, 0x20)], 32, 0x0, 0xF, 0x0⟩,
   ⟨0x20200C, [(28, 0x20)], 32, 0x0, 0x0, 0x0⟩,
   ⟨0x300000, [], 32, 0x0, 0x0, 0x10000⟩,
   ⟨0x300004, [], 32, 0x0, 0x1, 0x0⟩]

/-- Part 2 of the register table. -/
def regTable2 : List RegInfo :=
  [⟨0x300008, [], 32, 0x6401F4, 0x3FF, 0x0⟩,
   ⟨0x30000C, [], 32, 0x3E803E8, 0x3FF, 0x0⟩,
   ⟨0x300010, [], 64, 0x0, 0x0, 0x0⟩,
   ⟨0x300100, [], 64, 0x0, 0x0, 0x0⟩,
   ⟨0x300108, [], 64, 0x0, 0x0, 0x0⟩,
   ⟨0x400000, [], 32, 0x0, 0x0, 0x7F⟩,
   ⟨0x400004, [], 32, 0x2580258, 0x3FF, 0x0⟩,
   ⟨0x400008, [], 32, 0xFA00C8, 0x3FF03FF, 0x0⟩,
   ⟨0x40000C, [], 32, 0x1F40000, 0xFFFF0000, 0x0⟩,
   ⟨0x400010, [], 32, 0x8196E5F, 0xFFFF0000, 0x0⟩,
   ⟨0x400014, [], 32, 0x4601F4, 0x3FFFFFF, 0x0⟩,
   ⟨0x400018, [], 32, 0x0, 0x0, 0x0⟩,
   ⟨0x40001C, [], 32, 0x0, 0x0, 0x0⟩,
   ⟨0x400020, [], 32, 0x0, 0x0, 0x0⟩,
   ⟨0x400024, [], 32, 0x0, 0x0, 0x0⟩,
   ⟨0x400028, [], 32, 0x0, 0x0, 0x0⟩,
   ⟨0x40002C, [], 32, 0x258, 0xFFFF, 0x0⟩,
   ⟨0x400100, [(32, 0x8)], 64, 0x0, 0x0, 0x0⟩,
   ⟨0x400200, [(32, 0x8)], 64, 0x0, 0x0, 0x0⟩,
   ⟨0x400300, [(8, 0x8)], 64, 0x0, 0x0, 0x0⟩,
   ⟨0x400400, [], 64, 0x0, 0x0, 0x0⟩,
   ⟨0x400408, [], 64, 0x0, 0x0, 0x0⟩,
   ⟨0x400410, [], 64, 0x0, 0x0, 0x0⟩,
   ⟨0x400418, [], 64, 0x0, 0x0, 0x0⟩,
   ⟨0x500000, [], 32, 0x130258, 0x1FFFFF, 0x0⟩]

/-- Part 3 of the register table. -/
def regTable3 : List RegInfo :=
  [⟨0x500004, [], 32, 0x0, 0x0, 0x1F⟩,
   ⟨0x500008, [], 64, 0x0, 0x0, 0x0⟩,
   ⟨0x500010, [], 64, 0x0, 0x0, 0x0⟩,
   ⟨0x500018, [], 64, 0x0, 0x20000000000000FF, 0x0⟩,
   ⟨0x500020, [], 64, 0x0, 0x0, 0x0⟩,
   ⟨0x500028, [], 64, 0x0, 0x0, 0x0⟩,
   ⟨0x500030, [], 32, 0x0, 0x0, 0x0⟩,
   ⟨0x500038, [], 32, 0x0, 0x0, 0x0⟩,
   ⟨0x500100, [], 64, 0x0, 0x0, 0x0⟩,
   ⟨0x500108, [], 64, 0x0, 0x0, 0x0⟩,
   ⟨0x500110, [], 64, 0x0, 0x0, 0x0⟩,
   ⟨0x500118, [], 64, 0x0, 0x0, 0x0⟩,
   ⟨0x500120, [], 64, 0x0, 0x0, 0x0⟩,
   ⟨0x500128, [], 64, 0x0, 0x0, 0x0⟩,
   ⟨0x500130, [], 64, 0x0, 0x0, 0x0⟩,
   ⟨0x500138, [], 64, 0x0, 0x0, 0x0⟩,
   ⟨0x600000, [], 32, 0x300, 0x7FF, 0x0⟩,
   ⟨0x600004, [], 32, 0x28, 0xFF, 0x0⟩,
   ⟨0x600008, [], 32, 0x0, 0x0, 0x1000001⟩,
   ⟨0x600100, [(8, 0x8)], 64, 0x0, 0x0, 0x0⟩,
   ⟨0x600140, [(8, 0x8)], 64, 0x0, 0x0, 0x0⟩,
   ⟨0x600180, [], 32, 0x0, 0x0, 0x0⟩,
   ⟨0x600188, [], 64, 0x0, 0x0, 0x0⟩,
   ⟨0x600200, [], 64, 0x0, 0x0, 0x0⟩,
   ⟨0x600208, [], 64, 0x0, 0x0, 0x0⟩]

/-- Part 4 of the register table. -/
def regTable4 : List RegInfo :=
  [⟨0x600210, [], 64, 0x0, 0x0, 0x0⟩,
   ⟨0x700000, [], 32, 0x0, 0x0, 0x1⟩,
   ⟨0x700008, [], 64, 0x0, 0x3F000000000000FF, 0x0⟩,
   ⟨0x700010, [], 64, 0x0, 0x0, 0x0⟩,
   ⟨0x700018, [], 64, 0x0, 0x0, 0x0⟩,
   ⟨0x700100, [(8, 0x8)], 64, 0x0, 0x0, 0x0⟩,
   ⟨0x700200, [(8, 0x40), (8, 0x8)], 64, 0x0, 0x8000003FFFFFC000, 0x0⟩,
   ⟨0x700400, [], 64, 0x0, 0x0, 0x0⟩,
   ⟨0x700408, [], 64, 0x0, 0x0, 0x0⟩,
   ⟨0x700410, [], 64, 0x0, 0x0, 0x0⟩,
   ⟨0x800000, [], 32, 0x0, 0x0, 0x0⟩,
   ⟨0x800004, [], 32, 0x0, 0x0, 0xC00⟩,
   ⟨0x800008, [], 64, 0x0, 0x0, 0x0⟩,
   ⟨0x800010, [], 64, 0x0, 0x0, 0x0⟩,
   ⟨0x800018, [], 32, 0x0, 0x0, 0x0⟩,
   ⟨0x800020, [], 64, 0x0, 0x0, 0x0⟩,
   ⟨0x800100, [], 64, 0x0, 0x1FFFFF, 0x0⟩,
   ⟨0x800108, [], 32, 0x0, 0xFFFFFFFF, 0x0⟩,
   ⟨0x800200, [], 64, 0x0, 0x0, 0x0⟩,
   ⟨0x800208, [], 64, 0x0, 0x0, 0x0⟩,
   ⟨0x800210, [], 64, 0x0, 0x0, 0x0⟩,
   ⟨0x900000, [], 32, 0x40000000, 0x0, 0x0⟩,
   ⟨0x900004, [], 32, 0x640005, 0x3FF00FF, 0x0⟩,
   ⟨0x900008, [], 32, 0x0, 0x0, 0x17⟩,
   ⟨0x900010, [], 32, 0x0, 0xC00000FF, 0x0⟩]

/-- Part 5 of the register table. -/
def regTable5 : List RegInfo :=
  [⟨0x900018, [], 64, 0x0, 0x0, 0x0⟩,
   ⟨0x900020, [], 64, 0x20000, 0x70000, 0x0⟩,
   ⟨0x900040, [(7, 0x8)], 64, 0x0, 0x8000FFFFFFFFFFFF, 0x0⟩,
   ⟨0x900080, [], 64, 0x25800400040000, 0xFFFFF0FF000700FF, 0x0⟩,
   ⟨0x900088, [], 64, 0x0, 0x0, 0x4⟩,
   ⟨0x900090, [], 64, 0x0, 0x0, 0x0⟩,
   ⟨0x9000A0, [(2, 0x8)], 64, 0x0, 0xB000FFFFFFFFFFFF, 0x0⟩,
   ⟨0x9000C0, [], 64, 0x0, 0x4000FFFFFFFFFFFF, 0x0⟩,
   ⟨0x9000C8, [], 64, 0x0, 0xFFFFFFFF00000001, 0x0⟩,
   ⟨0x9000D0, [], 64, 0x0, 0x0, 0x0⟩,
   ⟨0x900200, [], 64, 0x0, 0x0, 0x0⟩,
   ⟨0x900208, [], 64, 0x0, 0x0, 0x0⟩,
   ⟨0x900210, [], 64, 0x0, 0x0, 0x0⟩,
   ⟨0x900218, [], 64, 0x0, 0x0, 0x0⟩,
   ⟨0x900220, [], 64, 0x0, 0x0, 0x0⟩,
   ⟨0x900228, [], 64, 0x0, 0x0, 0x0⟩,
   ⟨0x900230, [], 64, 0x0, 0x0, 0x0⟩,
   ⟨0xA00000, [], 32, 0x100, 0xFFFF, 0x0⟩,
   ⟨0xA00004, [], 32, 0x0, 0x0, 0x7⟩,
   ⟨0xA00100, [(8, 0x8)], 64, 0x0, 0x0, 0x0⟩,
   ⟨0xA00200, [], 64, 0x0, 0xFF, 0x0⟩,
   ⟨0xA00208, [], 64, 0x0, 0x0, 0x0⟩,
   ⟨0xA00210, [], 64, 0x0, 0x700FFFFFFFF, 0x0⟩,
   ⟨0xA00218, [], 64, 0x0, 0x0, 0x0⟩,
   ⟨0xA00300, [], 64, 0x0, 0x0, 0x0⟩]

/-- Part 6 of the register table. -/
def regTable6 : List RegInfo :=
  [⟨0xA00308, [], 64, 0x0, 0x0, 0x0⟩,
   ⟨0xA00310, [], 64, 0x0, 0x0, 0x0⟩,
   ⟨0xB00000, [], 64, 0x8F8001000001000, 0x0, 0x0⟩,
   ⟨0xB00008, [], 32, 0x4B010003, 0xFF01000F, 0x0⟩,
   ⟨0xB0000C, [], 32, 0x8, 0xF, 0x0⟩,
   ⟨0xB00010, [], 32, 0x304, 0xFF0F, 0x0⟩,
   ⟨0xB00014, [], 32, 0x0, 0x0, 0x6⟩,
   ⟨0xB00018, [], 64, 0x0, 0xFFF, 0x0⟩,
   ⟨0xB00040, [(8, 0x8)], 64, 0x0, 0x0, 0x0⟩,
   ⟨0xB00100, [(8, 0x8)], 64, 0x0, 0x1FFF0FFF, 0x0⟩,
   ⟨0xB00200, [], 64, 0x0, 0x0, 0x0⟩,
   ⟨0xB00208, [], 64, 0x0, 0x0, 0x0⟩,
   ⟨0xB00210, [], 64, 0x0, 0x0, 0x0⟩,
   ⟨0xB00218, [], 64, 0x0, 0x0, 0x0⟩,
   ⟨0xB00220, [], 64, 0x0, 0x0, 0x0⟩,
   ⟨0xB00228, [], 64, 0x0, 0x0, 0x0⟩,
   ⟨0xB00230, [], 64, 0x0, 0x0, 0x0⟩,
   ⟨0xB00238, [], 64, 0x0, 0x0, 0x0⟩,
   ⟨0xC00000, [], 64, 0x40B4F20000100000, 0x0, 0x0⟩,
   ⟨0xC00008, [], 32, 0xA, 0xFF, 0x0⟩,
   ⟨0xC0000C, [], 32, 0x0, 0x0, 0x6⟩,
   ⟨0xC00010, [], 64, 0x0, 0xFFFFFFFFFFF, 0x0⟩,
   ⟨0xC00018, [(2, 0x8)], 64, 0x0, 0x0, 0x0⟩,
   ⟨0xC00100, [(8, 0x8)], 64, 0x0, 0x0, 0x0⟩,
   ⟨0xC00200, [], 64, 0x0, 0x0, 0x0⟩]

/-- Part 7 of the register table. -/
def regTable7 : List RegInfo :=
  [⟨0xC00208, [], 64, 0x0, 0x0, 0x0⟩,
   ⟨0xC00210, [], 64, 0x0, 0x0, 0x0⟩,
   ⟨0xC00218, [], 64, 0x0, 0x0, 0x0⟩,
   ⟨0xD00000, [], 64, 0x40410099331F1F00, 0x0, 0x0⟩,
   ⟨0xD00008, [], 32, 0x0, 0x0, 0x3⟩,
   ⟨0xD00010, [], 64, 0x0, 0xFFFFFFFFFFFFFFFF, 0x0⟩,
   ⟨0xD00020, [(4, 0x8)], 64, 0x0, 0x0, 0x0⟩,
   ⟨0xD01000, [(64, 0x80)], 64, 0x20000000000, 0x1FFFE7FFF0000000, 0x0⟩,
   ⟨0xD01008, [(64, 0x80)], 64, 0x0, 0xFFFFFFFFE0000000, 0x0⟩,
   ⟨0xD01010, [(64, 0x80)], 64, 0x200050000000000, 0xFFFFFF8000000000, 0x0⟩,
   ⟨0xD01018, [(64, 0x80), (3, 0x8)], 64, 0x430000003F800000, 0xFFFFFFFFFFFFFFFF, 0x0⟩,
   ⟨0xD01030, [(64, 0x80)], 64, 0x1800000000000000, 0xFFC0FFFF00000000, 0x0⟩,
   ⟨0xD01038, [(64, 0x80)], 64, 0x15F90000000A020, 0xFFFFFFFFFFFFFFF0, 0x0⟩,
   ⟨0xD01040, [(64, 0x80)], 64, 0x1E01F4003C002017, 0xFFFFFFFFFFFFFFFF, 0x0⟩,
   ⟨0xD01048, [(64, 0x80)], 64, 0x0, 0x0, 0x0⟩,
   ⟨0xD01050, [(64, 0x80)], 32, 0x0, 0x0, 0x0⟩,
   ⟨0xD01058, [(64, 0x80)], 32, 0x0, 0x0, 0x0⟩,
   ⟨0xD01060, [(64, 0x80)], 64, 0x0, 0x0, 0x0⟩,
   ⟨0xD01068, [(64, 0x80)], 32, 0x0, 0x0, 0x0⟩,
   ⟨0xD00200, [], 64, 0x0, 0x0, 0x0⟩,
   ⟨0xD00208, [], 64, 0x0, 0x0, 0x0⟩,
   ⟨0xD00210, [], 64, 0x0, 0x0, 0x0⟩,
   ⟨0xD00218, [], 64, 0x0, 0x0, 0x0⟩,
   ⟨0xD00220, [], 64, 0x0, 0x0, 0x0⟩,
   ⟨0xD00228, [], 64, 0x0, 0x0, 0x0⟩]

/-- Part 8 of the register table. -/
def regTable8 : List RegInfo :=
  [⟨0xD00230, [], 64, 0x0, 0x0, 0x0⟩,
   ⟨0xE00000, [], 64, 0x404000800002400, 0x0, 0x0⟩,
   ⟨0xE00008, [], 32, 0x20, 0xF1, 0x0⟩,
   ⟨0xE0000C, [], 32, 0x0, 0x0, 0x3E⟩,
   ⟨0xE00010, [], 64, 0x0, 0x0, 0x0⟩,
   ⟨0xE00018, [], 64, 0x0, 0x3FFFFFFFFF, 0x0⟩,
   ⟨0xE00020, [], 32, 0x7000F, 0xFFEF, 0x0⟩,
   ⟨0xE00040, [(4, 0x10)], 32, 0x12, 0x1E, 0x0⟩,
   ⟨0xE00048, [(4, 0x10)], 32, 0x0, 0x0, 0x0⟩,
   ⟨0xE00100, [(8, 0x20)], 64, 0x0, 0x8FFF0000FFFFFFFF, 0x0⟩,
   ⟨0xE00108, [(8, 0x20)], 64, 0x0, 0xFFFFFFFFFFFFFFFF, 0x0⟩,
   ⟨0xE00110, [(8, 0x20)], 64, 0x0, 0xFFFFFFFFFFFFFFFF, 0x0⟩,
   ⟨0xE00118, [(8, 0x20)], 64, 0x0, 0xFFFFF83F00000000, 0x0⟩,
   ⟨0xE00200, [], 32, 0x0, 0x0, 0x1⟩,
   ⟨0xE00210, [(2, 0x8)], 64, 0x0, 0x0, 0x0⟩,
   ⟨0xE00300, [], 64, 0x0, 0x0, 0x0⟩,
   ⟨0xE00308, [], 64, 0x0, 0x0, 0x0⟩,
   ⟨0xE00310, [], 64, 0x0, 0x0, 0x0⟩,
   ⟨0xE00318, [], 64, 0x0, 0x0, 0x0⟩,
   ⟨0xE00320, [], 64, 0x0, 0x0, 0x0⟩,
   ⟨0xE00328, [], 64, 0x0, 0x0, 0x0⟩,
   ⟨0xE00330, [], 64, 0x0, 0x0, 0x0⟩,
   ⟨0xE00338, [], 64, 0x0, 0x0, 0x0⟩,
   ⟨0xE00340, [], 64, 0x0, 0x0, 0x0⟩,
   ⟨0xE00348, [], 64, 0x0, 0x0, 0x0⟩]

/-- Part 9 of the register table. -/
def regTable9 : List RegInfo :=
  [⟨0xE00350, [], 64, 0x0, 0x0, 0x0⟩,
   ⟨0xE00358, [], 64, 0x0, 0x0, 0x0⟩,
   ⟨0xF00000, [], 32, 0x0, 0x1, 0x0⟩,
   ⟨0xF00004, [], 32, 0x0, 0x0, 0x1E⟩,
   ⟨0xF00010, [], 64, 0x70880F04000000, 0xFFFFFFFFFF070000, 0x0⟩,
   ⟨0xF00018, [], 32, 0x5F55, 0xFFFF, 0x0⟩,
   ⟨0xF0001C, [], 32, 0x4010, 0xFFFF, 0x0⟩,
   ⟨0xF00040, [(8, 0x4)], 32, 0x0, 0x3F3F, 0x0⟩,
   ⟨0xF00100, [(6, 0x8)], 64, 0x0, 0x0, 0x0⟩,
   ⟨0xF00140, [(6, 0x8)], 64, 0x0, 0x0, 0x0⟩,
   ⟨0xF00180, [], 64, 0x0, 0x0, 0x0⟩,
   ⟨0xF00188, [], 64, 0x0, 0x0, 0x0⟩,
   ⟨0xF00200, [], 64, 0x0, 0x0, 0x0⟩,
   ⟨0xF00208, [], 64, 0x0, 0x0, 0x0⟩,
   ⟨0xF00210, [], 64, 0x0, 0x0, 0x0⟩,
   ⟨0xF00218, [], 64, 0x0, 0x0, 0x0⟩,
   ⟨0xF00220, [], 64, 0x0, 0x0, 0x0⟩,
   ⟨0xF00228, [], 64, 0x0, 0x0, 0x0⟩,
   ⟨0xF00230, [], 64, 0x0, 0x0, 0x0⟩,
   ⟨0x2000000, [(8, 0x100000), (128, 0x40)], 64, 0x0, 0xFFFFFFFFFFFFF000, 0x0⟩,
   ⟨0x2000008, [(8, 0x100000), (128, 0x40)], 64, 0x0, 0xFFFFFFFFFFFFF000, 0x0⟩,
   ⟨0x2000010, [(8, 0x100000), (128, 0x40)], 32, 0x60600, 0x801F1FFF, 0x0⟩,
   ⟨0x2000014, [(8, 0x100000), (128, 0x40)], 32, 0x0, 0x0, 0x4⟩,
   ⟨0x2000018, [(8, 0x100000), (128, 0x40)], 64, 0x0, 0x0, 0x0⟩]

/-- Every register of BAR0 that the chapters lay out. -/
def regTable : List RegInfo :=
  regTable0 ++ regTable1 ++ regTable2 ++ regTable3 ++ regTable4 ++ regTable5 ++ regTable6 ++ regTable7 ++ regTable8 ++ regTable9

/-- `o` is an offset of the row of registers. -/
def regCovers (r : RegInfo) (o : Nat) : Bool :=
  match r.dims with
  | [] => o == r.off
  | [(c, s)] => decide (r.off ≤ o) && (o - r.off) % s == 0 && decide ((o - r.off) / s < c)
  | (c, s) :: (c', s') :: _ =>
    decide (r.off ≤ o) && decide ((o - r.off) / s < c) && (o - r.off) % s % s' == 0
      && decide ((o - r.off) % s / s' < c')

/-- The first row of a table that covers offset `o`. -/
def findReg : List RegInfo → Nat → Option RegInfo
  | [], _ => none
  | r :: rs, o => if regCovers r o then some r else findReg rs o

/-- The register at offset `o`, if the map has one. -/
def regInfo (o : Nat) : Option RegInfo := findReg regTable o

/-- The reset value of the register at offset `o`; EVT_SRC of codec slot n resets to 0x100 + n (R299). -/
def regReset (o : Nat) : BitVec 64 :=
  match regInfo o with
  | none => 0
  | some r =>
    if r.off = VCC_SLOT_CFG 0 then BitVec.ofNat 64 (r.reset + (0x100 + (o - r.off) / 0x80) * 2 ^ 28)
    else BitVec.ofNat 64 r.reset

end Sys2Proof.Machine
end

