-- ==== Sys2Proof/Machine/State.lean ====
section
/-!
DEFINITION. The state of the block as plain data: every register of BAR0 in `regs`, and beside it what the rules give
the machine that has no register. Where the spec names no reset value the choice is log 5 (registers) or log 6.
-/
namespace Sys2Proof.Machine

/-- No command of this block stops the machine: every effect the spec describes, a fault of a step included, is a next
state. The one constructor is raised by no meaning; stopping there would be safe. -/
inductive Fault where
  | unused
  deriving DecidableEq, Repr

/-- `notModelled` is answered only by an arm of `exec` whose command has no meaning yet; stopping there is safe. -/
inductive Refusal where
  | notModelled (mnemonic : String)
  deriving DecidableEq, Repr

/-- The events of the manual (R489, R192, R217, R249, R272, R301, R333, R348, R374, R403, R424, R449, R472). -/
inductive Ev where
  | stateChange | capacityChange
  | kvLow | kvExhausted
  | sloAtRisk | sloMissed | reqPaused | reqResumed | draftDisabled | reqEnded
  | tbStep | tbHoldover | tbLock | tickOverrun | estExceeded | plcFallback
  | memUe | stackHot | retrain | stackDegraded | stackLost
  | vccDamage | vccDrop | vccReanchor
  | hostLinkDegraded | hostLinkErr | qpError | portLink
  | edcLockBreak | edcRestoreBad
  | clkCoast | throttle | sensorDisagree | sensorSuspect | thetaRise | flowLost | flowRestored | thermalTrip
  | thermalLife
  | engineHealth | checksumUnresolved | bistDone | bistFail
  | partChange | scrubDone | window | idFail
  | fwTrial | fwUpdateFail | fwFallback
  | helmContest | helmLapse | followerHeld | dutyChange | dutyActive | fenced | join | logShort | logPeerLag
  | counterSat (source : Nat)
  deriving DecidableEq, Repr

/-- An event raised, with a unit where one is named (partition, request, hot spot, ...) and its stamp. -/
structure EvRec where
  ev : Ev
  unit : Nat
  stamp : Stamp
  deriving DecidableEq, Repr

/-- A RoCEv2 packet sent: its kind as in `RocePkt.op`, PSN, region key, address, length of the message, immediate data and
bytes (R325, R326; log 23). -/
structure RoceTx where
  op : Nat
  psn : Nat
  rkey : Nat := 0
  raddr : Nat := 0
  len : Nat := 0
  imm : Option Nat := none
  data : List Byte := []
  deriving DecidableEq, Repr

/-- What leaves the module through its pins. -/
inductive Out where
  /-- An MSI-X message of a function's vector (R313, R339). -/
  | msix (func vec : Nat)
  /-- A register or memory read answered with bytes (R306, R340, R408). -/
  | readData (data : List Byte)
  /-- A read completed as a poisoned TLP (R269). -/
  | poisoned
  /-- Unsupported Request (R305, R307, R329). -/
  | unsupported
  /-- Completer Abort (R329). -/
  | abort
  /-- An AER report of a violation class (R329). -/
  | aer (cls : Nat)
  /-- An access fault on an ACX core (R269). -/
  | acxFault (core : Nat)
  /-- An Ethernet frame sent on a port, with when it leaves (R282, R323, R459). -/
  | frame (port : Nat) (dst : BitVec 48) (data : List Byte) (leaves : Option Stamp)
  /-- A RoCEv2 packet sent on a port to a remote QP, with when it leaves (R323, R325, R326). -/
  | roce (port : Nat) (rqp : Nat) (pkt : RoceTx) (leaves : Option Stamp)
  /-- An SMBus read block (R495, R447). -/
  | smbus (data : List Byte)
  /-- A PTP message sent on a port (R328). -/
  | ptp (port : Nat) (m : PtpMsg)
  /-- A PTM answer with device time (R302). -/
  | ptm (time : Stamp)
  deriving DecidableEq, Repr

/-- The header of a tile (R89); rows and row bytes are held as counts. -/
structure TileHdr where
  stamp : Stamp
  tick : Nat
  rowMask : Nat
  rowBase : Nat
  tileIndex : Nat
  format : Nat
  place : Nat
  stream : Nat
  rows : Nat
  rowBytes : Nat
  last : Bool
  pad : Bool
  deriving DecidableEq, Repr

/-- What the machine keeps with a tile of attention (R180, R182, R185; log 9): the request's place in the step's
segment list plus 1, KV head, segment, first key, keys that are not padding, the (batch row, query head) of each tile
row, query heads of a batch row, whether it is the last tile of its row tile or of its segment, and whether it is a piece
of a window row that in.win split (R159); with the row of its tensor that tile row 0 is, counted over every dimension above
DIM0, and the rows that one index of the outermost dimension covers (R92). -/
structure TileInfo where
  grp : Nat
  head : Nat
  seg : Nat
  key0 : Nat
  keys : Nat
  pairs : List (Nat × Nat)
  heads : Nat
  last : Bool
  split : Bool
  flat : Nat
  inner : Nat
  deriving DecidableEq, Repr

/-- A tile: header, rows of element codes with their scale bytes (R48), and the row-statistics plane of (m, l) as FP32
codes (R184). -/
structure Tile where
  hdr : TileHdr
  rows : List Row
  stats : List (Nat × Nat)
  info : TileInfo
  deriving DecidableEq, Repr

/-- A station instruction with its operands captured at issue (R76): index, opcode, fields, descriptors and its place
in the program order of the step. -/
structure StInsn where
  idx : Nat
  op : Nat
  w : StaW
  dA : BitVec 256
  dB : BitVec 256
  no : Nat
  deriving DecidableEq, Repr

/-- A work item of an MX instruction (R145, R182): its place by row block, column block and segment of K, the engine that runs
it and whether that engine came from the fallback list (R238), the engines whose attempts failed (R150), the formats and rows of its two operands, the columns whose weights R58 calls
unpredictable, and the codes of its result once an attempt stands. -/
structure WorkItem where
  rb : Nat
  cb : Nat
  seg : Nat
  engine : Nat
  cool : Bool
  used : List Nat
  fa : Nat
  fb : Nat
  xs : List Row
  ys : List Row
  bad : List Nat
  res : Option (List (List Nat))
  deriving DecidableEq, Repr

/-- An output tile that MX forms once its items have passed (R147): the tile without its values, and the first row and
column of the items' result that it shows. -/
structure MxJob where
  tile : Tile
  row0 : Nat
  col0 : Nat
  deriving DecidableEq, Repr

/-- A station instruction in progress: units done, tiles read in place under KEEP, sources read to their end, tiles read
and not yet used, tiles formed and not yet pushed, tiles formed in all, parameters and mask read at its start, the
engine list of an MX instruction, whether that is the fallback list (R238), the engines whose health has changed since
(R383), whether its last unit is
done, the work items and tiles of an MX instruction that are not pushed yet, and the items dealt so far (R145). -/
structure Active where
  insn : StInsn
  pos : Nat
  aPos : Nat
  bPos : Nat
  aEnd : Bool
  bEnd : Bool
  bufA : List Tile
  bufB : List Tile
  outq : List Tile
  made : Nat
  par : List Nat
  mask : List Nat
  engines : List Nat
  cool : Bool
  skip : List Nat
  fin : Bool
  items : List WorkItem
  jobs : List MxJob
  dealt : Nat
  deriving DecidableEq, Repr

/-- The scoreboard's note of one access to a handle (R96): program order, station, whole-handle or per-tile with its
tile shape, the tiles or pages done, and whether all are. -/
structure SbEntry where
  no : Nat
  handle : Nat
  write : Bool
  whole : Bool
  shape : List Nat
  touched : List Nat
  done : Bool
  deriving DecidableEq, Repr

/-- A row-map entry (R201); `dropped` tells that the row is bound to no live request (R202, R204). -/
structure RowEnt where
  bound : Bool
  kind : Nat
  req : Nat
  token : Nat
  pos : Nat
  kvlen : Nat
  dropped : Bool
  deriving DecidableEq, Repr

/-- A piece of a row held for a persistent tensor until commit (R95, R104): handle, format, first element, batch row,
stamp, codes and scales. -/
structure HeldStore where
  handle : Nat
  fmt : Nat
  elem : Nat
  row : Nat
  stamp : Stamp
  data : Row
  deriving DecidableEq, Repr

/-- A request of the step and its segments (R179): index, first row, rows, largest KV length, pages that cover it, keys of each
segment, and the core of each segment (R239). -/
structure SegInfo where
  req : Nat
  firstRow : Nat
  rows : Nat
  maxKv : Nat
  pages : Nat
  keys : List Nat
  cores : List Nat
  deriving DecidableEq, Repr

/-- A row that out.append has staged (R173, R174): KV handle, batch row, and its K heads and V heads in the tensor's format. -/
structure StagedRow where
  handle : Nat
  row : Nat
  data : Row
  deriving DecidableEq, Repr

/-- An open step (R101): the index of its STEP, estimate, cycle count at admission, row map, its rows and segments, the
flag bits of the status record in their places, the next program order number, scoreboard, held stores, the offers of
kv.accept by handle and batch row, the rows staged, scratch bytes and stamps by handle (none where nothing was
written), statuses reported, the index of the out.commit that has issued, its source once OUT has reached it, EST_OVER,
the frames that aliases resolved to, the codec buffers held as (slot, buffer) (R290), and the handles of persistent tensors that
the host or a peer has written while the step is open (R98). -/
structure StepSt where
  idx : Nat
  est : Nat
  admitCyc : Nat
  rowDesc : BitVec 256
  rows : List RowEnt
  segs : List SegInfo
  flags : Nat
  nextNo : Nat
  sb : List SbEntry
  stores : List HeldStore
  offers : List (Nat × List (Nat × Int))
  staged : List StagedRow
  scratch : SMap (SMap (Option Byte))
  scratchStamp : SMap (Option Stamp)
  statuses : List (Nat × Nat)
  commitIdx : Option Nat
  commitAt : Option Nat
  estOver : Bool
  aliases : List (Nat × Nat)
  holds : List (Nat × Nat)
  wild : List Nat
  deriving DecidableEq, Repr

/-- The publish window of the last commit (R103): Tc, the EDC source, the statuses to post at its end (R494), the
requests cancelled within it, and the requests that the step bound. -/
structure Pub where
  tc : Stamp
  source : Nat
  statuses : List (Nat × Nat)
  late : List (Nat × Nat)
  bound : List Nat
  deriving DecidableEq, Repr

/-- A loop of the loop stack (R128). -/
structure LoopFrame where
  start : Nat
  stop : Nat
  count : Nat
  ended : Nat
  sd : Nat
  deriving DecidableEq, Repr

/-- What a sequencer held at STEP waits with (R101, R229). -/
structure HeldStep where
  idx : Nat
  desc : BitVec 256
  est : Nat
  deriving DecidableEq, Repr

/-- A partition as its sequencers, stations and the tick plan see it (R74, R75, R82, R113, R229); `stuckAt` is the cycle count
since when nothing of its open step can move (R87), `scratchSram` the bytes of SRAM reserved for scratch and `scratchAt` the DRAM
reserved for the rest, as (address, bytes) (R240). -/
structure Part where
  loaded : Bool
  imageBytes : List Byte
  words : List (BitVec 128)
  streamTab : List (BitVec 64)
  scratchBytes : Nat
  scratchSram : Nat
  scratchAt : Option (Nat × Nat)
  slotSpace : Nat
  pc : Nat
  running : Bool
  haltNext : Bool
  resumePc : Nat
  sreg : SMap (BitVec 64)
  preg : BitVec 8
  dreg : SMap (BitVec 256)
  loops : List LoopFrame
  held : Option HeldStep
  lastEst : Option Nat
  waitMask : Option Nat
  step : Option StepSt
  lastStatus : BitVec 64
  queues : SMap (List StInsn)
  act : SMap (Option Active)
  streams : SMap (List Tile)
  pub : Option Pub
  stuckAt : Option Nat
  moveCyc : Nat
  calm : Nat
  limit : Option Int
  est : Nat
  slots : Nat
  used : Nat
  deferred : Nat
  overrunPosted : Bool
  carrying : Nat
  joining : Nat
  leaving : Nat
  destroying : Nat
  power : BitVec 64
  thermal : BitVec 64
  recSel : BitVec 64
  recData : BitVec 256
  vfDown : Bool
  deriving DecidableEq, Repr

/-- A partition with no image loaded and no plan. -/
def partReset : Part :=
  { loaded := false, imageBytes := [], words := [], streamTab := [], scratchBytes := 0, scratchSram := 0, scratchAt := none, slotSpace := 0
    pc := 0, running := false, haltNext := false, resumePc := 0, sreg := [], preg := 1, dreg := [], loops := []
    held := none, lastEst := none, waitMask := none, step := none, lastStatus := 0, queues := [], act := []
    streams := [], pub := none, stuckAt := none, moveCyc := 0, calm := 0, limit := none, est := 0, slots := 0, used := 0, deferred := 0
    overrunPosted := false, carrying := 0, joining := 0, leaving := 0, destroying := 0, power := 0, thermal := 0
    recSel := 0, recData := 0, vfDown := false }

/-- A registered tensor (R94, R95, R164, R165, R243, R289, R317). `slot` names the codec slot of a frame tensor, with
buffer k as k, its error map as 8 + k, and the slot's stable handle of R290 as 16; `digest` is the SHA-512 of a Flask object's
plaintext, as it loaded (R421), as a number; `holder` is the cluster whose SRAM holds its copy, `moved` the bytes of a copy in
building (R241), and `readers` has a bit for each operation class of R151 that has read it (R243). -/
structure Tensor where
  part : Nat
  cls : Nat
  size : Nat
  writable : Bool
  flask : Bool
  object : Nat
  home : Nat
  stamp : Stamp
  kvFormat : Nat
  heads : Nat
  width : Nat
  hint : Nat
  reason : Nat
  declines : Nat
  level : Nat
  access : Nat
  lost : Bool
  slot : Option (Nat × Nat)
  blocks : List (Nat × Nat)
  lowArmed : Bool
  digest : Nat
  holder : Option Nat
  moved : Nat
  readers : Nat
  deriving DecidableEq, Repr

/-- A request entry: the eight words of R195, and what the table and the Steward hold beside them: paused by the
Steward, a mark of a pause by the Steward (1), a resume (2), a pause by the host (3) or a RETIRE that waits for pages (4)
(R196, R207), and whether a latency sample has been taken (R208). -/
structure ReqEnt where
  w0 : BitVec 64
  w1 : BitVec 64
  w2 : BitVec 64
  w3 : BitVec 64
  w4 : BitVec 64
  w5 : BitVec 64
  w6 : BitVec 64
  w7 : BitVec 64
  bySteward : Bool
  mark : Nat
  sampled : Bool
  deriving DecidableEq, Repr

/-- A FREE entry (R411: written 0). -/
def reqFree : ReqEnt :=
  { w0 := 0, w1 := 0, w2 := 0, w3 := 0, w4 := 0, w5 := 0, w6 := 0, w7 := 0
    bySteward := false, mark := 0, sampled := false }

/-- Health of an engine (R382): 0 usable, 1 cool-only, 2 retired; limit bin; excluded classes. -/
structure Health where
  state : Nat
  limit : Nat
  excluded : Nat
  deriving DecidableEq, Repr

/-- An open health window (R381): when it opened and its reports' bins, classes and signatures. -/
structure HealthWin where
  openedAt : Stamp
  reports : List (Nat × Nat × Nat)
  deriving DecidableEq, Repr

/-- A tenant record queue (R414). -/
structure TvQueue where
  recs : List (BitVec 256)
  lost : Bool
  deriving DecidableEq, Repr

/-- A mirror ahead of a retraining (R265): partition, whether it is a KV page, its page-table entry or its handle, its
first address and bytes, the address of the copy, and the bytes copied so far. -/
structure Mirror where
  part : Nat
  page : Bool
  key : Nat
  home : Nat
  len : Nat
  addr : Nat
  built : Nat
  deriving DecidableEq, Repr

/-- A DRAM stack beside its registers (R263 to R270): temperature at its last training (none
until a first reading after BOOT), its place in the order of falling due,
the tick it trains in, since when it has been 5 °C above LIMIT_C, whether it has trained since BOOT, hard repairs that wait,
stamps of its remaps of the last 24 h, whether its contents wait to be dealt with after its loss, whether it trains at the
next lower rate, mirrors built ahead of its training, stamps of its link retries of the last second, and the count of its error
check and scrub as the last training read it (R255). -/
structure StackSt where
  trainTemp : Option Int
  dueNo : Option Nat
  trainTick : Option Nat
  hotSince : Option Stamp
  again : Bool
  repairs : Nat
  remaps : List Stamp
  offline : Bool
  lowered : Bool
  mirrors : List Mirror
  retries : List Stamp
  ecs : Nat
  deriving DecidableEq, Repr

/-- A stack that no training is planned for. -/
def stackReset : StackSt :=
  { trainTemp := none, dueNo := none, trainTick := none, hotSince := none, again := false, repairs := 0, remaps := []
    offline := false, lowered := false, mirrors := [], retries := [], ecs := 0 }

/-- A BAR2 or ACX access held while its stack trains (R266), with the spans (address, bytes) it covers. -/
structure HeldAcc where
  acx : Option Nat
  part : Option Nat
  pieces : List (Nat × Nat)
  acc : MemAcc
  deriving DecidableEq, Repr

/-- The EDC's retention registers (R345). -/
structure Retention where
  cfg : SMap (BitVec 64)
  mask : SMap (BitVec 64)
  pend : SMap (BitVec 64)
  thresh : SMap (BitVec 64)
  crc : Nat
  deriving DecidableEq, Repr

/-- A completion entry (R315) without FLAGS, which the write adds. -/
structure CqEnt where
  typ : Nat
  status : Nat
  tag : Nat
  value : Nat
  stamp : Stamp
  payload : Nat
  deriving DecidableEq, Repr

/-- A record that waits for room in a completion ring (R312). -/
structure RingWait where
  entry : CqEnt
  async : Bool
  since : Stamp
  deriving DecidableEq, Repr

/-- A command queue beside its registers (R308 to R313). `func` is 0 for the PF, n for VF n. `order` are the commands
executed whose completions are not written yet, in submission order, from the oldest that is posted and not complete
(R310, R326). `ring` are the entries of its submission ring as the device reads them from host memory (R314). -/
structure Queue where
  func : Nat
  ring : SMap (BitVec 512)
  sqTail : Nat
  cqHead : Nat
  phase : Bool
  waiting : List RingWait
  order : List (Nat × Option CqEnt)
  lostNext : Bool
  deriving DecidableEq, Repr

/-- A queue at reset. -/
def queueReset : Queue :=
  { func := 0, ring := [], sqTail := 0, cqHead := 0, phase := true, waiting := [], order := [], lostNext := false }

/-- An output buffer of a codec slot (R289): 0 FREE, 1 WRITING, 2 READY; a step that holds it lists it (HELD). `sram` are the
bytes that it takes of the partition's SRAM, 0 where it lies in DRAM (R288). -/
structure FrameBuf where
  state : Nat
  handle : Nat
  mapHandle : Nat
  seq : Nat
  home : Nat
  mapHome : Nat
  sram : Nat
  deriving DecidableEq, Repr

/-- A frame of a slot (R285), or a sensor group (R297): its extended RTP timestamp, the timeline that it belongs to (R286), the
arrival of its first packet and of the first later one, whether no packet before it is awaited, its marker packet, whether
packets are missing, whether a random access point starts in it, whether it is complete, whether it timed out, the last
parameter set in it (valid or not), and its packets by sequence number. -/
structure FrameAsm where
  ext : Nat
  epoch : Nat
  firstAt : Stamp
  laterAt : Option Stamp
  head : Bool
  marker : Option Nat
  gap : Bool
  starts : Bool
  done : Bool
  timeout : Bool
  set : Option Bool
  pkts : List (Nat × List Byte)
  deriving DecidableEq, Repr

/-- The planes of a 4:2:0 picture. -/
structure Picture where
  luma : List (BitVec 10)
  cb : List (BitVec 10)
  cr : List (BitVec 10)
  deriving DecidableEq, Repr

/-- The frame that an encode slot codes (R281 to R283): its submission, the samples read at the start of coding, the CTUs coded,
the CTU that the motion window stands at, and the bytes loaded for each reference since the frame began. -/
structure Coding where
  handle : Nat
  stamp : Stamp
  source : List Byte
  coded : Nat
  window : Option Nat
  loaded : Nat
  deriving DecidableEq, Repr

/-- A codec slot beside its registers (R281 to R298): buffers, alias handle, stamp anchor as (timeline, extended RTP timestamp,
device time), the timeline that packets extend, last extended RTP timestamp, the last sender report (timeline, NTP time in ns,
extended RTP time, arrival), locked SSRC and its last packet; the frames of a decode slot that have not committed, and the last 64
that have, as (extended timestamp, last sequence number); a sensor slot's next sequence number, packets that wait with their
extended timestamps and arrivals, the group being gathered and those complete; frame number, submissions not coded, the one being
coded, frames coded since the last IRAP picture, the stamp of the next submission, the previous output picture, parameter error
and whether a valid set has come since, damaged reference, bitstream ring, RTP sequence number sent, reference pictures, and the
spans of memory taken. -/
structure Slot where
  bufs : List FrameBuf
  latest : Nat
  anchor : Option (Nat × Nat × Nat)
  epoch : Nat
  lastExt : Option Nat
  sr : Option (Nat × Nat × Nat × Stamp)
  ssrc : Option Nat
  lastPkt : Stamp
  frames : List FrameAsm
  ends : List (Nat × Nat)
  nextSeq : Option Nat
  waiting : List (RtpPkt × Nat × Stamp)
  group : Option FrameAsm
  ready : List FrameAsm
  seq : Nat
  subs : List (Nat × Stamp)
  coding : Option Coding
  sinceIrap : Nat
  subStamp : Stamp
  prev : Option Picture
  param : Bool
  setOk : Bool
  refDamaged : Bool
  bitstream : List (List Byte)
  rtpSeq : Nat
  disabling : Bool
  refs : List Nat
  mem : List (Nat × Nat)
  deriving DecidableEq, Repr

/-- A slot that is not enabled. -/
def slotReset : Slot :=
  { bufs := [], latest := 0, anchor := none, epoch := 0, lastExt := none, sr := none, ssrc := none, lastPkt := 0, frames := []
    ends := [], nextSeq := none, waiting := [], group := none, ready := [], seq := 0, subs := [], coding := none, sinceIrap := 0
    subStamp := 0, prev := none, param := false, setOk := false, refDamaged := false, bitstream := [], rtpSeq := 0
    disabling := false, refs := [], mem := [] }

/-- A send that a QP has posted and whose acknowledgement is awaited (R325, R326): its queue, its number in the queue's
order, TAG, kind, first PSN and PSNs, local tensor and offset, remote address and key, bytes, and retries. `rnr` tells
that the peer answered that it was not ready. -/
structure Posted where
  queue : Nat
  no : Nat
  tag : Nat
  op : Nat
  psn : Nat
  npsn : Nat
  handle : Nat
  off : Nat
  raddr : Nat
  len : Nat
  rkey : Nat
  imm : Nat
  data : List Byte
  sentAt : Stamp
  retries : Nat
  rnrRetries : Nat
  rnr : Bool
  deriving DecidableEq, Repr

/-- A receive buffer that a QP has posted (R317). -/
structure RecvBuf where
  handle : Nat
  off : Nat
  len : Nat
  deriving DecidableEq, Repr

/-- A queue pair (R327): 0 RESET, 1 INIT, 2 RTR, 3 RTS, 4 ERROR. `got` are
the bytes received of the message in progress, `wr` key, address and length of a WRITE in progress, `rate` is in
1/(100 · 2^32) of the port rate, changed last at `rateAt`. -/
structure Qp where
  part : Nat
  port : Nat
  state : Nat
  mtu : Nat
  remoteQp : Nat
  sendPsn : Nat
  recvPsn : Nat
  gid : BitVec 128
  tclass : Nat
  sends : List Posted
  recvs : List RecvBuf
  got : Nat
  wr : Option (Nat × Nat × Nat)
  rate : Nat
  rateAt : Stamp
  deriving DecidableEq, Repr

/-- A memory region (R317). -/
structure MemRegion where
  part : Nat
  handle : Nat
  read : Bool
  write : Bool
  deriving DecidableEq, Repr

/-- A hot spot beside its register (R359): since when its sensors disagree, and since when each has been far from the
model. -/
structure HotSpot where
  since : Stamp
  diodeFar : Stamp
  ringFar : Stamp
  deriving DecidableEq, Repr

/-- Clock, power and coolant conditions beside their registers (R353, R357, R363, R366 to R368, R371): `pStatic` was
measured at the hottest ruling temperature `pStaticAt`, `theta` is in 10^-12 K/W, `pulseRun` are the stamps of the pulses since the last gap, newest first, `turns` the turning points that the
rainflow count holds, newest first, `lifeMark` the marks of LIFE_PPM that have been passed, `clocked` the clusters whose clock
ran in each of the last 100 ms, newest first, one bit each (R352, R372). -/
structure ThermSt where
  lastRaise : Stamp
  lowSince : Option Stamp
  pStatic : Nat
  pStaticAt : Int
  theta : Nat
  thetaArmed : Bool
  lastPulse : Stamp
  pulseRun : List Stamp
  deltaLowSince : Option Stamp
  deltaGoodSince : Option Stamp
  lostAt : Option Stamp
  disWindowAt : Stamp
  turns : List Int
  lifeMark : Nat
  cyclesWrittenAt : Stamp
  measure : Bool
  xoLost : Bool
  refLost : Bool
  clocked : List (BitVec 8)
  deriving DecidableEq, Repr

/-- Thermal conditions at auxiliary start. -/
def thermReset : ThermSt :=
  { lastRaise := 0, lowSince := none, pStatic := 0, pStaticAt := 0, theta := 50000000000, thetaArmed := true, lastPulse := 0
    pulseRun := [], deltaLowSince := none, deltaGoodSince := none, lostAt := none, disWindowAt := 0, turns := []
    lifeMark := 0, cyclesWrittenAt := 0, measure := false, xoLost := false, refLost := false, clocked := [] }

/-- The PTP clock (R328): the best master announced at each port, the sequence number of the last Sync, a Sync that waits for
its Follow_Up as (sequence, arrival), the last Sync's t2 − t1, the delay request on its way as (sequence, t3 or t1), a Pdelay_Resp
that waits for its follow-up as (sequence, t2, arrival), the sequence number of the next request, and the delay measured. -/
structure PtpSt where
  masters : SMap (Option (BitVec 112))
  lastSync : Option (BitVec 16)
  sync : Option (BitVec 16 × Stamp)
  diff : Option Int
  req : Option (BitVec 16 × Stamp)
  resp : Option (BitVec 16 × Int × Stamp)
  nextSeq : BitVec 16
  delay : Option Int
  deriving DecidableEq, Repr

/-- A PTP clock that has heard nothing. -/
def ptpReset : PtpSt :=
  { masters := [], lastSync := none, sync := none, diff := none, req := none, resp := none, nextSeq := 0, delay := none }

/-- The timebase beside its registers (R220 to R223): samples in a row within the window, the running PTP estimate, outliers
in a row, the last PTP sample, the last accepted edge, the whole second at the last step and the edges accepted since, and the
PTP clock. -/
structure TimeSt where
  inWindow : Nat
  ptpEst : Option Int
  outliers : Nat
  lastSample : Stamp
  lastEdge : Option Stamp
  base : Nat
  edges : Nat
  ptp : PtpSt
  deriving DecidableEq, Repr

/-- A window scrub (R410): partition, window, first address, bytes. -/
structure Scrub where
  part : Nat
  win : Nat
  base : Nat
  len : Nat
  deriving DecidableEq, Repr

/-- A journal record (R437) without its framing. -/
structure JRec where
  typ : Nat
  fmt : Nat
  key : Nat
  del : Bool
  seq : Nat
  stamp : Stamp
  data : List Nat
  deriving DecidableEq, Repr

/-- A journal area (R440): its records in order, and the epoch of its checkpoint mark. -/
structure JArea where
  recs : List JRec
  epoch : Option Nat
  deriving DecidableEq, Repr

/-- A boot record (R429). -/
structure BootRec where
  seq : Nat
  active : Nat
  trial : Bool
  tries : Nat
  crcOk : Bool
  deriving DecidableEq, Repr

/-- An image region (R425): the bundle it was shipped with, or the bytes written since. -/
structure Region where
  shipped : Bool
  bytes : SMap (Option Byte)
  deriving DecidableEq, Repr

/-- Firmware beside its registers (R426, R429, R430, R443, R447). `update`: 0 none, 1 to 5 the step of R443
in progress, 6 and 7 its way back (log 16); `jfmt`
and `oldFmt` are the journal formats of the running bundle and, while it is on trial, of the previous one (R444). -/
structure FwSt where
  rec0 : BootRec
  rec1 : BootRec
  regionA : Region
  regionB : Region
  running : Nat
  imgN : Nat
  imgS : Nat
  imgL : Nat
  update : Nat
  target : Nat
  resetAt : Stamp
  fwSvn : Nat
  jrnEpoch : Nat
  rcv : SMap Byte
  rcvLen : Nat
  rcvActive : Bool
  jfmt : Nat
  oldFmt : Option Nat
  deriving DecidableEq, Repr

/-- A Steward as the helm latch sees it (R450, R451). -/
structure StewSt where
  up : Bool
  beat : Stamp
  contests : List Stamp
  deriving DecidableEq, Repr

/-- A vote window (R462): when it opened, and the managers counted, one bit each. -/
structure VoteWin where
  openedAt : Stamp
  mgrs : Nat
  deriving DecidableEq, Repr

/-- A record that a log peer has not acknowledged (R467). -/
structure Unacked where
  lsn : Nat
  firstAt : Stamp
  sentAt : Stamp
  deriving DecidableEq, Repr

/-- A tick plan of a partition (R229): its limit, slots and estimate. -/
structure Plan where
  limit : Option Int
  slots : Nat
  est : Nat
  deriving DecidableEq, Repr

/-- What the follower has of the helm holder's state (R25, R226): health windows, pause marks of requests, boundaries without
a request at risk, and tick plans, by partition. -/
structure HelmMirror where
  windows : SMap (Option HealthWin)
  marks : SMap Nat
  calm : SMap Nat
  plans : SMap (Option Plan)
  deriving DecidableEq, Repr

/-- Nothing mirrored. -/
def mirrorReset : HelmMirror := { windows := [], marks := [], calm := [], plans := [] }

/-- Helm, duty pair, membership and input log beside their registers (R450 to R469); `ringGib` is the size of the log
ring as the last BOOT applied it (R470), `last` the Steward that held the helm before it fell free, `mirror` what the
follower has of the holder's state (R25, R452), `answers` the QUERY frames of the current ms of a port (R460), `frags` the
fragments of records not yet whole. -/
structure HelmSt where
  n : StewSt
  s : StewSt
  freeSince : Option Stamp
  seqDone : Bool
  fenceHeld : Bool
  joinPending : Bool
  holdPending : Bool
  resumePending : Bool
  holdInForce : Bool
  windows : SMap (Option VoteWin)
  keys : SMap (Option (BitVec 256))
  log : List LogRec
  lu3 : List LogRec
  peers : SMap (List Unacked)
  frags : List LogFrame
  answers : SMap (Nat × Nat)
  takeover : Option Stamp
  ringGib : Nat
  last : Nat
  mirror : HelmMirror
  deriving DecidableEq, Repr

/-- A self-test in progress (R396): cluster 0 to 7, or 8 + i for shared block i of BIST_SHARED; its kind and start. -/
structure BistRun where
  block : Nat
  kind : Nat
  startedAt : Stamp
  deriving DecidableEq, Repr

/-- Self-test beside its registers (R385, R396, R398): clusters queued with their kind, the test that runs, shared blocks
queued, MAINT asked for and in force from the last boundary, MAINT_EXIT waiting, clusters that passed logic BIST and
calibration in this MAINT, clusters drained, and those that go back at the next boundary. -/
structure BistSt where
  queue : List (Nat × Nat)
  run : Option BistRun
  sharedQueue : List Nat
  enterPending : Bool
  exitPending : Bool
  noAdmit : Bool
  passedLogic : Nat
  passedCalib : Nat
  drained : Nat
  returning : Nat
  deriving DecidableEq, Repr

/-- Power and boot as Lantern holds them (R12, R369, R434, R477, R478, R483): `kept` are the causes and stamps of state changes
whose records wait for BOOT, `railLatch` that a rail fault has PWR_EN treated as deasserted,
`pfBar2` is the size of the PF's BAR2 as the host last set it, 2^(34 + it) bytes (R302, R306), `fresh` that no BOOT has replayed the journal since auxiliary start. `phase`: 0 none, 1 Trailhead and Stewards
started, 2 self-test passed, 3 stacks trained, 4 journal replayed, 5 Flask reloaded. -/
structure PowerSt where
  phase : Nat
  upAt : Stamp
  railLatch : Bool
  railOffSeen : Bool
  railOffAt : Stamp
  flushBy : Option Stamp
  kept : List (Nat × Stamp)
  straps : BitVec 5
  alert : Bool
  vfEnabled : Bool
  vfBar2 : Nat
  pfBar2 : Nat
  fresh : Bool
  deriving DecidableEq, Repr

/-- Settings that take effect at the next tick boundary (R224, R260, R323, R332, R372, R271), and the egress mode in force, which
NET_CTRL.EGRESS_POOLED sets at each boundary. -/
structure Deferred where
  period : Option Nat
  shares : SMap (Option Nat)
  netPart : SMap (Option Nat)
  egress : Bool
  deriving DecidableEq, Repr

/-- The state of the block. -/
structure State where
  /-- Device time (R219). -/
  now : Stamp
  /-- 1/1000 ACLK cycles since reset (the model's own clock for R87, R232). -/
  cyc : Nat
  /-- Index of the next free value (log 3). -/
  free : Nat
  regs : SMap (BitVec 64)
  pending : List Instr
  out : List Out
  events : List EvRec
  hostMem : SMap Byte
  parts : SMap Part
  tensors : SMap (Option Tensor)
  nextHandle : Nat
  acxHandles : SMap (Option (Nat × Bool))
  kvEntries : SMap (BitVec 64)
  kvCtxs : SMap (BitVec 128)
  kvLow : SMap Bool
  /-- Stamp of the last commit that appended to a page, by page-table entry (R265). -/
  kvStamps : SMap (BitVec 64)
  reqs : SMap ReqEnt
  traceSeq : SMap (BitVec 32)
  tvSeq : SMap (BitVec 32)
  tv : SMap TvQueue
  health : SMap Health
  windows : SMap (Option HealthWin)
  sramCe : SMap (List Stamp)
  sramPoison : SMap Bool
  repairQueue : List (Nat × Nat × Nat)
  dram : List Host.Cell
  flaskMem : SMap (SMap (Option Byte))
  poison : SMap Bool
  /-- Errors that the next read of a unit meets (R268). -/
  dramErrs : List DramErr
  /-- Frames of 4 KiB that R269 has remapped. -/
  remapped : SMap Bool
  hbm : SMap StackSt
  dueCount : Nat
  heldAccs : List HeldAcc
  deferred : Deferred
  edcCtx : SMap Nat
  edcLockAt : Stamp
  msixOn : SMap Bool
  vecOpen : SMap Bool
  msixHeld : List (Nat × Nat)
  retention : Option Retention
  queues : SMap Queue
  slots : SMap Slot
  qps : SMap (Option Qp)
  mrs : SMap (Option MemRegion)
  /-- Until when a port transmits for an owner of slots, by 16 × port + owner (R323). -/
  egress : SMap (BitVec 64)
  /-- Number of the next posted send. -/
  postNo : Nat
  acxRx : SMap (List (List Byte))
  spots : SMap HotSpot
  therm : ThermSt
  time : TimeSt
  wrapped : SMap (Option (List Byte))
  idReady : Bool
  uncleared : Nat
  scrubs : List Scrub
  secOp : Option (Nat × Nat × Nat)
  fw : FwSt
  jArea0 : JArea
  jArea1 : JArea
  jActive : Nat
  jGathered : List JRec
  jWritten : List JRec
  jSeq : Nat
  jGatherAt : Stamp
  helm : HelmSt
  bist : BistSt
  power : PowerSt
  deriving DecidableEq, Repr

/-- A boot record as shipped: region A, no trial (log 16). -/
def bootRecReset : BootRec := { seq := 0, active := 0, trial := false, tries := 0, crcOk := true }

/-- A Steward that does not run. -/
def stewReset : StewSt := { up := false, beat := 0, contests := [] }

/-- Firmware as shipped: a bundle in region A, none in region B (log 16). -/
def fwReset : FwSt :=
  { rec0 := bootRecReset, rec1 := bootRecReset, regionA := { shipped := true, bytes := [] }
    regionB := { shipped := false, bytes := [] }, running := 0, imgN := 0, imgS := 0, imgL := 0, update := 0
    target := 0, resetAt := 0, fwSvn := 0, jrnEpoch := 0, rcv := [], rcvLen := 0, rcvActive := false
    jfmt := 0, oldFmt := none }

/-- Helm and membership with nothing pending. -/
def helmReset : HelmSt :=
  { n := stewReset, s := stewReset, freeSince := none, seqDone := true, fenceHeld := false, joinPending := false
    holdPending := false, resumePending := false, holdInForce := false, windows := [], keys := [], log := []
    lu3 := [], peers := [], frags := [], answers := [], takeover := none, ringGib := 4
    last := 0, mirror := mirrorReset }

/-- Self-test with nothing queued. -/
def bistReset : BistSt :=
  { queue := [], run := none, sharedQueue := [], enterPending := false, exitPending := false, noAdmit := false, passedLogic := 0
    passedCalib := 0, drained := 0, returning := 0 }

/-- Power conditions at auxiliary start. -/
def powerReset : PowerSt :=
  { phase := 0, upAt := 0, railLatch := false, railOffSeen := false, railOffAt := 0, flushBy := none, kept := []
    straps := 0, alert := false, vfEnabled := false, vfBar2 := 2, pfBar2 := 0, fresh := true }

/-- No setting waits for a boundary. -/
def deferredReset : Deferred := { period := none, shares := [], netPart := [], egress := false }

/-- The timebase at auxiliary start. -/
def timeReset : TimeSt :=
  { inWindow := 0, ptpEst := none, outliers := 0, lastSample := 0, lastEdge := none, base := 0, edges := 0
    ptp := ptpReset }

/-- The block right after auxiliary start (R13, R246): STANDBY, device time 0, every register at its reset value,
no memory written, no command waiting. -/
def State.reset : State :=
  { now := 0, cyc := 0, free := 0, regs := [], pending := [], out := [], events := [], hostMem := [], parts := []
    tensors := [], nextHandle := 1, acxHandles := [], kvEntries := [], kvCtxs := [], kvLow := [], kvStamps := [], reqs := []
    traceSeq := [], tvSeq := [], tv := [], health := [], windows := [], sramCe := [], sramPoison := []
    repairQueue := [], dram := [], flaskMem := [], poison := [], dramErrs := [], remapped := [], hbm := [], dueCount := 0, heldAccs := []
    deferred := deferredReset, edcCtx := [], edcLockAt := 0, msixOn := [], vecOpen := [], msixHeld := []
    retention := none, queues := [], slots := [], qps := [], mrs := [], egress := [], postNo := 0, acxRx := [], spots := [], therm := thermReset
    time := timeReset, wrapped := [], idReady := false, uncleared := 0, scrubs := [], secOp := none, fw := fwReset
    jArea0 := { recs := [], epoch := some 0 }, jArea1 := { recs := [], epoch := none }, jActive := 0
    jGathered := [], jWritten := [], jSeq := 0, jGatherAt := 0, helm := helmReset, bist := bistReset
    power := powerReset }

end Sys2Proof.Machine
end

