-- ==== Sys2Proof/Machine/Status.lean ====
section
/-!
DEFINITION. Status words, in the families of R15; each by the name and code its chapter gives.
-/
namespace Sys2Proof.Machine

def ST_OK : Nat := 0x0000
def ST_CANCELLED : Nat := 0x0101
def ST_DEADLINE_LAPSED : Nat := 0x0102
def ST_EMPTY_REQUEST : Nat := 0x0103
def ST_KV_EXHAUSTED : Nat := 0x0104
def ST_KV_ROWMAP : Nat := 0x0105
def ST_DRAFT_LIMIT : Nat := 0x0106
def ST_ROWMAP_KIND : Nat := 0x0107
def ST_REQ_STATE : Nat := 0x0108
def ST_TABLE_FULL : Nat := 0x0109
def ST_REQ_PAUSED : Nat := 0x010A
def ST_REQ_INVALID : Nat := 0x010B
def ST_FORMAT_PAIR : Nat := 0x0201
def ST_FORMAT_CODE : Nat := 0x0202
def ST_FORMAT_SHAPE : Nat := 0x0203
def ST_NO_ENGINE : Nat := 0x0204
def ST_MEM_UNCORRECTABLE : Nat := 0x0205
def ST_STACK_LOST : Nat := 0x0206
def ST_SELFTEST_REFUSED : Nat := 0x0207
def ST_BIST_FAIL : Nat := 0x0208
def ST_PART_CONFIG : Nat := 0x0301
def ST_PART_BUSY : Nat := 0x0302
def ST_WINDOW : Nat := 0x0303
def ST_ID_UNAVAILABLE : Nat := 0x0304
def ST_KEY_SLOT : Nat := 0x0305
def ST_FLASK_LIMIT : Nat := 0x0306
def ST_PROGRAM_IMAGE : Nat := 0x0420
def ST_STREAM_UNDECLARED : Nat := 0x0421
def ST_STREAM_DIRECTION : Nat := 0x0422
def ST_STREAM_FORMAT : Nat := 0x0423
def ST_STREAM_KEEP : Nat := 0x0424
def ST_STREAM_DEADLOCK : Nat := 0x0425
def ST_HANDLE_INVALID : Nat := 0x0426
def ST_HANDLE_ACCESS : Nat := 0x0427
def ST_STEP_ORDER : Nat := 0x0428
def ST_TILE_SHAPE : Nat := 0x0429
def ST_INSN_INVALID : Nat := 0x042A
def ST_DESC_TYPE : Nat := 0x042B
def ST_LOOP_ORDER : Nat := 0x042C
def ST_LOOP_DEPTH : Nat := 0x042D
def ST_DESC_RANGE : Nat := 0x042E
def ST_BRANCH_TARGET : Nat := 0x042F
def ST_ESTIMATE_RANGE : Nat := 0x0430
def ST_ADDR_UNMAPPED : Nat := 0x0440
def ST_BAR_WINDOW : Nat := 0x0441
def ST_CMD_INVALID : Nat := 0x0442
def ST_QUEUE_ERROR : Nat := 0x0443
def ST_PROGRAM_BUSY : Nat := 0x0444
def ST_DMA_FAULT : Nat := 0x0445
def ST_QP_ERROR : Nat := 0x0446
def ST_RDMA_ACCESS : Nat := 0x0447
def ST_EGRESS_GATED : Nat := 0x0448
def ST_LOG_GONE : Nat := 0x0449
def ST_LOG_TOO_BIG : Nat := 0x044A
def ST_FRAME_NONE : Nat := 0x0450
def ST_THERMAL_TRIP : Nat := 0x0501
def ST_FLOW_LOST : Nat := 0x0502
def ST_FW_SIGNATURE : Nat := 0x0601
def ST_FW_ROLLBACK : Nat := 0x0602
def ST_FW_NO_IMAGE : Nat := 0x0603
def ST_JOURNAL_BAD : Nat := 0x0604
def ST_RPMB_FAIL : Nat := 0x0605

end Sys2Proof.Machine
end

