-- ==== Sys2Proof/Machine/Ops.lean ====
section
/-!
DEFINITION. The operations that the meanings share: registers and their fields, device time, counters, events and the
event doorbell controller, records in DRAM, the journal's gathering, and completion rings.
-/
namespace Sys2Proof.Machine

/-- What a meaning answers. -/
abbrev Res := Host.Outcome State Fault Refusal

/-! ### Registers -/

/-- The value of the register at BAR0 offset `o`. -/
def regGet (s : State) (o : Nat) : Nat := (mapGet (regReset o) s.regs o).toNat

/-- Sets the register at offset `o`. -/
def regSet (o v : Nat) (s : State) : State :=
  { s with regs := mapSet (regReset o) s.regs o (BitVec.ofNat 64 v) }

/-- A field of a register. -/
def fget (s : State) (f : Fld) : Nat := fieldGet (regGet s f.reg) f.hi f.lo

/-- Sets a field of a register. -/
def fset (f : Fld) (x : Nat) (s : State) : State := regSet f.reg (fieldSet (regGet s f.reg) f.hi f.lo x) s

/-- A one-bit field as a truth value. -/
def fbit (s : State) (f : Fld) : Bool := fget s f != 0

/-- A register whose reset value is 0. -/
def regGet0 (s : State) (o : Nat) : Nat := (mapGet 0 s.regs o).toNat

/-- The next free value, below `2 ^ w` (log 3). -/
def freeVal (s : State) (w : Nat) : Nat := Config.freeNat s.free % 2 ^ w

/-- Counts `n` free values as taken. -/
def freeUse (n : Nat) (s : State) : State := { s with free := s.free + n }

/-! ### Module state and device time -/

def MODE_OFF : Nat := 0
def MODE_STANDBY : Nat := 1
def MODE_BOOT : Nat := 2
def MODE_READY : Nat := 3
def MODE_RUN : Nat := 4
def MODE_MAINT : Nat := 5
def MODE_SAFE : Nat := 6
def MODE_FENCED : Nat := 7
def MODE_RECOVERY : Nat := 8

/-- The module state (R8, R13). -/
def mode (s : State) : Nat := fget s GEN_STATE_MODE

/-- The die main domain is powered (R31). -/
def dieOn (s : State) : Bool := decide (2 ≤ mode s)

/-- The DRAM stacks hold data and answer (R31): trained, and neither off nor in self-refresh. -/
def dramOn (s : State) : Bool :=
  (mode s == MODE_READY || mode s == MODE_RUN || mode s == MODE_MAINT || mode s == MODE_FENCED
    || (mode s == MODE_BOOT && decide (3 ≤ s.power.phase)))

/-- The stacks are in self-refresh because PLL_M coasts (R354): steps and accesses that touch DRAM wait. -/
def dramAsleep (s : State) : Bool := (fget s CLK_STATUS_COAST).testBit 4

/-- Commands of the rings execute: the die main domain is powered (R31). -/
def booted (s : State) : Bool := dieOn s

/-- `dt` ns of device time pass; ACLK cycles are counted with it. Device time stands still in OFF only (R29). -/
def elapse (dt : Nat) (s : State) : State :=
  { s with now := if mode s = MODE_OFF then s.now else s.now + BitVec.ofNat 64 dt
           cyc := if mode s = MODE_OFF then s.cyc else s.cyc + dt * fget s CLK_ACLK_CUR_MHZ }

/-- Nanoseconds from stamp `t` to now (R244: stamps wrap modulo 2^64). -/
def since (s : State) (t : Stamp) : Nat := (s.now - t).toNat

/-! ### DRAM (R256, R258) -/

/-- First device address past the stacks (R256). -/
def dramEnd : Nat := 0x2400000000

/-- Bytes of a stack (R256). -/
def stackBytes : Nat := 0x600000000

/-- The stack of a device address. -/
def stackOf (a : Nat) : Nat := a / stackBytes

/-- One byte of DRAM; a byte that nothing has written reads 0 (log 4). -/
def dramByte (s : State) (a : Nat) : Byte := mapGet 0 s.dram a

/-- `n` bytes of DRAM from `a`. -/
def dramRead (s : State) (a n : Nat) : List Byte := tabulate (dramByte s) n a

/-- Cells with the bytes written from address `a` on. -/
def cellsPut : List Byte → Nat → List Host.Cell → List Host.Cell
  | [], _, m => m
  | b :: bs, a, m => cellsPut bs (a + 1) (mapSet 0 m a b)

/-- The poison marks after a write of `n` bytes at `a`: a unit written whole loses its mark (R269). -/
def poisonAfter (a n : Nat) (m : SMap Bool) : SMap Bool :=
  m.filter (fun e => !(decide (a ≤ e.1 * 64 ∧ e.1 * 64 + 64 ≤ a + n)))

/-- The part of a write of `bs` at `a` that mirror `m` takes a copy of (R265), as (address, bytes). -/
def mirrorPart (a : Nat) (bs : List Byte) (m : Mirror) : Nat × List Byte :=
  let lo := max a m.home
  let hi := min (a + bs.length) (m.home + m.len)
  (m.addr + (lo - m.home), (bs.drop (lo - a)).take (hi - lo))

/-- The mirrors that stand (R265). -/
def mirrorsOf (s : State) : List Mirror := s.hbm.flatMap (fun e => e.2.mirrors)

/-- Cells after a write with the copies that mirrors take. -/
def cellsPutAll (ms : List Mirror) (a : Nat) (bs : List Byte) (d : List Host.Cell) : List Host.Cell :=
  ms.foldl (fun d m => cellsPut (mirrorPart a bs m).2 (mirrorPart a bs m).1 d) (cellsPut bs a d)

/-- Writes bytes to DRAM, and to the mirror where one stands (R265). -/
def dramWrite (a : Nat) (bs : List Byte) (s : State) : State :=
  { s with dram := cellsPutAll (mirrorsOf s) a bs s.dram, poison := poisonAfter a bs.length s.poison }

/-- Copies the `n` bytes from `a` on to `b`. -/
def dramCopy (a b n : Nat) (s : State) : State :=
  let keep := s.dram.filter (fun c => !(decide (b ≤ c.1 ∧ c.1 < b + n)))
  let move := s.dram.filter (fun c => decide (a ≤ c.1 ∧ c.1 < a + n))
  { s with dram := move.foldl (fun d c => mapSet 0 d (b + (c.1 - a)) c.2) keep }

/-- Bytes written to host memory by the device. -/
def hostWrite (a : Nat) (bs : List Byte) (s : State) : State :=
  { s with hostMem := cellsPut bs a s.hostMem }

/-- First byte of the firmware region's copy on stack 2 (R258). -/
def fwCopy0 : Nat := 0x11C0000000

/-- First byte of the firmware region's copy on stack 5 (R258). -/
def fwCopy1 : Nat := 0x23C0000000

/-- Offset of the trace ring in the firmware region (log 25: the firmware's layout). -/
def fwTraceOff : Nat := 0

/-- Offset of the RAS log in the firmware region (log 25). -/
def fwRasOff : Nat := 0x4000000

/-- Writes bytes at an offset of the firmware region, to both copies (R258). -/
def fwWriteAt (o : Nat) (bs : List Byte) (s : State) : State :=
  if dramOn s then dramWrite (fwCopy1 + o) bs (dramWrite (fwCopy0 + o) bs s) else s

/-! ### Messages -/

/-- A message of vector `vec` to function `f` (0 the PF, n VF n) is sent, or held while the function's MSI-X is off or
the vector is masked (R339). -/
def sendMsix (f vec : Nat) (s : State) : State :=
  let open_ := mapGet false s.msixOn f && mapGet false s.vecOpen (f * 256 + vec)
  { s with out := if open_ then .msix f vec :: s.out else s.out
           msixHeld := if open_ || s.msixHeld.contains (f, vec) then s.msixHeld else s.msixHeld ++ [(f, vec)] }

/-! ### Event doorbell controller (R334 to R346) -/

/-- The sources below 32·`n` words whose bit is set, from word `w`. -/
def bitsOfWords (get : Nat → Nat) : Nat → Nat → List Nat
  | 0, _ => []
  | n + 1, w =>
    (if get w = 0 then [] else (tabulate (fun i => i) 32 0).filterMap
      (fun i => if bitOf (get w) i then some (32 * w + i) else none)) ++ bitsOfWords get n (w + 1)

/-- Context that the CTX code of source `n` names; code 31 is the helm holder's, none while the latch is FREE (R338). -/
def edcRoute (s : State) (n : Nat) : Nat :=
  let c := fget s (EDC_SRC_CFG_CTX n)
  if c = 31 then (if fget s HLM_HELM_STATE = 1 then 9 else if fget s HLM_HELM_STATE = 2 then 10 else 31) else c

/-- The bit of source `n` in a row of words at `o`, 32 sources a word. -/
def edcBit (s : State) (o : Nat → Nat) (n : Nat) : Bool := bitOf (regGet s (o (n / 32))) (n % 32)

/-- Sets that bit. -/
def edcSetBit (o : Nat → Nat) (n : Nat) (b : Bool) (s : State) : State :=
  regSet (o (n / 32)) (setBit (regGet s (o (n / 32))) (n % 32) b) s

/-- Source `n`, pending, is eligible for the context it is routed to (R339). -/
def edcEligible (s : State) (n : Nat) : Bool :=
  edcBit s EDC_PEND n && !edcBit s EDC_MASK n && !edcBit s EDC_ACTIVE n
    && decide (fget s (EDC_CTX_THRESH_THRESH (edcRoute s n)) < fget s (EDC_SRC_CFG_PRIO n))
    && decide (edcRoute s n < 28)

/-- The eligible sources as (context, PRIO, number). -/
def edcElig (s : State) : List (Nat × Nat × Nat) :=
  (bitsOfWords (fun w => regGet0 s (EDC_PEND w)) 32 0).filterMap
    (fun n => if edcEligible s n then some (edcRoute s n, fget s (EDC_SRC_CFG_PRIO n), n) else none)

/-- The winner for context `c` among eligible sources: highest PRIO, then lowest number (R340). -/
def edcWinner (l : List (Nat × Nat × Nat)) (c : Nat) : Option Nat :=
  (l.foldl (fun (b : Option (Nat × Nat)) e =>
    if e.1 = c then
      match b with
      | none => some e.2
      | some (p, n) => if p < e.2.1 then some e.2 else some (p, n)
    else b) none).map Prod.snd

/-- Context `c` asserts its line or sends its message, and sets NOTIFIED (R339). -/
def edcNotify (l : List (Nat × Nat × Nat)) (c : Nat) (s : State) : State :=
  match edcWinner l c with
  | none => s
  | some n =>
    let s := fset (EDC_CTX_STATUS_NOTIFIED c) 1 s
    if c ≤ 8 then sendMsix c (fget s (EDC_SRC_CFG_VEC n)) s else s

/-- After a change of pending, mask, route or threshold state: every context whose eligible set was empty in `l0` and
is not empty now notifies (R339). -/
def edcUpdate (l0 : List (Nat × Nat × Nat)) (s : State) : State :=
  let l := edcElig s
  (tabulate (fun c => c) 28 0).foldl
    (fun s c => if l0.any (fun e => e.1 == c) then s else edcNotify l c s) s

/-- The largest COUNT of a STAT counter (R387). -/
def statTop : Nat := 2 ^ 48 - 1

/-- Adds `n` to a STAT counter: it sticks at its limit and sets SAT (R387). -/
def statBump (o n : Nat) (s : State) : State :=
  let v := regGet s o
  let c := min statTop (v % 2 ^ 48 + n)
  regSet o (fieldSet (fieldSet v 47 0 c) 63 63 (if c = statTop then 1 else v / 2 ^ 63)) s

/-- That addition saturates the counter for the first time. -/
def statSaturates (o n : Nat) (s : State) : Bool :=
  let v := regGet s o
  decide (statTop ≤ v % 2 ^ 48 + n ∧ v / 2 ^ 63 = 0)

/-- The EDC source of the block that owns a STAT counter (R490); the EDC's own report to source 3 (R348). -/
def statSource (o : Nat) : Nat :=
  if o < 0x100100 then 2 else if o < 0x200000 then 16 else if o < 0x400000 then 3 else if o < 0x500000 then 4
  else if o < 0x600000 then 5 else if o < 0x700000 then 6 else if o < 0x800000 then 7 else if o < 0x900000 then 8
  else if o < 0xA00000 then 9 else if o < 0xB00000 then 10 else if o < 0xC00000 then 11 else if o < 0xD00000 then 12
  else if o < 0xE00000 then 13 else if o < 0xF00000 then 14 else 15

/-- Records an event in the log of events. -/
def logEvent (e : Ev) (u : Nat) (s : State) : State := { s with events := ⟨e, u, s.now⟩ :: s.events }

/-- The first tick boundary after now (R224). -/
def boundaryAfter (s : State) : Nat :=
  let p := 1000 * max 1 (fget s TK_PERIOD_US)
  (s.now.toNat / p + 1) * p

/-- Partition `p`, where it exists, gains `n` credits, up to 65 535 (R228). -/
def addCredits (p n : Nat) (s : State) : State :=
  if fbit s (TK_PART_VALID p) then fset (TK_PART_CREDITS p) (min 65535 (fget s (TK_PART_CREDITS p) + n)) s else s

/-- Every partition whose ARM_SRC names source `n` gains a credit (R228). -/
def armBySource (n : Nat) (s : State) : State :=
  (tabulate (fun p => p) 8 0).foldl (fun s p => if fget s (TK_PART_ARM_SRC p) = n then addCredits p 1 s else s) s

/-! ### Trace ring (R244) -/

/-- The mesh stop of a trace source class (R21: four stops a row); the classes are the clusters 0 to 7, North I/O 8,
South I/O 9 and the always-on island 10, which has no stop of its own and reports through North I/O (log 26). -/
def traceStop (cls : Nat) : Nat := if cls < 8 then 4 + cls else if cls = 9 then 15 else 3

/-- The bit of TB_TRACE_CTRL.TYPES for a record type (R246). -/
def traceBit (typ : Nat) : Nat := if typ < 0x10 then typ - 1 else typ - 0x10 + 9

/-- A 256-bit record as 32 bytes, little-endian. -/
def recBytes (v : Nat) : List Byte := leBytes 32 v

/-- A tenant's record queue after a record (R414): a ring of 16 384 that drops its oldest. -/
def tvPush (q : TvQueue) (r : BitVec 256) : TvQueue :=
  if q.recs.length < 16384 then { q with recs := q.recs ++ [r] } else { recs := q.recs.drop 1 ++ [r], lost := true }

/-- The default of a tenant record queue. -/
def tvEmpty : TvQueue := { recs := [], lost := false }

/-- Writes one trace record when its type is enabled: to the ring, and to its partition's queue with the partition's
own sequence number (R244, R246, R414). The unit number of SOURCE is an open value (log 26). -/
def traceRec (typ part cls data : Nat) (s : State) : State :=
  if fbit s TB_TRACE_CTRL_EN && bitOf (fget s TB_TRACE_CTRL_TYPES) (traceBit typ) && dramOn s then
    let source := traceStop cls * 4096 + Config.freeNat cls % 4096
    let mk := fun (seq : Nat) => s.now.toNat * 2 ^ 192 + typ * 2 ^ 184 + part * 2 ^ 176 + source * 2 ^ 160
      + seq * 2 ^ 128 + data % 2 ^ 128
    let i := fget s TB_TRACE_HEAD_INDEX
    let seq := mapGet 0 s.traceSeq cls
    let tseq := mapGet 0 s.tvSeq (part * 16 + cls)
    let s := fwWriteAt (fwTraceOff + 32 * i) (recBytes (mk seq.toNat)) s
    let s := { s with traceSeq := mapSet 0 s.traceSeq cls (seq + 1) }
    let s := fset TB_TRACE_HEAD_INDEX ((i + 1) % 2097152) s
    let s := if i + 1 = 2097152 then fset TB_TRACE_HEAD_WRAPS (fget s TB_TRACE_HEAD_WRAPS + 1) s else s
    if part < 8 then
      { s with tvSeq := mapSet 0 s.tvSeq (part * 16 + cls) (tseq + 1)
               tv := mapUpd tvEmpty s.tv (part * 2 + 1) (fun q => tvPush q (BitVec.ofNat 256 (mk tseq.toNat))) }
    else s
  else s

/-- A trace record of a type whose DATA no chapter gives: the data is a free value (log 26). -/
def traceFree (typ part cls : Nat) (s : State) : State := freeUse 1 (traceRec typ part cls (freeVal s 128) s)

/-! ### Signalling a source -/

/-- The class of writers that a doorbell comes from (R336): `none` a writer that may signal any source, `some p` one of
partition p. -/
abbrev BellOwner := Option Nat

/-- A doorbell number that R335 drops. -/
def bellBad (n : Nat) : Bool := n == 0 || n == 1023 || (decide (17 ≤ n) && decide (n ≤ 63)) || decide (1023 < n)

/-- A list of saved registers as bytes. -/
def retBytes (m : SMap (BitVec 64)) : List Byte := m.flatMap (fun e => leBytes 4 e.1 ++ leBytes 8 e.2.toNat)

/-- The CRC-32C over what the retention registers hold (R345). -/
def retCrc (r : Retention) : Nat := crc32c (retBytes r.cfg ++ retBytes r.mask ++ retBytes r.pend ++ retBytes r.thresh)

/-- The retention registers under a fresh seal. -/
def retSeal (r : Retention) : Retention := { r with crc := retCrc r }

/-- The doorbell of source `n` reaches the EDC (R335 to R337). In STANDBY the saved pending words take it (R345). When
a counter of the EDC saturates on the way, EV_COUNTER_SAT signals source 3; `fuel` bounds that chain. -/
def edcRing : Nat → BellOwner → Bool → Nat → State → State
  | 0, _, _, _, s => s
  | fuel + 1, who, withdraw, n, s =>
    let bump := fun (o : Nat) (s : State) =>
      let sat := statSaturates o 1 s
      let s := statBump o 1 s
      if sat then edcRing fuel none false 3 (logEvent (.counterSat 3) 0 s) else s
    if mode s = MODE_OFF then s
    else if mode s = MODE_STANDBY then
      if bellBad n then s else
      { s with retention := s.retention.map (fun r =>
          retSeal { r with pend := mapUpd 0 r.pend (n / 32) (fun v => BitVec.ofNat 64 (setBit v.toNat (n % 32) (!withdraw))) }) }
    else if bellBad n then fset EDC_STATUS_BAD_DOORBELL 1 s
    else if (match who with | none => false | some p => fget s (EDC_SRC_CFG_OWNER n) != p) then
      bump EDC_STAT_FOREIGN (fset EDC_STATUS_FOREIGN 1 s)
    else
      let s := bump EDC_STAT_DOORBELLS s
      if withdraw then edcSetBit EDC_PEND n false s
      else
        let s := if edcBit s EDC_PEND n then bump EDC_STAT_COALESCED s else s
        let l0 := edcElig s
        edcUpdate l0 (traceFree 0x10 0xFF 8 (armBySource n (edcSetBit EDC_PEND n true s)))

/-- A block of the die signals its source. -/
def signal (n : Nat) (s : State) : State := edcRing 4 none false n s

/-- Adds to a STAT counter; on saturation EV_COUNTER_SAT signals the counter's block, once (R387, R490). -/
def statAdd (o n : Nat) (s : State) : State :=
  if statSaturates o n s then signal (statSource o) (logEvent (.counterSat (statSource o)) 0 (statBump o n s))
  else statBump o n s

/-- Adds 1 to a STAT counter. -/
def statInc (o : Nat) (s : State) : State := statAdd o 1 s

/-- The EDC source an event signals (R490 and the event tables). -/
def evSource : Ev → Nat
  | .stateChange | .capacityChange => 1
  | .tbStep | .tbHoldover | .tbLock => 2
  | .clkCoast | .edcLockBreak | .edcRestoreBad => 3
  | .throttle | .sensorDisagree | .sensorSuspect | .thetaRise | .flowLost | .flowRestored | .thermalTrip
  | .thermalLife => 4
  | .engineHealth | .checksumUnresolved => 5
  | .bistDone | .bistFail => 6
  | .partChange | .scrubDone | .window | .idFail => 7
  | .fwTrial | .fwUpdateFail | .fwFallback => 8
  | .helmContest | .helmLapse | .followerHeld | .dutyChange | .dutyActive | .fenced | .join | .logShort
  | .logPeerLag => 9
  | .plcFallback => 10
  | .sloAtRisk | .sloMissed | .reqPaused | .reqResumed | .draftDisabled | .reqEnded => 11
  | .kvLow | .kvExhausted => 12
  | .vccDamage | .vccDrop | .vccReanchor => 13
  | .hostLinkDegraded | .hostLinkErr | .qpError | .portLink => 14
  | .memUe | .stackHot | .retrain | .stackDegraded | .stackLost => 15
  | .tickOverrun | .estExceeded => 16
  | .counterSat n => n

/-- The events on which SMB_ALERT# is asserted: EV_STATE_CHANGE and the thermal events of R374 (R483). -/
def evAlerts : Ev → Bool
  | .stateChange | .clkCoast | .throttle | .sensorDisagree | .sensorSuspect | .thetaRise | .flowLost | .flowRestored
  | .thermalTrip | .thermalLife => true
  | _ => false

/-- Raises an event: it is logged, SMB_ALERT# follows R483, and the block's source is signalled (R490). -/
def raise (e : Ev) (u : Nat) (s : State) : State :=
  let s := logEvent e u s
  signal (evSource e) { s with power := { s.power with alert := s.power.alert || evAlerts e } }

/-! ### Journal (R436 to R438) -/

/-- A journal record is gathered in format `fmt`. -/
def journalIn (fmt typ key : Nat) (del : Bool) (at_ : Stamp) (data : List Nat) (s : State) : State :=
  let r : JRec := { typ := typ, fmt := fmt, key := key, del := del, seq := s.jSeq, stamp := at_, data := data }
  { s with jGathered := s.jGathered ++ [r], jSeq := s.jSeq + 1
           jGatherAt := if s.jGathered.isEmpty then s.now else s.jGatherAt }

/-- The journal format of the previous bundle, where a bundle on trial writes another (R444). -/
def dualFmt (s : State) : Option Nat := s.fw.oldFmt.filter (fun f => f != s.fw.jfmt)

/-- Gathers a journal record of a change stamped `at_` (R437, R438), during a trial in both formats where the old one can
express the change (R444). A record of the same item stands later in the journal and so supersedes. -/
def journalAt (at_ : Stamp) (typ key : Nat) (del : Bool) (data : List Nat) (s : State) : State :=
  let s := traceFree 0x13 0xFF 8 (journalIn s.fw.jfmt typ key del at_ data s)
  match dualFmt s with
  | none => s
  | some f =>
    if Config.jfmtExpresses f s.fw.jfmt typ then journalIn f typ key del at_ data s else fset FW_STATUS_DUAL_LOSS 1 s

/-- Gathers a journal record of a change made now. -/
def journal (typ key : Nat) (del : Bool) (data : List Nat) (s : State) : State := journalAt s.now typ key del data s

/-- The register at offset `o` is recorded as a block setting (R436 type 0x03). -/
def journalReg (o : Nat) (s : State) : State := journal 0x03 o false [regGet s o] s

/-- A code is recorded in the journal beside the module state (R369, R394, R426, R433, R440; log 45). -/
def journalCode (code : Nat) (s : State) : State := journal 0x01 0 false [mode s, code] s

/-! ### RAS log (R375, R378, R379) -/

/-- What a report says besides its stamp (R378). -/
structure RasInfo where
  typ : Nat
  part : Nat := 0xFF
  engine : Nat := 0xFF
  unit : Nat := 0
  tbin : Nat := 0
  opclass : Nat := 0
  sig : Nat := 0
  charged : Bool := false
  code : Nat := 0
  data : Nat := 0
  deriving DecidableEq, Repr

/-- The 256-bit RAS record (R378). -/
def rasWord (s : State) (i : RasInfo) : Nat :=
  s.now.toNat * 2 ^ 192 + i.typ * 2 ^ 184 + i.part * 2 ^ 176 + i.engine * 2 ^ 168 + i.unit * 2 ^ 160 + i.tbin * 2 ^ 157
    + i.opclass * 2 ^ 152 + i.sig * 2 ^ 140 + b2n i.charged * 2 ^ 139 + i.code * 2 ^ 112 + i.data % 2 ^ 112

/-- Writes one record to the RAS log, and to its partition's queue (R379, R414). -/
def rasLog (i : RasInfo) (s : State) : State :=
  let v := rasWord s i
  let h := fget s RAS_LOG_HEAD_INDEX
  let wraps := fget s RAS_LOG_HEAD_WRAPS
  let s := fwWriteAt (fwRasOff + 32 * h) (recBytes v) s
  let s := fset RAS_LOG_HEAD_INDEX ((h + 1) % 65536) s
  let s := if h + 1 = 65536 then fset RAS_LOG_HEAD_WRAPS (wraps + 1) s else s
  let s := if 0 < wraps then fset RAS_STATUS_LOG_WRAP 1 s else s
  let s := statInc RAS_STAT_LOG s
  let s := if i.charged then s else statInc RAS_STAT_UNCHARGED s
  if i.part < 8 then
    { s with tv := mapUpd tvEmpty s.tv (i.part * 2) (fun q => tvPush q (BitVec.ofNat 256 v)) }
  else s

/-! ### Completion rings (R308 to R316) -/

/-- Partition and local number of queue `q` (R308). -/
def qPart (q : Nat) : Nat := q / 128
def qLocal (q : Nat) : Nat := q % 128

/-- The bytes of a completion entry with its PHASE and LOST flags (R315). -/
def cqBytes (e : CqEnt) (phase lost : Bool) : List Byte :=
  leBytes 1 e.typ ++ leBytes 1 (b2n phase + 2 * b2n lost) ++ leBytes 2 e.status ++ leBytes 4 e.tag ++ leBytes 8 e.value
    ++ leBytes 8 e.stamp.toNat ++ leBytes 8 0 ++ leBytes 32 e.payload

/-- Entries of the completion ring of queue `q`. -/
def cqSize (s : State) (q : Nat) : Nat := 2 ^ fget s (CMD_CFG_CQ_LOG2 (qPart q) (qLocal q))

/-- Queue `q` as held. -/
def qGet (s : State) (q : Nat) : Queue := mapGet queueReset s.queues q

/-- Changes queue `q`. -/
def qUpd (q : Nat) (f : Queue → Queue) (s : State) : State := { s with queues := mapUpd queueReset s.queues q f }

/-- The completion ring of queue `q` is full (R312). -/
def cqFull (s : State) (q : Nat) : Bool :=
  (fget s (CMD_PTRS_CQ_TAIL (qPart q) (qLocal q)) + 1) % cqSize s q == (qGet s q).cqHead

/-- Writes an entry at CQ_TAIL, and sends the queue's message when the ring held no unread entry (R312, R313). -/
def cqWrite (q : Nat) (e : CqEnt) (s : State) : State :=
  let t := fget s (CMD_PTRS_CQ_TAIL (qPart q) (qLocal q))
  let base := fget s (CMD_CQ_BASE_ADDR (qPart q) (qLocal q)) * 4096
  let qu := qGet s q
  let s := hostWrite (base + 64 * t) (cqBytes e qu.phase qu.lostNext) s
  let t' := (t + 1) % cqSize s q
  let s := fset (CMD_PTRS_CQ_TAIL (qPart q) (qLocal q)) t' s
  let s := qUpd q (fun qu => { qu with phase := if t' = 0 then !qu.phase else qu.phase, lostNext := false }) s
  if t = qu.cqHead then sendMsix qu.func (fget s (CMD_CFG_VEC (qPart q) (qLocal q))) s else s

/-- A record for queue `q`: written, or kept waiting while the ring is full (R312); without an enabled ring it goes
nowhere (log 27). -/
def cqPost (q : Nat) (async : Bool) (e : CqEnt) (s : State) : State :=
  if fbit s (CMD_CFG_EN (qPart q) (qLocal q)) then
    if cqFull s q || !(qGet s q).waiting.isEmpty then
      qUpd q (fun qu => { qu with waiting := qu.waiting ++ [{ entry := e, async := async, since := s.now }] }) s
    else cqWrite q e s
  else s

/-- Writes waiting records while the ring has room (R312); `fuel` bounds them. -/
def cqDrain : Nat → Nat → State → State
  | 0, _, s => s
  | fuel + 1, q, s =>
    match (qGet s q).waiting with
    | [] => s
    | w :: ws =>
      if cqFull s q then s
      else cqDrain fuel q (cqWrite q w.entry (qUpd q (fun qu => { qu with waiting := ws }) s))

/-- Posts an asynchronous record to partition `p`'s completion ring (R308). -/
def postAsync (p : Nat) (e : CqEnt) (s : State) : State := cqPost (128 * p) true e s

/-- The event code of R315 for a record's event, 0 for one that has none. -/
def evCode : Ev → Nat
  | .sloAtRisk => 1 | .sloMissed => 2 | .reqPaused => 3 | .reqResumed => 4 | .draftDisabled => 5 | .reqEnded => 6
  | .kvLow => 7 | .kvExhausted => 8 | .estExceeded => 9 | .throttle => 0xA | .dutyChange => 0xB | .partChange => 0xC
  | .fenced => 0xD
  | _ => 0

/-- Posts an event record (TYPE 0x03) for request `idx` (0xFFF for the whole partition) of partition `p` (R315, R316). -/
def postEvent (p : Nat) (e : Ev) (idx payload : Nat) (s : State) : State :=
  postAsync p { typ := 3, status := 0, tag := 0, value := idx + evCode e * 65536, stamp := s.now, payload := payload } s

/-- Posts an event record to every partition that exists. -/
def postEventAll (e : Ev) (payload : Nat) (s : State) : State :=
  (tabulate (fun p => p) 8 0).foldl
    (fun s p => if fget s (SEC_PART_STATE p) = 0 then s else postEvent p e 0xFFF payload s) s

/-- Queue `q` takes its next submission: it is enabled, not stopped, holds an entry, no completion of an earlier
command waits for room, and the device is up (R308 to R312). -/
def qReady (s : State) (q : Nat) : Bool :=
  booted s && fbit s (CMD_CFG_EN (qPart q) (qLocal q)) && !fbit s (CMD_STATUS_STOPPED (qPart q) (qLocal q))
    && fget s (CMD_PTRS_SQ_HEAD (qPart q) (qLocal q)) != (qGet s q).sqTail
    && !(qGet s q).waiting.any (fun w => !w.async)

/-- The entry at SQ_HEAD of queue `q` (R310, R314). -/
def qEntry (s : State) (q : Nat) : BitVec 512 := mapGet 0 (qGet s q).ring (fget s (CMD_PTRS_SQ_HEAD (qPart q) (qLocal q)))

/-- SQ_HEAD of queue `q` moves past one entry. -/
def qTake (q : Nat) (s : State) : State :=
  fset (CMD_PTRS_SQ_HEAD (qPart q) (qLocal q))
    ((fget s (CMD_PTRS_SQ_HEAD (qPart q) (qLocal q)) + 1) % 2 ^ fget s (CMD_CFG_SQ_LOG2 (qPart q) (qLocal q))) s

/-- A completion of queue `q`: it is written, or stands behind a posted command of the queue that is not complete yet
(R310). -/
def cqOrder (q : Nat) (e : CqEnt) (s : State) : State :=
  if (qGet s q).order.isEmpty then cqPost q false e s
  else qUpd q (fun x => { x with order := x.order ++ [(0, some e)] }) s

/-- The command numbered `no` of queue `q` is posted and completes later. -/
def cqLater (q no : Nat) (s : State) : State :=
  qUpd q (fun x => { x with order := x.order ++ [(no, none)] }) s

/-- The completions at the front of an order that can be written, and the rest. -/
def orderSplit : List (Nat × Option CqEnt) → List CqEnt × List (Nat × Option CqEnt)
  | (_, some e) :: l => (e :: (orderSplit l).1, (orderSplit l).2)
  | l => ([], l)

/-- The posted command numbered `no` of queue `q` completes with `e`. -/
def cqDone (q no : Nat) (e : CqEnt) (s : State) : State :=
  let x := orderSplit ((qGet s q).order.map (fun y => if y = (no, none) then (no, some e) else y))
  x.1.foldl (fun s e => cqPost q false e s) (qUpd q (fun y => { y with order := x.2 }) s)

/-- The completion of a command (R315 TYPE 0x01). -/
def complete (c : QCmd) (status value : Nat) (s : State) : State :=
  cqOrder c.queue.toNat
    { typ := 1, status := status, tag := c.tag.toNat, value := value, stamp := s.now, payload := 0 } s

/-- A queue that takes its next submission meets command `i`: the entry at SQ_HEAD spells it (R310, R314; log 8). -/
def cmdMeets (s : State) (c : QCmd) (i : Instr) : Bool := qReady s c.queue.toNat && entrySpells (qEntry s c.queue.toNat) i

/-- Entries with an undefined CLASS or CODE that queue `q` meets next complete with ST_CMD_INVALID (R317); `fuel` bounds them. -/
def qSkip : Nat → Nat → State → State
  | 0, _, s => s
  | fuel + 1, q, s =>
    let v := qEntry s q
    if qReady s q && !entryDefined v then
      qSkip fuel q (complete { queue := BitVec.ofNat 10 q, tag := BitVec.ofNat 32 (entryBytes v 4 4), resv := false }
        ST_CMD_INVALID 0 (qTake q s))
    else s

/-- A command of a ring has completed, and the queue goes on to its next entry. -/
def cmdEnd (c : QCmd) (status value : Nat) (s : State) : State :=
  qSkip 65536 c.queue.toNat (complete c status value s)

/-- What a command of a ring answers: a status, a value and the state it leaves. -/
structure CmdOut where
  status : Nat
  value : Nat
  st : State
  deriving DecidableEq, Repr

/-- A command that leaves everything as it is and completes with a status. -/
def cmdFail (status : Nat) (s : State) : CmdOut := ⟨status, 0, s⟩

/-- A command that completes with ST_OK. -/
def cmdOk (value : Nat) (s : State) : CmdOut := ⟨ST_OK, value, s⟩

/-! ### Violations of the host link (R329) -/

/-- A violation is recorded: the first header is captured with its class and function (R329). -/
def violation (cls func : Nat) (h0 h1 : Nat) (s : State) : State :=
  let s := if fbit s NET_HL_STATUS_CAPTURED then s
    else
      let s := regSet (NET_HL_HDR 1) h1 (regSet (NET_HL_HDR 0) h0 s)
      raise .hostLinkErr cls
        (fset NET_HL_STATUS_FUNC func (fset NET_HL_STATUS_VCLASS cls (fset NET_HL_STATUS_CAPTURED 1 s)))
  fset NET_STATUS_HL_ERR 1 s

/-- A violation whose header bytes the command does not give: they are open values (log 2). -/
def violationFree (cls func : Nat) (s : State) : State :=
  freeUse 2 (violation cls func (freeVal s 64) (Config.freeNat (s.free + 1) % 2 ^ 64) s)

/-- Runs command `i` of a ring: nothing where its queue does not meet it; ST_CMD_INVALID for a reserved byte not 0 (R317);
else the effect `f`, then the completion. A failed
transfer is recorded as a violation of class 0x07 (R329). -/
def runCmd (i : Instr) (c : QCmd) (resv : Bool) (f : State → CmdOut) (s : State) : Res :=
  if cmdMeets s c i then
    let s := qTake c.queue.toNat s
    if c.resv || resv then .next (cmdEnd c ST_CMD_INVALID 0 s)
    else
      let r := f s
      let s := if r.status = ST_DMA_FAULT then violationFree 0x07 (qGet r.st c.queue.toNat).func r.st else r.st
      .next (cmdEnd c r.status r.value s)
  else .next s

/-- The command came through a VF's queue (R308): the partition's queue enabled by its VF. -/
def fromVf (c : QCmd) (s : State) : Bool := (qGet s c.queue.toNat).func != 0

/-- The partition of a command's queue. -/
def cmdPart (c : QCmd) : Nat := qPart c.queue.toNat

/-- A command that moved bytes to or from the host completes with ST_OK: the completion of its DMA writes a trace record of
type 0x11 (R244, log 26). -/
def cmdMoved (c : QCmd) (value : Nat) (s : State) : CmdOut := cmdOk value (traceFree 0x11 (cmdPart c) 8 s)

/-! ### Changes of module state (R8 to R13) -/

/-- A Steward holds the helm. -/
def helmHeld (s : State) : Bool := fget s HLM_HELM_STATE != 0

/-- The helm has been FREE for DUTY_HOLD_MS (R453). -/
def helmLapseLong (s : State) : Bool :=
  match s.helm.freeSince with
  | none => false
  | some t => decide (fget s HLM_CTRL_DUTY_HOLD_MS * 1000000 ≤ since s t)

/-- The module is fit to serve, and so drives DUTY_OUT (R454). -/
def dutyFit (s : State) : Bool :=
  fbit s HLM_DUTY_PAIRED && (mode s == MODE_READY || mode s == MODE_RUN)
    && (fget s HLM_HELM_STATE != 0 || !helmLapseLong s) && !fbit s HLM_QUORUM_FENCED

/-- HLM_DUTY shows DUTY_OUT as driven, and ACTIVE as the grant where ROLE is active (R454, R470). -/
def dutySync (s : State) : State :=
  let s := fset HLM_DUTY_DUTY_OUT (b2n (dutyFit s)) s
  if fbit s HLM_DUTY_ROLE then s else fset HLM_DUTY_ACTIVE (fget s HLM_DUTY_GRANT) s

/-- The module takes state `m` (R12, R13): GEN_STATE, EV_STATE_CHANGE, a journal record and a trace record. DUTY_OUT
follows (R454), and P_static is measured anew on entry to READY (R357). -/
def setMode (m : Nat) (s : State) : State :=
  let s := dutySync (fset GEN_STATE_MODE m (fset GEN_STATE_PREV (mode s) s))
  let s := { s with therm := { s.therm with measure := s.therm.measure || m == MODE_READY } }
  raise .stateChange m (traceFree 0x17 0xFF 8 (journal 0x01 0 false [m] s))

/-- GEN_AVAIL's fields changed: SEQ advances, DRAM_PLACEABLE follows R36, and EV_CAPACITY_CHANGE is raised (R35, R37). -/
def capacityChanged (s : State) : State :=
  raise .capacityChange 0 (fset GEN_AVAIL_SEQ (fget s GEN_AVAIL_SEQ + 1) s)

/-- Capacity that R36 leaves placeable, in units of 64 MiB. -/
def placeable (s : State) : Nat :=
  let lost := ([0, 1, 2, 3, 4, 5].filter (fun i => !bitOf (fget s GEN_AVAIL_STACKS_OK) i)).length
  fget s GEN_MEM_DRAM_TOTAL
    - 16 * (fget s GEN_MEM_ACX_GIB + fget s GEN_MEM_FW_GIB + s.helm.ringGib + 24 * lost)

/-- GEN_AVAIL or GEN_MEM changed (R36, R37). -/
def availChanged (s : State) : State := capacityChanged (fset GEN_MEM_DRAM_PLACEABLE (placeable s) s)

end Sys2Proof.Machine
end

