-- ==== Sys2Proof/Machine/Operands.lean ====
section
/-!
DEFINITION. Operand forms of the compute commands: descriptors (R116 to R123, R157, R164), stream declarations (R82),
fields that an instruction uses (R491), and the checks of R125 in their order.
-/
namespace Sys2Proof.Machine

/-! ### Partitions and streams -/

/-- Partition `p` as its sequencers see it. -/
def partOf (s : State) (p : Nat) : Part := mapGet partReset s.parts p

/-- Sets partition `p`. -/
def setPart (p : Nat) (pt : Part) (s : State) : State := { s with parts := mapSet partReset s.parts p pt }

/-- Changes partition `p`. -/
def updPart (p : Nat) (f : Part → Part) (s : State) : State := setPart p (f (partOf s p)) s

/-- The entry of stream `i` in the stream table. -/
def streamWord (pt : Part) (i : Nat) : Nat := (pt.streamTab.getD i 0).toNat

def stValid (pt : Part) (i : Nat) : Bool := fieldGet (streamWord pt i) 63 63 == 1
def stProducer (pt : Part) (i : Nat) : Nat := fieldGet (streamWord pt i) 62 60
def stConsumer (pt : Part) (i : Nat) : Nat := fieldGet (streamWord pt i) 59 57
def stDepth (pt : Part) (i : Nat) : Nat := fieldGet (streamWord pt i) 56 52
def stFormat (pt : Part) (i : Nat) : Nat := fieldGet (streamWord pt i) 51 44
def stRows (pt : Part) (i : Nat) : Nat := fieldGet (streamWord pt i) 43 38 + 1
def stRowBytes (pt : Part) (i : Nat) : Nat := fieldGet (streamWord pt i) 37 28 + 1
/-- Elements of a tile row as the stream declares it. -/
def stElems (pt : Part) (i : Nat) : Nat := elemsIn (stFormat pt i) (stRowBytes pt i)

/-! ### Descriptors -/

/-- A descriptor in the tensor layout (R117). -/
structure TDesc where
  dtype : Nat
  cls : Nat
  hint : Nat
  fmt : Nat
  rank : Nat
  trows : Nat
  trowBytes : Nat
  handle : Nat
  view : Nat
  dims : List Nat
  deriving DecidableEq, Repr

/-- Bits [hi:lo] of a descriptor. -/
def dBits (d : BitVec 256) (hi lo : Nat) : Nat := fieldGet d.toNat hi lo

/-- A descriptor read in the tensor layout. -/
def tdOf (d : BitVec 256) : TDesc :=
  { dtype := dBits d 255 252, cls := dBits d 251 250, hint := dBits d 249 248, fmt := dBits d 247 240
    rank := dBits d 239 237, trows := dBits d 236 231 + 1, trowBytes := dBits d 230 221 + 1
    handle := dBits d 215 184, view := dBits d 159 120
    dims := [dBits d 23 0, dBits d 47 24, dBits d 71 48, dBits d 95 72, dBits d 119 96] }

/-- Size of dimension `i`, 1 above the rank (R118). -/
def tdDim (t : TDesc) (i : Nat) : Nat := if i < t.rank then t.dims.getD i 1 else 1

/-- Element format without SPARSE. -/
def tdElem (t : TDesc) : Nat := t.fmt % 128
/-- SPARSE (R38). -/
def tdSparse (t : TDesc) : Bool := decide (128 ≤ t.fmt)
/-- Rows of DIM0 elements in the view. -/
def tdRows (t : TDesc) : Nat := tdDim t 1 * tdDim t 2 * tdDim t 3 * tdDim t 4
/-- Elements of the view. -/
def tdCount (t : TDesc) : Nat := tdDim t 0 * tdRows t
/-- Bits that one element of the view takes in memory, twice over: a sparse tensor stores every second element (R55). -/
def tdBits2 (t : TDesc) : Nat := if tdSparse t then fmtBits (tdElem t) else 2 * fmtBits (tdElem t)
/-- The column with which tile column `c` of a plane begins: the first whose bytes begin in it (R118). -/
def tdColAt (t : TDesc) (c : Nat) : Nat := ceilDiv (16 * c * t.trowBytes) (max 1 (tdBits2 t))
/-- Tile columns of a plane (R118). -/
def tdColTiles (t : TDesc) : Nat := ceilDiv (ceilDiv (tdDim t 0 * tdBits2 t) 16) (max 1 t.trowBytes)
/-- Tile rows of a plane (R118). -/
def tdRowTiles (t : TDesc) : Nat := ceilDiv (tdDim t 1) t.trows
/-- Tiles of the view. -/
def tdTiles (t : TDesc) : Nat := tdDim t 2 * tdDim t 3 * tdDim t 4 * tdRowTiles t * tdColTiles t

/-- Where tile `n` lies: first row (counted over every dimension above DIM0), rows, first column, columns (R118). -/
structure TileBox where
  row0 : Nat
  rows : Nat
  col0 : Nat
  cols : Nat
  deriving DecidableEq, Repr

/-- Rows, counted over every dimension above DIM0, that one index of the outermost dimension covers: a batch row (R92). -/
def tdInner (t : TDesc) : Nat :=
  if t.rank ≤ 2 then 1 else if t.rank = 3 then tdDim t 1 else if t.rank = 4 then tdDim t 1 * tdDim t 2
  else tdDim t 1 * tdDim t 2 * tdDim t 3

/-- The box of tile `n` in row-major tile order. -/
def tdBox (t : TDesc) (n : Nat) : TileBox :=
  let ct := max 1 (tdColTiles t)
  let rt := max 1 (tdRowTiles t)
  let c := n % ct
  let r := n / ct % rt
  let plane := n / ct / rt
  { row0 := plane * tdDim t 1 + r * t.trows, rows := min t.trows (tdDim t 1 - r * t.trows)
    col0 := tdColAt t c, cols := min (tdColAt t (c + 1)) (tdDim t 0) - tdColAt t c }

/-- The tile that holds row `r`, column `c` of the view. -/
def tdTileAt (t : TDesc) (r c : Nat) : Nat :=
  let plane := r / max 1 (tdDim t 1)
  (plane * tdRowTiles t + r % max 1 (tdDim t 1) / t.trows) * tdColTiles t + c * tdBits2 t / 16 / max 1 t.trowBytes

/-- The tile shape by which the scoreboard tells accesses apart (R96). -/
def tdShape (t : TDesc) : List Nat := [t.fmt, t.trows, t.trowBytes, t.view] ++ t.dims

/-- The checks of R117 and R118 on a tensor layout of one of `types`, with those of R122, R123, R164 and R201. -/
def tdOk (types : List Nat) (d : BitVec 256) : Bool :=
  let t := tdOf d
  types.contains t.dtype && dBits d 220 216 == 0 && dBits d 183 160 == 0 && t.handle != 0
    && decide (1 ≤ t.rank ∧ t.rank ≤ 5)
    && (tabulate (fun i => i) 5 0).all (fun i => if i < t.rank then t.dims.getD i 0 != 0 else t.dims.getD i 0 == 0)
    && (t.dtype != 2 || (t.fmt == 3 && t.rank == 2 && decide (t.cls ≤ 1) && decide (tdDim t 1 ≤ 65536)
          && tdDim t 0 == 4))
    && (t.dtype != 4 || (t.cls == 0 && t.fmt == 0 && t.rank == 2 && decide (tdDim t 0 ≤ 256)))
    && (t.dtype != 1 || t.cls != 2 || (t.rank == 2 && decide (tdDim t 1 ≤ 64)
          && [64, 128, 256].contains (tdDim t 0) && [0x13, 0x10, 0x22, 0x20].contains t.fmt))

/-- A window descriptor (R120). -/
structure WDesc where
  pad : Nat
  kh : Nat
  kw : Nat
  sh : Nat
  sw : Nat
  dh : Nat
  dw : Nat
  pt : Nat
  pb : Nat
  pl : Nat
  pr : Nat
  val : Nat
  deriving DecidableEq, Repr

/-- A descriptor read in the window layout. -/
def wdOf (d : BitVec 256) : WDesc :=
  { pad := dBits d 251 250, kh := dBits d 247 244 + 1, kw := dBits d 243 240 + 1, sh := dBits d 239 236 + 1
    sw := dBits d 235 232 + 1, dh := dBits d 231 228 + 1, dw := dBits d 227 224 + 1, pt := dBits d 223 220
    pb := dBits d 219 216, pl := dBits d 215 212, pr := dBits d 211 208, val := dBits d 207 176 }

/-- Output positions along one axis (R121), 0 where the window does not fit. -/
def winOut (n before after k dil stride : Nat) : Nat :=
  if n + before + after < dil * (k - 1) + 1 then 0 else (n + before + after - dil * (k - 1) - 1) / stride + 1

def winOH (t : TDesc) (w : WDesc) : Nat := winOut (tdDim t 2) w.pt w.pb w.kh w.dh w.sh
def winOW (t : TDesc) (w : WDesc) : Nat := winOut (tdDim t 1) w.pl w.pr w.kw w.dw w.sw

/-- The limits of R155 and R157 on a window over a source. -/
def winOk (t : TDesc) (d : BitVec 256) : Bool :=
  let w := wdOf d
  dBits d 255 252 == 3 && dBits d 249 248 == 0 && dBits d 175 0 == 0 && t.rank == 3
    && decide (tdDim t 2 ≤ 65536 ∧ tdDim t 1 ≤ 65536 ∧ tdDim t 0 ≤ 16384)
    && (!fmtBlock (tdElem t) || tdDim t 0 % 32 == 0) && decide (w.kh * w.kw * tdDim t 0 ≤ 262144)
    && decide (1 ≤ winOH t w ∧ 1 ≤ winOW t w) && !tdSparse t
    && (w.pad != 2 || decide (max w.pt w.pb ≤ tdDim t 2 - 1 ∧ max w.pl w.pr ≤ tdDim t 1 - 1))

/-! ### Registered tensors -/

/-- The tensor of a handle, where it is registered to partition `p` (R94). -/
def tensorOf (s : State) (p h : Nat) : Option Tensor :=
  match mapGet none s.tensors h with
  | none => none
  | some t => if t.part = p then some t else none

/-- The descriptor agrees with the registration: its class, and format, heads and width of a KV layer tensor (R164). -/
def tdAgrees (s : State) (p : Nat) (t : TDesc) : Bool :=
  match tensorOf s p t.handle with
  | none => true
  | some x => x.cls == t.cls
      && (t.cls != 2 || (x.kvFormat == t.fmt && x.heads == tdDim t 1 && x.width == tdDim t 0))

/-! ### Fields (R111, R491) -/

def OP_LOAD : Nat := 0x00
def OP_WIN : Nat := 0x01
def OP_GATHER : Nat := 0x02
def OP_MM : Nat := 0x20
def OP_SCORE : Nat := 0x21
def OP_MIX : Nat := 0x22
def OP_EW1 : Nat := 0x40
def OP_EW2 : Nat := 0x41
def OP_ACT : Nat := 0x42
def OP_RMS : Nat := 0x43
def OP_LN : Nat := 0x44
def OP_SMAX : Nat := 0x45
def OP_MERGE : Nat := 0x46
def OP_ROPE : Nat := 0x47
def OP_SILUMUL : Nat := 0x48
def OP_REDUCE : Nat := 0x49
def OP_POOL : Nat := 0x4A
def OP_KVG : Nat := 0x60
def OP_KVA : Nat := 0x61
def OP_STORE : Nat := 0x80
def OP_APPEND : Nat := 0x81
def OP_COMMIT : Nat := 0x82

/-- The station of an operation (R108). -/
def opStation (op : Nat) : Nat := op / 32

/-- The instruction pushes to SO. -/
def useSO (op : Nat) : Bool := op != OP_KVA && opStation op != 4
/-- The instruction reads SA (and KA). -/
def useSA (op fn : Nat) : Bool :=
  (opStation op == 1 || opStation op == 2 || op == OP_KVA || op == OP_STORE || op == OP_APPEND)
    || (op == OP_KVG && bitOf fn 1)
/-- The instruction reads SB (and KB). -/
def useSB (op fn : Nat) : Bool := (op == OP_MM && fn % 2 == 1) || op == OP_SCORE || op == OP_MIX || op == OP_EW2
def useDA (op fn : Nat) : Bool :=
  opStation op == 0 || (op == OP_MM && fn % 2 == 0) || op == OP_ACT || op == OP_RMS || op == OP_LN || op == OP_SMAX
    || op == OP_ROPE || opStation op == 3 || op == OP_STORE || op == OP_APPEND
def useDB (op fn : Nat) : Bool :=
  op == OP_WIN || op == OP_GATHER || (op == OP_SMAX && fn % 2 == 1) || op == OP_KVG
def useFunc (op : Nat) : Bool :=
  opStation op == 1 || op == OP_EW1 || op == OP_EW2 || op == OP_ACT || op == OP_SMAX || op == OP_ROPE
    || op == OP_REDUCE || op == OP_POOL || op == OP_KVG
def useOfmt (op : Nat) : Bool := opStation op ≤ 2
def useRnd (op : Nat) : Bool := opStation op == 2 || op == OP_STORE || op == OP_APPEND
def useImmh (op : Nat) : Bool := op == OP_SCORE || op == OP_MIX || op == OP_ROPE || op == OP_POOL
def useImm (op fn : Nat) : Bool :=
  (op == OP_MM && fn % 2 == 1) || (op == OP_EW1 && fn == 15) || op == OP_RMS || op == OP_LN || op == OP_SMAX
    || op == OP_ROPE || op == OP_REDUCE || op == OP_COMMIT

/-- Every unused field is 0 (R111, R491). -/
def fieldsOk (op : Nat) (w : StaW) : Bool :=
  let fn := w.func.toNat
  w.rsv == 0 && w.sx == 0 && (useSO op || w.so == 0) && (useSA op fn || (w.sa == 0 && !w.ka))
    && (useSB op fn || (w.sb == 0 && !w.kb)) && (useDA op fn || w.da == 0) && (useDB op fn || w.db == 0)
    && (useFunc op || w.func == 0) && (useOfmt op || w.ofmt == 0) && (useRnd op || (!w.rtz && !w.nosat))
    && (useImmh op || w.immh == 0) && (useImm op fn || w.imm32 == 0)

/-- The ranges that this reference answers with ST_INSN_INVALID. -/
def rangesOk (op : Nat) (w : StaW) : Bool :=
  let fn := w.func.toNat
  let h := w.immh.toNat
  if op = OP_MM then decide (fn ≤ 1) && (fn == 0 || w.imm32 != 0)
  else if op = OP_SCORE ∨ op = OP_MIX then decide (1 ≤ fn ∧ fn ≤ 64) && [64, 128, 256].contains h
  else if op = OP_EW1 then decide (fn ≤ 15)
  else if op = OP_EW2 then decide (fn ≤ 5)
  else if op = OP_ACT then fn == 0 || decide (3 ≤ fn ∧ fn ≤ 7)
  else if op = OP_SMAX ∨ op = OP_POOL then decide (fn ≤ 1)
  else if op = OP_ROPE then h % 2 == 0 && decide (2 ≤ h ∧ h ≤ 1024)
  else if op = OP_REDUCE then decide (fn ≤ 3) && w.imm32 != 0
  else if op = OP_KVG then decide (fn ≤ 3)
  else if op = OP_COMMIT then decide (w.imm32.toNat ≤ 1022)
  else true

/-! ### The checks of R125 -/

/-- The accumulator format of an MX pair, none for a pair that R50 does not list. -/
def mxPair (a b : Nat) : Option Nat :=
  let fp8 := fun (f : Nat) => f == 0x10 || f == 0x11
  let f16 := fun (f : Nat) => f == 0x12 || f == 0x13
  if (a == 1 || a == 2) && (b == 1 || b == 2) then some FMT_INT32
  else if (fp8 a && fp8 b) || (fmtBlock a && fmtBlock b) || (f16 a && f16 b) then some FMT_FP32
  else none

/-- The types and fields of the descriptors that the instruction names (check 5). A format that R38 does not list, or SPARSE, in
the parameters of vx.act or the mask of vx.smax is left to check 8 (R39); a listed one that is not FP32 or INT8 there is refused
here (DESIGN CHOICE; log 62). -/
def descsOk (s : State) (p : Nat) (st : StepSt) (op : Nat) (w : StaW) (a b : BitVec 256) : Bool :=
  let fn := w.func.toNat
  let ta := tdOf a
  let tb := tdOf b
  let plain := tdOk [1] a && ta.cls != 2 && tdAgrees s p ta
  if op = OP_LOAD ∨ op = OP_STORE then plain
  else if op = OP_MM then fn % 2 == 1 || plain
  else if op = OP_WIN then plain && winOk ta b
  else if op = OP_GATHER then
    plain && ta.rank == 2 && tdOk [1, 2] b && tdAgrees s p tb && (tb.dtype == 2 || (tb.fmt == 3 && tb.rank == 1))
  else if op = OP_ACT then
    plain && (ta.fmt == FMT_FP32 || tdSparse ta || !fmtOk (tdElem ta)) && ta.rank == 2 && tdDim ta 1 == 2
  else if op = OP_RMS then plain
  else if op = OP_LN then plain && ta.rank == 2 && tdDim ta 1 == 2
  else if op = OP_SMAX then
    tdOk [2] a && tdAgrees s p ta
      && (fn % 2 == 0 || (tdOk [1] b && tdAgrees s p tb
            && (tb.fmt == FMT_INT8 || tdSparse tb || !fmtOk (tdElem tb)) && tb.rank == 2 && decide (tb.cls ≤ 1)
            && tdDim tb 1 == st.rows.length
            && decide (ceilDiv (st.rows.foldl (fun m r => max m (if r.bound then r.kvlen else 0)) 0) 8 ≤ tdDim tb 0)))
  else if op = OP_ROPE then tdOk [2] a && tdAgrees s p ta
  else if op = OP_KVG then
    tdOk [1] a && ta.cls == 2 && tdAgrees s p ta && tdOk [2] b && tdAgrees s p tb
  else if op = OP_KVA ∨ op = OP_APPEND then tdOk [1] a && ta.cls == 2 && tdAgrees s p ta
  else true

/-- A format code with SPARSE clear, or 0 where the place has a default. -/
def ofmtOk (f : Nat) : Bool := f == 0 || fmtOk f

/-- The shape rules of R47, R56 and R118 on a tensor descriptor (check 10). -/
def shapeOk (t : TDesc) : Bool :=
  let f := tdElem t
  if t.dtype ≠ 1 ∨ t.cls = 2 then true
  else if fmtBlock f then
    tdDim t 0 % 32 == 0 && t.trowBytes % (if tdSparse t then blockBytes f / 2 else blockBytes f) == 0
  else if tdSparse t then tdDim t 0 % 4 == 0 && t.trowBytes * 4 % fmtBits f == 0
  else true

/-- The format in which an instruction writes its tiles. -/
def outFmt (pt : Part) (op : Nat) (w : StaW) (a : BitVec 256) : Nat :=
  let ta := tdOf a
  let o := w.ofmt.toNat
  if opStation op = 0 ∨ opStation op = 3 then ta.fmt
  else if opStation op = 1 then
    (mxPair (stFormat pt w.sa.toNat)
      (if op = OP_MM ∧ w.func.toNat % 2 = 0 then tdElem ta else stFormat pt w.sb.toNat)).getD 0
  else if op = OP_REDUCE ∧ w.func.toNat = 3 ∧ o = 0 then FMT_INT32
  else if o = 0 then FMT_FP32 else o

/-- Output format against the output stream, and tile shapes that the declaration cannot hold (check 11). -/
def outOk (pt : Part) (op : Nat) (w : StaW) (a : BitVec 256) : Bool :=
  let fn := w.func.toNat
  let ta := tdOf a
  let so := w.so.toNat
  let sa := w.sa.toNat
  let o := outFmt pt op w a
  let n := stElems pt sa
  let fits := fun (rows elems : Nat) =>
    decide (rows ≤ stRows pt so ∧ bytesOf o (if fmtBlock o then ceilDiv elems 32 * 32 else elems) ≤ stRowBytes pt so)
  (!useSO op || (stFormat pt so == o && (w.ofmt == 0 || opStation op == 2 || w.ofmt.toNat == o)))
    && (if op = OP_LOAD ∨ op = OP_GATHER then decide (ta.trows ≤ stRows pt so ∧ ta.trowBytes ≤ stRowBytes pt so)
        else if op = OP_EW1 ∨ op = OP_EW2 ∨ op = OP_ACT ∨ op = OP_ROPE ∨ op = OP_SMAX then fits (stRows pt sa) n
        else if op = OP_SILUMUL then fits (stRows pt sa) (n / 2)
        else if op = OP_POOL then w.immh == 0 || fits (stRows pt sa) (n / w.immh.toNat)
        else if op = OP_RMS ∨ op = OP_LN ∨ op = OP_REDUCE then fits (stRows pt sa) 1
        else if op = OP_MIX then fits (stRows pt sa) w.immh.toNat
        else if op = OP_KVG then fits 1 (tdDim ta 0)
        else true)
    && (op != OP_KVG || !bitOf fn 1 || stFormat pt sa == FMT_INT32)
    && (op != OP_KVA || stFormat pt sa == FMT_INT32)

/-- INT32 values that kv.gather with FUNC[1] = 1 reads from SA: one page index for each page of the step's requests (R181). -/
def gatherPages (st : StepSt) : Nat := st.segs.foldl (fun n g => n + g.pages) 0

/-- Tiles of the operand SA that the instruction fixes at issue: those of one row of a row operation, the page indices of
kv.gather, one value for each batch row of kv.accept, 1 where nothing is fixed (check 12). -/
def keepLen (st : StepSt) (pt : Part) (op : Nat) (w : StaW) (a : BitVec 256) : Nat :=
  let n := max 1 (stElems pt w.sa.toNat)
  let whole := n * max 1 (stRows pt w.sa.toNat)
  if op = OP_ACT ∨ op = OP_RMS ∨ op = OP_LN then ceilDiv (tdDim (tdOf a) 0) n
  else if op = OP_REDUCE then ceilDiv w.imm32.toNat n
  else if op = OP_MM ∧ w.func.toNat % 2 = 0 then ceilDiv (tdDim (tdOf a) 0) n
  else if op = OP_KVG then ceilDiv (gatherPages st) whole
  else if op = OP_KVA then ceilDiv st.rows.length whole
  else 1

/-- Tiles of the operand SB that the instruction fixes at issue: the N rows of a stream weight, else 1 (check 12). -/
def keepLenB (pt : Part) (op : Nat) (w : StaW) : Nat :=
  if op = OP_MM then ceilDiv w.imm32.toNat (max 1 (stRows pt w.sb.toNat)) else 1

/-- The row length of a row operation, and the width rules of vx.silumul and vx.pool (check 13). -/
def rowLenOk (pt : Part) (op : Nat) (w : StaW) (a : BitVec 256) : Bool :=
  let n := stElems pt w.sa.toNat
  if op = OP_ACT ∨ op = OP_RMS ∨ op = OP_LN then decide (tdDim (tdOf a) 0 ≤ 262144)
  else if op = OP_REDUCE then decide (w.imm32.toNat ≤ 262144)
  else if op = OP_SILUMUL then n % 2 == 0
  else if op = OP_POOL then w.immh != 0 && n % w.immh.toNat == 0
  else true

/-- The first check of R125 that a station instruction fails, as its status code. -/
def issueCheck (s : State) (p : Nat) (pt : Part) (op : Nat) (w : StaW) : Option Nat :=
  let fn := w.func.toNat
  let a := mapGet 0 pt.dreg w.da.toNat
  let b := mapGet 0 pt.dreg w.db.toNat
  let ta := tdOf a
  let tb := tdOf b
  let isA := useDA op fn
  let isB := useDB op fn && op != OP_WIN
  if !fieldsOk op w || !rangesOk op w then some ST_INSN_INVALID
  else match pt.step with
  | none => some ST_STEP_ORDER
  | some st =>
    if (useSO op && !stValid pt w.so.toNat) || (useSA op fn && !stValid pt w.sa.toNat)
        || (useSB op fn && !stValid pt w.sb.toNat) then some ST_STREAM_UNDECLARED
    else if (useSO op && stProducer pt w.so.toNat != opStation op)
        || (useSA op fn && stConsumer pt w.sa.toNat != opStation op)
        || (useSB op fn && stConsumer pt w.sb.toNat != opStation op) then some ST_STREAM_DIRECTION
    else if !descsOk s p st op w a b then some ST_DESC_TYPE
    else if (isA && (tensorOf s p ta.handle).isNone) || (isB && (tensorOf s p tb.handle).isNone) then
      some ST_HANDLE_INVALID
    else if (op == OP_STORE || op == OP_APPEND)
        && (ta.cls == 3 || ((tensorOf s p ta.handle).map (fun x => !x.writable)).getD false) then some ST_HANDLE_ACCESS
    else if (isA && !fmtOk (tdElem ta)) || (isA && tdSparse ta && !(op == OP_MM && fmtMx (tdElem ta)))
        || (isB && !fmtOk tb.fmt) || !ofmtOk w.ofmt.toNat then some ST_FORMAT_CODE
    else if opStation op == 1 && outFmt pt op w a == 0 then some ST_FORMAT_PAIR
    else if (isA && !shapeOk ta) || (isB && !shapeOk tb) then some ST_FORMAT_SHAPE
    else if !outOk pt op w a then some ST_STREAM_FORMAT
    else if (w.ka && useSA op fn && decide (stDepth pt w.sa.toNat < keepLen st pt op w a))
        || (w.kb && useSB op fn && decide (stDepth pt w.sb.toNat < keepLenB pt op w)) then some ST_STREAM_KEEP
    else if !rowLenOk pt op w a then some ST_TILE_SHAPE
    else none

end Sys2Proof.Machine
end

