-- ==== Sys2Proof/Machine/Mem.lean ====
section
/-!
DEFINITION. Tensors in memory: DRAM windows (R407, R408), where an element lies, reading and writing rows of a view,
uncorrectable data (R269), and elements beyond a tensor's extent (R119).
-/
namespace Sys2Proof.Machine

/-! ### Windows -/

/-- Bytes of a window unit (R407). -/
def winUnit : Nat := 0x4000000

/-- The enabled windows of partition `p` as (first address, bytes). -/
def winsOf (s : State) (p : Nat) : List (Nat × Nat) :=
  (tabulate (fun j => j) 8 0).filterMap (fun j =>
    if fbit s (SEC_WIN_EN p j) then some (fget s (SEC_WIN_BASE p j) * winUnit, fget s (SEC_WIN_SIZE p j) * winUnit)
    else none)

/-- Bytes [a, a + n) lie in enabled windows of partition `p`, each 64-byte unit in one of them. -/
def inWins (s : State) (p a n : Nat) : Bool :=
  (winsOf s p).any (fun w => decide (w.1 ≤ a ∧ a + n ≤ w.1 + w.2))

/-- An access on behalf of partition `p` outside its windows (R408): a RAS record, a count and EV_WINDOW. -/
def windowViolation (p a : Nat) (s : State) : State :=
  raise .window p (statInc SEC_STAT_WINDOW
    (rasLog { typ := 0x0C, part := p, unit := stackOf a, code := ST_WINDOW, data := a } s))

/-! ### Uncorrectable data -/

/-- A byte of [a, a + n) lies in a unit that carries a poison mark (R269). -/
def poisoned (s : State) (a n : Nat) : Bool :=
  s.poison.any (fun e => decide (a < e.1 * 64 + 64 ∧ e.1 * 64 < a + n))

/-- Stack `i` as held. -/
def hbmOf (s : State) (i : Nat) : StackSt := mapGet stackReset s.hbm i

/-- Changes stack `i`. -/
def updHbm (i : Nat) (f : StackSt → StackSt) (s : State) : State := { s with hbm := mapUpd stackReset s.hbm i f }

/-- The stack due next: the one that fell due first, ties to the lower number (R264). -/
def nextDue (s : State) : Option Nat :=
  ([0, 1, 2, 3, 4, 5].foldl (fun (b : Option (Nat × Nat)) i =>
    match (hbmOf s i).dueNo with
    | none => b
    | some n =>
      match b with
      | none => some (n, i)
      | some (m, j) => if n < m then some (n, i) else some (m, j)) none).map Prod.snd

/-- MEM_RETRAIN.NEXT_STACK shows the stack that trains next. -/
def dueShow (s : State) : State := fset MEM_RETRAIN_NEXT_STACK ((nextDue s).getD 0) s

/-- Stack `i` falls due for retraining (R264). -/
def stackDue (i : Nat) (s : State) : State :=
  if (hbmOf s i).dueNo.isSome || fget s (MEM_STACK_STATE i) == 2 then s
  else dueShow (updHbm i (fun x => { x with dueNo := some s.dueCount }) { s with dueCount := s.dueCount + 1 })

/-- Stack `i` leaves service at once (R270); its contents are dealt with at the next tick boundary. -/
def stackLose (i : Nat) (s : State) : State :=
  if fget s (MEM_STACK_STATE i) = 2 then s
  else
    let s := fset (MEM_STACK_STATE i) 2 (fset (MEM_STACK_DUE i) 0 (fset MEM_STATUS_STACK_LOST 1 s))
    let s := updHbm i (fun x => { x with offline := true, dueNo := none, trainTick := none, hotSince := none }) s
    let s := rasLog { typ := 0x07, unit := i, code := ST_STACK_LOST } s
    let s := dueShow (fset (MEM_STACK_HOT_LIMIT i) 0 s)
    raise .stackLost i
      (availChanged (fset GEN_AVAIL_STACKS_OK (setBit (fget s GEN_AVAIL_STACKS_OK) i false) s))

/-- Nanoseconds in 24 h. -/
def dayNs : Nat := 86400000000000

/-- Frames of stack `i` remapped in the last 24 h (R271). -/
def remapsOf (s : State) (i : Nat) : Nat := ((hbmOf s i).remaps.filter (fun t => decide (since s t ≤ dayNs))).length

/-- The 4 KiB frame of address `a` is remapped to a spare frame of its stack, once (R269): journalled, and a hard repair is
queued for the next retraining. A stack past STACK_LIMIT, or without a spare frame, leaves service (R270). -/
def frameRemap (a : Nat) (s : State) : State :=
  let i := stackOf a
  if mapGet false s.remapped (a / 4096) then s
  else
    let spares := fget s (MEM_STACK_SPARES i)
    let s := { s with remapped := mapSet false s.remapped (a / 4096) true }
    let s := updHbm i (fun x => { x with
      repairs := x.repairs + 1, remaps := s.now :: x.remaps.filter (fun t => decide (since s t ≤ dayNs)) }) s
    let n := (hbmOf s i).remaps.length
    let s := fset (MEM_STACK_SPARES i) (spares - 1) (fset (MEM_STACK_REMAP_24H i) (min 65535 n) s)
    let s := journal 0x0D (i * 2 ^ 24 + a % stackBytes / 4096) false [] s
    if fget s MEM_ERR_CTRL_STACK_LIMIT < n ∨ spares ≤ 1 then stackLose i s else stackDue i s

/-- A reader met the poisoned unit at address `a` (R269): the error registers, a RAS record and EV_MEM_UE. -/
def noteUe (p a : Nat) (s : State) : State :=
  let s := fset MEM_UE_ADDR_ADDR a (fset MEM_UE_ADDR_PART (p % 8) (fset MEM_UE_ADDR_SOURCE 0 s))
  let s := fset MEM_STATUS_UE 1 (regSet MEM_UE_STAMP s.now.toNat s)
  let s := rasLog { typ := 0x06, part := p, unit := stackOf a, code := ST_MEM_UNCORRECTABLE, data := a } s
  raise .memUe p s

/-- Unit `u` of DRAM becomes uncorrectable: it is poisoned and counted, and its frame remapped (R268, R269, R271). -/
def unitPoison (u : Nat) (s : State) : State :=
  if mapGet false s.poison u then s
  else frameRemap (u * 64) (statInc MEM_STAT_UE_DRAM { s with poison := mapSet false s.poison u true })

/-- Stack `i` retries transfers `n` times (R268). More than LINK_DUE retries within one second make it due (R264). -/
def linkRetry (i n : Nat) (s : State) : State :=
  if n = 0 then s
  else
    let s := statAdd MEM_STAT_LINK_RETRY n s
    let s := updHbm i (fun x => { x with
      retries := List.replicate n s.now ++ x.retries.filter (fun t => decide (since s t ≤ 1000000000)) }) s
    if fget s MEM_ERR_CTRL_LINK_DUE < (hbmOf s i).retries.length then stackDue i s else s

/-- A read meets an error of its unit (R268). A link CRC error is retried up to four times, a parity error once. -/
def errMeet (s : State) (e : DramErr) : State :=
  let u := e.unit.toNat
  match e.kind with
  | .corrected => statInc MEM_STAT_CE_DRAM s
  | .link n =>
    let s := linkRetry (stackOf (u * 64)) (min n 4) s
    if 4 < n then unitPoison u s else s
  | .parity n => if 1 < n then unitPoison u s else s
  | .uncorrectable => unitPoison u s

/-- The poisoned units of [a, a + n). -/
def badUnits (s : State) (a n : Nat) : List Nat :=
  (s.poison.filter (fun e => decide (0 < n ∧ a < e.1 * 64 + 64 ∧ e.1 * 64 < a + n))).map Prod.fst

/-- The errors that a read of [a, a + n) meets. -/
def errsMet (a n : Nat) (s : State) : State :=
  let mine := fun (e : DramErr) => decide (0 < n ∧ a < e.unit.toNat * 64 + 64 ∧ e.unit.toNat * 64 < a + n)
  (s.dramErrs.filter mine).foldl errMeet { s with dramErrs := s.dramErrs.filter (fun e => !mine e) }

/-- What reading the bytes [a, a + n) of DRAM for partition `p` does to the memory system: errors of its units are met (R268), and
each poisoned unit is noted (R269); with the units. -/
def readMet (p a n : Nat) (s : State) : State × List Nat :=
  let s := errsMet a n s
  let us := badUnits s a n
  (us.foldl (fun s u => noteUe p (u * 64) s) s, us)

/-- The errors that the reads of a command meet wait in the stacks (R268). -/
def errsCome (errs : List DramErr) (s : State) : State := { s with dramErrs := s.dramErrs ++ errs }

/-- A byte of [a, a + n) lies on a stack out of service (R270). -/
def onLostStack (s : State) (a n : Nat) : Bool :=
  n != 0 && (fget s (MEM_STACK_STATE (stackOf a)) == 2 || fget s (MEM_STACK_STATE (stackOf (a + n - 1))) == 2)

/-! ### Layout (R40, R48, R56; log 11) -/

/-- Blocks of 32 elements that a tensor of `size` bytes holds. -/
def blocksIn (f : Nat) (sparse : Bool) (size : Nat) : Nat :=
  size / (if sparse then blockBytes f / 2 + 1 + 4 else blockBytes f + 1)

/-- Offset of the scale plane in bytes. -/
def scaleOff (f : Nat) (sparse : Bool) (size : Nat) : Nat :=
  blocksIn f sparse size * (if sparse then blockBytes f / 2 else blockBytes f)

/-- Offset of the metadata plane of a sparse tensor: after the values, and after the scales where there are any. -/
def metaOff (f size : Nat) : Nat :=
  if fmtBlock f then scaleOff f true size + blocksIn f true size
  else size * 2 * fmtBits f / (2 * fmtBits f + 4)

/-! ### Bytes of a tensor -/

/-- The byte of a Flask object: what was written, else what the object holds (log 14). -/
def flaskByte (s : State) (obj o : Nat) : Byte :=
  match mapGet none (mapGet [] s.flaskMem obj) o with
  | some b => b
  | none => BitVec.ofNat 8 (Config.freeAt (2 ^ 64 + obj) o)

/-- Byte `o` of a tensor as partition `t.part` reads it: the step's scratch bytes, the Flask object, or the home. A byte
beyond the extent, one that nothing has written in scratch, and one of free value otherwise: element `o` of free list
`s.free` (R96, R119). -/
def tensorByte (s : State) (st : StepSt) (h : Nat) (t : Tensor) (o : Nat) : Byte :=
  let open_ := BitVec.ofNat 8 (Config.freeAt s.free o)
  if t.size ≤ o then open_
  else if t.cls = 1 then (mapGet none (mapGet [] st.scratch h) o).getD open_
  else if t.flask then flaskByte s t.object o
  else if inWins s t.part (t.home + o) 1 then dramByte s (t.home + o) else 0

/-- `w` bits of a tensor from bit `b` on; elements of 4, 6, 8, 16 and 32 bits lie so (R40, R48). -/
def tensorBits (s : State) (st : StepSt) (h : Nat) (t : Tensor) (b w : Nat) : Nat :=
  ofLe (tabulate (tensorByte s st h t) (ceilDiv (b % 8 + w) 8) (b / 8)) / 2 ^ (b % 8) % 2 ^ w

/-- Element `i` of a dense tensor. -/
def elemAt (s : State) (st : StepSt) (h : Nat) (t : Tensor) (f i : Nat) : Nat :=
  tensorBits s st h t (i * fmtBits f) (fmtBits f)

/-- The scale byte of block `b`. -/
def scaleAt (s : State) (st : StepSt) (h : Nat) (t : Tensor) (f : Nat) (sparse : Bool) (b : Nat) : Nat :=
  (tensorByte s st h t (scaleOff f sparse t.size + b)).toNat

/-- Element `i` of a sparse tensor (R55): a stored value where the group's index pair names its position, else 0. -/
def sparseAt (s : State) (st : StepSt) (h : Nat) (t : Tensor) (f i : Nat) : Nat :=
  let m := tensorBits s st h t (metaOff f t.size * 8 + i / 4 * 4) 4
  if m % 4 = i % 4 then elemAt s st h t f (i / 4 * 2)
  else if m / 4 = i % 4 then elemAt s st h t f (i / 4 * 2 + 1)
  else 0

/-- A group of a sparse tensor whose index pair R55 does not allow: its results are unpredictable (R58). -/
def sparseBad (s : State) (st : StepSt) (h : Nat) (t : Tensor) (f i : Nat) : Bool :=
  let m := tensorBits s st h t (metaOff f t.size * 8 + i / 4 * 4) 4
  decide (m / 4 ≤ m % 4)

/-- Elements that lie within the extent of a tensor of `size` bytes. -/
def elemsHeld (f : Nat) (sparse : Bool) (size : Nat) : Nat :=
  if fmtBlock f then blocksIn f sparse size * 32
  else if sparse then metaOff f size * 8 / fmtBits f * 2
  else size * 8 / fmtBits f

/-- `n` elements from element `i` on, with the scale bytes of their blocks; those beyond the extent are open values (R119). -/
def readElems (s : State) (st : StepSt) (h : Nat) (t : Tensor) (f : Nat) (sparse : Bool) (i n : Nat) : Row :=
  let held := elemsHeld f sparse t.size
  let open_ := fun (j : Nat) => Config.freeAt s.free (2 ^ 40 + j)
  { codes := tabulate (fun j => if held ≤ j then open_ (2 * j) % 2 ^ fmtBits f
      else if sparse then sparseAt s st h t f j else elemAt s st h t f j) n i
    scales := if fmtBlock f then
        tabulate (fun b => if held ≤ b * 32 then open_ (2 * b + 1) % 256 else scaleAt s st h t f sparse b) (ceilDiv n 32) (i / 32)
      else [] }

/-- Columns [c, c + n) of row `r` of a view. -/
def readView (s : State) (st : StepSt) (t : Tensor) (d : TDesc) (r c n : Nat) : Row :=
  readElems s st d.handle t (tdElem d) (tdSparse d) (d.view + r * tdDim d 0 + c) n

/-- First byte and bytes of the elements [i, i + n) in the element plane. -/
def elemSpan (f i n : Nat) : Nat × Nat :=
  let a := i * fmtBits f / 8
  (a, ceilDiv ((i + n) * fmtBits f) 8 - a)

/-- A station's read of the bytes [a, a + n) of DRAM, with the code that faults its step: data on a lost stack (R270), or a poisoned
unit (R269). -/
def readMem (p a n : Nat) (s : State) : State × Option Nat :=
  if onLostStack s a n then (s, some ST_STACK_LOST)
  else
    let x := readMet p a n s
    (x.1, if x.2.isEmpty then none else some ST_MEM_UNCORRECTABLE)

/-- A station's read of elements [i, i + n) of a tensor for partition `p`: of the element plane, and of the scale bytes and index
pairs that go with them. -/
def readTensor (p : Nat) (t : Tensor) (f : Nat) (sparse : Bool) (i n : Nat) (s : State) : State × Option Nat :=
  if t.lost then (s, some ST_STACK_LOST)
  else if t.cls = 1 ∨ t.flask then (s, none)
  else
    let e := if sparse then elemSpan f (i / 4 * 2) (ceilDiv n 4 * 2) else elemSpan f i n
    let parts := [e] ++ (if fmtBlock f then [(scaleOff f sparse t.size + i / 32, ceilDiv n 32)] else [])
      ++ (if sparse then [(metaOff f t.size + i / 8, ceilDiv n 8)] else [])
    parts.foldl (fun (x : State × Option Nat) e =>
      if t.size ≤ e.1 then x
      else
        let y := readMem p (t.home + e.1) (min e.2 (t.size - e.1)) x.1
        (y.1, x.2.or y.2)) (s, none)

/-- What the machine notes of a read of [i, i + n): an access outside the windows (R408), and one free list taken. -/
def noteRead (t : Tensor) (f i n : Nat) (s : State) : State :=
  let e := elemSpan f i n
  let s := if t.cls = 1 ∨ t.flask ∨ n = 0 ∨ inWins s t.part (t.home + e.1) e.2 then s
    else windowViolation t.part (t.home + e.1) s
  freeUse 1 s

/-! ### Writing -/

/-- Byte `o` set to `v` in its bits of `mask`. -/
def mergeBits (old mask v : Nat) : Nat := old - (old &&& mask) + (v &&& mask)

/-- A free byte address within the partition's windows, where an element beyond the extent may land (R119). -/
def strayAddr (s : State) (p i : Nat) : Option Nat :=
  match (winsOf s p)[Config.freeAt s.free (2 * i) % max 1 (winsOf s p).length]? with
  | none => none
  | some w => some (w.1 + Config.freeAt s.free (2 * i + 1) % max 1 w.2)

/-- Writes byte `o` of a tensor under a bit mask. A write outside the windows is dropped (R408); one beyond the extent
changes some element within the partition's storage (R119). -/
def tensorPut (p : Nat) (t : Tensor) (o mask v : Nat) (s : State) : State :=
  let put := fun (a : Nat) (s : State) =>
    dramWrite a [BitVec.ofNat 8 (mergeBits (dramByte s a).toNat mask v)] s
  if t.size ≤ o then (match strayAddr s p o with | none => s | some a => put a s)
  else if t.flask then
    let b := BitVec.ofNat 8 (mergeBits (flaskByte s t.object o).toNat mask v)
    { s with flaskMem := mapUpd [] s.flaskMem t.object (fun m => mapSet none m o (some b)) }
  else if inWins s p (t.home + o) 1 then put (t.home + o) s
  else s

/-- Writes byte `o` of a scratch tensor under a bit mask; the bits beside it that nothing has written are free. -/
def scratchPut (s : State) (h : Nat) (o mask v : Nat) (m : SMap (SMap (Option Byte))) : SMap (SMap (Option Byte)) :=
  mapUpd [] m h (fun b =>
    mapSet none b o (some (BitVec.ofNat 8
      (mergeBits ((mapGet none b o).getD (BitVec.ofNat 8 (Config.freeAt s.free o))).toNat mask v))))

/-- The byte writes (offset, mask, value) that store `w` bits of `x` at bit `b`. -/
def bitWrites (b w x : Nat) : List (Nat × Nat × Nat) :=
  let n := ceilDiv (b % 8 + w) 8
  let v := x % 2 ^ w * 2 ^ (b % 8)
  let m := (2 ^ w - 1) * 2 ^ (b % 8)
  tabulate (fun i => (b / 8 + i, m / 256 ^ i % 256, v / 256 ^ i % 256)) n 0

/-- The byte writes of a row of elements from element `i` on: its codes, then the scale bytes of its blocks. What lies beyond the
extent is given offsets past it (R119). -/
def rowWrites (t : Tensor) (f i : Nat) (r : Row) : List (Nat × Nat × Nat) :=
  let held := elemsHeld f false t.size
  ((r.codes.zip (tabulate (fun k => k) r.codes.length i)).flatMap
    (fun e => bitWrites ((if held ≤ e.2 then t.size * 8 else 0) + e.2 * fmtBits f) (fmtBits f) e.1))
  ++ (r.scales.zip (tabulate (fun k => k) r.scales.length (i / 32))).map
    (fun e => (if held ≤ e.2 * 32 then t.size + 2 ^ 40 + e.2 else scaleOff f false t.size + e.2, 255, e.1))

/-- Writes a row to a tensor in DRAM or Flask, on behalf of partition `p`. -/
def writeElems (p : Nat) (t : Tensor) (f i : Nat) (r : Row) (s : State) : State :=
  let e := elemSpan f i r.codes.length
  let s := if t.flask ∨ r.codes = [] ∨ t.size < e.1 + e.2 ∨ inWins s p (t.home + e.1) e.2 then s
    else windowViolation p (t.home + e.1) s
  let s := if t.flask then s else { s with poison := poisonAfter (t.home + e.1) e.2 s.poison }
  freeUse 1 ((rowWrites t f i r).foldl (fun s b => tensorPut p t b.1 b.2.1 b.2.2 s) s)

/-- Where a write beyond the extent of a scratch tensor of partition `p` lands (R119): some byte of one of its scratch tensors, or of
its windows. -/
def strayScratch (s : State) (p i : Nat) : Option ((Nat × Nat) ⊕ Nat) :=
  let ts := s.tensors.filterMap (fun e => (e.2.filter (fun t => t.part == p && t.cls == 1 && t.size != 0)).map (fun t => (e.1, t.size)))
  match ts[Config.freeAt s.free (2 ^ 41 + 2 * i) % (ts.length + 1)]? with
  | some (h, n) => some (.inl (h, Config.freeAt s.free (2 ^ 41 + 2 * i + 1) % n))
  | none => (strayAddr s p i).map Sum.inr

/-- Writes a row to a scratch tensor of partition `p`; each byte beyond the registered extent changes another byte of the partition's
storage (R119). -/
def writeScratch (p h : Nat) (t : Tensor) (f i : Nat) (r : Row) (x : State × SMap (SMap (Option Byte))) :
    State × SMap (SMap (Option Byte)) :=
  (rowWrites t f i r).foldl (fun x b =>
    if t.size ≤ b.1 then
      match strayScratch x.1 p b.1 with
      | none => x
      | some (.inl (g, o)) => (x.1, scratchPut x.1 g o b.2.1 b.2.2 x.2)
      | some (.inr a) => (dramWrite a [BitVec.ofNat 8 (mergeBits (dramByte x.1 a).toNat b.2.1 b.2.2)] x.1, x.2)
    else (x.1, scratchPut x.1 h b.1 b.2.1 b.2.2 x.2)) x

end Sys2Proof.Machine
end

