-- ==== Sys2Proof/Machine/Kv.lean ====
section
/-!
DEFINITION. The Cooler (spec/06): page-table entries, request contexts, frames, reservation, settling and release.
-/
namespace Sys2Proof.Machine

def PG_FREE : Nat := 0
def PG_STAGED : Nat := 1
def PG_LIVE : Nat := 2
def PG_RELEASING : Nat := 3

/-- No entry (R168, R170). -/
def noPage : Nat := 0xFFFFF

/-- Page-table entries that one cluster owns (R168). -/
def pagesPerCluster : Nat := 131072

/-! ### Entries and contexts -/

/-- Page-table entry `i` (R168). -/
def kvEntry (s : State) (i : Nat) : Nat := (mapGet 0 s.kvEntries i).toNat

/-- Sets page-table entry `i`; a FREE entry is 0 (R409). -/
def kvSetEntry (i v : Nat) (s : State) : State :=
  { s with kvEntries := mapSet 0 s.kvEntries i (BitVec.ofNat 64 v) }

def pgState (e : Nat) : Nat := fieldGet e 62 61
def pgNext (e : Nat) : Nat := fieldGet e 53 34
def pgFrame (e : Nat) : Nat := fieldGet e 33 6 * 1024
def pgK (e : Nat) : Nat := fieldGet e 60 57

/-- The context of a request and a KV layer tensor (R170). -/
structure KvCtx where
  head : Nat
  tail : Nat
  len : Nat
  staged : Nat
  pk : Nat
  cstate : Nat
  deriving DecidableEq, Repr

/-- A context with no page (R498). -/
def ctxEmpty : KvCtx := { head := noPage, tail := noPage, len := 0, staged := 0, pk := 0, cstate := 0 }

/-- Key of the context of request `r` in tensor `h`. -/
def ctxKey (r h : Nat) : Nat := h * 4096 + r

/-- The 128-bit context word. -/
def ctxWord (c : KvCtx) (r h : Nat) : Nat :=
  c.head * 2 ^ 108 + c.tail * 2 ^ 88 + c.len * 2 ^ 67 + c.staged * 2 ^ 54 + c.pk * 2 ^ 50 + c.cstate * 2 ^ 48
    + r * 2 ^ 32 + h

/-- The context held for a pair; none held is EMPTY. -/
def ctxGet (s : State) (r h : Nat) : KvCtx :=
  let v := (mapGet 0 s.kvCtxs (ctxKey r h)).toNat
  if v = 0 then ctxEmpty
  else { head := fieldGet v 127 108, tail := fieldGet v 107 88, len := fieldGet v 87 67, staged := fieldGet v 66 54
         pk := fieldGet v 53 50, cstate := fieldGet v 49 48 }

/-- Sets a context; an EMPTY one is held as none. -/
def ctxSet (r h : Nat) (c : KvCtx) (s : State) : State :=
  { s with kvCtxs := mapSet 0 s.kvCtxs (ctxKey r h) (if c = ctxEmpty then 0 else BitVec.ofNat 128 (ctxWord c r h)) }

/-- Changes the context of request `r` in tensor `h`. -/
def ctxUpd (r h : Nat) (f : KvCtx → KvCtx) (s : State) : State := ctxSet r h (f (ctxGet s r h)) s

/-- The entries of a run of pages from entry `i` on, by NEXT; `fuel` bounds them. -/
def kvChain (s : State) : Nat → Nat → List Nat
  | 0, _ => []
  | fuel + 1, i => if i = noPage then [] else i :: kvChain s fuel (pgNext (kvEntry s i))

/-- The pages of a context in order. -/
def kvPages (s : State) (c : KvCtx) : List Nat := kvChain s 65536 c.head

/-- The KV layer tensors of partition `p`, by handle. -/
def kvTensors (s : State) (p : Nat) : List (Nat × Tensor) :=
  s.tensors.filterMap (fun e =>
    match e.2 with
    | some t => if t.part = p ∧ t.cls = 2 then some (e.1, t) else none
    | none => none)

/-! ### Pages (R166, R167) -/

/-- Bytes of one position of one head in one plane. -/
def kvRowBytes (t : Tensor) : Nat := bytesOf t.kvFormat t.width

/-- Scale bytes of one position of one head. -/
def kvScaleBytes (t : Tensor) : Nat := if fmtBlock t.kvFormat then t.width / 32 else 0

/-- Bytes of one position: T of R167. -/
def kvT (t : Tensor) : Nat := 2 * t.heads * (kvRowBytes t + kvScaleBytes t)

/-- The frame unit U of R167. -/
def kvU (t : Tensor) : Nat := ceilDiv (16 * kvT t) 1024 * 1024

/-- The page size a request takes in a tensor with its first page (R166). -/
def kvPickK (pageK maxLen : Nat) : Nat :=
  if pageK ≠ 0 then max 4 (min 11 pageK)
  else (firstIdx (fun k => decide (maxLen ≤ 64 * 2 ^ k)) 8 4).getD 11

/-- Address of head `h`'s data in a plane of a page: element rows, then scales (R167). -/
def kvHeadAddr (t : Tensor) (frame k plane h : Nat) : Nat :=
  frame + (plane * t.heads + h) * (2 ^ k * (kvRowBytes t + kvScaleBytes t))

/-- Address of the element row of position `i` within a page. -/
def kvElemAddr (t : Tensor) (frame k plane h i : Nat) : Nat := kvHeadAddr t frame k plane h + i * kvRowBytes t

/-- Address of the scale bytes of that position. -/
def kvScaleAddr (t : Tensor) (frame k plane h i : Nat) : Nat :=
  kvHeadAddr t frame k plane h + 2 ^ k * kvRowBytes t + i * kvScaleBytes t

/-! ### Frames: buddy trees over the frame region (R167; the choice among free blocks is log 24) -/

/-- The trees of `n` units in address order: (first unit, units), the largest powers of two that fit. -/
def kvTrees : Nat → Nat → Nat → List (Nat × Nat)
  | 0, _, _ => []
  | i + 1, b, n => if bitOf n i then (b, 2 ^ i) :: kvTrees i (b + 2 ^ i) n else kvTrees i b n

/-- Units of a tensor's frame region that are carved. -/
def kvUnits (t : Tensor) : Nat := t.size / max 1 (kvU t)

/-- Units [o, o + n) are free. -/
def unitsFree (blocks : List (Nat × Nat)) (o n : Nat) : Bool :=
  blocks.all (fun b => decide (o + n ≤ b.1 ∨ b.1 + b.2 ≤ o))

/-- The lowest free block of `n` units, aligned in its tree. -/
def kvFindFrame (t : Tensor) (n : Nat) : Option Nat :=
  (kvTrees 40 0 (kvUnits t)).findSome? (fun tr =>
    if n ≤ tr.2 then (firstIdx (fun k => unitsFree t.blocks (tr.1 + k * n) n) (tr.2 / n) 0).map (fun k => tr.1 + k * n)
    else none)

/-- Changes the tensor of a handle. -/
def updTensor (h : Nat) (f : Tensor → Tensor) (s : State) : State :=
  { s with tensors := mapUpd none s.tensors h (fun t => t.map f) }

/-! ### Pool (R168, R190, R192) -/

/-- The clusters of partition `p`. -/
def clustersOf (s : State) (p : Nat) : List Nat :=
  (tabulate (fun c => c) 8 0).filter (fun c => bitOf (fget s (SEC_PART_CLUSTERS p)) c)

/-- Entry `i` belongs to the pool of partition `p`. -/
def inPool (s : State) (p i : Nat) : Bool := (clustersOf s p).contains (i / pagesPerCluster)

/-- Entries of cluster `c` in use. -/
def pagesUsed (s : State) (c : Nat) : Nat := (s.kvEntries.filter (fun e => e.1 / pagesPerCluster == c)).length

/-- The lowest FREE entry of the pool. While clusters leave the partition none of theirs is taken, and as many FREE
entries are kept outside them as are in use inside them (R404). -/
def kvFreeEntry (s : State) (p : Nat) : Option Nat :=
  let leaving := (partOf s p).leaving
  let stay := (clustersOf s p).filter (fun c => !bitOf leaving c)
  let go := (clustersOf s p).filter (bitOf leaving)
  let free := stay.foldl (fun n c => n + (pagesPerCluster - pagesUsed s c)) 0
  let kept := go.foldl (fun n c => n + pagesUsed s c) 0
  if free ≤ kept then none
  else stay.findSome? (fun c => firstIdx (fun i => kvEntry s i == 0) pagesPerCluster (c * pagesPerCluster))

/-- Raises EV_KV_LOW once per crossing of the low-water level, in percent; `armed` is kept by key (R192). -/
def kvLowCheck (p key free total : Nat) (s : State) : State :=
  let pct := fget s KV_CTRL_LOW_PCT
  let low := mapGet false s.kvLow key
  if !low && decide (free * 100 < pct * total) then
    postEvent p .kvLow 0xFFF 0 (raise .kvLow p (fset KV_STATUS_LOW 1
      { s with kvLow := mapSet false s.kvLow key true }))
  else if low && decide ((pct + 5) * total < free * 100) then { s with kvLow := mapSet false s.kvLow key false }
  else s

/-- Free units of a tensor's frame region. -/
def kvFreeUnits (t : Tensor) : Nat := kvUnits t - t.blocks.foldl (fun n b => n + b.2) 0

/-- KV_POOLp follows the entries, and the low-water tests are made (R190, R192). -/
def kvSync (p : Nat) (s : State) : State :=
  let mine := s.kvEntries.filter (fun e => inPool s p e.1)
  let total := pagesPerCluster * (clustersOf s p).length
  let free := total - mine.length
  let s := fset (KV_POOL_RESERVED p) ((mine.filter (fun e => pgState e.2.toNat == PG_STAGED)).length)
    (fset (KV_POOL_FREE p) free (fset (KV_POOL_ENTRIES p) total s))
  let s := kvLowCheck p p free total s
  (kvTensors s p).foldl (fun s e => kvLowCheck p (8 + e.1) (kvFreeUnits e.2) (kvUnits e.2) s) s

/-! ### Reservation (R172) -/

/-- Takes one page for request `r` in tensor `h` after page `prev`; a frame region on a lost stack has none. -/
def kvTakePage (p r h k prev : Nat) (s : State) : Option (State × Nat) :=
  match mapGet none s.tensors h, kvFreeEntry s p with
  | some t, some i =>
    let n := 2 ^ (k - 4)
    match (if onLostStack s t.home 1 then none else kvFindFrame t n) with
    | none => none
    | some o =>
      let e := 2 ^ 63 + PG_STAGED * 2 ^ 61 + k * 2 ^ 57 + p * 2 ^ 54 + noPage * 2 ^ 34
        + (t.home + o * kvU t) / 1024 * 2 ^ 6
      let s := updTensor h (fun t => { t with blocks := t.blocks ++ [(o, n)] }) (kvSetEntry i e s)
      let s := if prev = noPage then s else kvSetEntry prev (fieldSet (kvEntry s prev) 53 34 i) s
      let c := ctxGet s r h
      some (ctxSet r h { c with head := if c.head = noPage then i else c.head, pk := k, cstate := 1 } s, i)
  | _, _ => none

/-- Takes `n` pages one after another. -/
def kvTakePages (p r h k : Nat) : Nat → Nat → State → Option State
  | 0, _, s => some s
  | n + 1, prev, s =>
    match kvTakePage p r h k prev s with
    | none => none
    | some (s, i) => kvTakePages p r h k n i s

/-- Reserves what request `r` with `len` committed positions can need for `n` rows in tensor `h`. -/
def kvReserveIn (p r h len n pageK maxLen : Nat) (s : State) : Option State :=
  let c := ctxGet s r h
  let k := if c.pk = 0 then kvPickK pageK maxLen else c.pk
  let need := ceilDiv (len + n) (2 ^ k) - ceilDiv len (2 ^ k)
  let last := ((kvPages s c).getLast?).getD noPage
  kvTakePages p r h k need last s

/-- Reserves in every KV layer tensor of the partition, all or nothing. -/
def kvReserve (p r len n pageK maxLen : Nat) (s : State) : Option State :=
  (kvTensors s p).foldl (fun o e => o.bind (kvReserveIn p r e.1 len n pageK maxLen)) (some s)

/-! ### Settling and release (R176, R178, R188) -/

/-- Mirrors of the page in entry `i` go with it (R169, R265). -/
def mirrorForget (i : Nat) (s : State) : State :=
  if (mirrorsOf s).any (fun m => m.page && m.key == i) then
    (tabulate (fun k => k) 6 0).foldl (fun s k =>
      updHbm k (fun x => { x with mirrors := x.mirrors.filter (fun m => !(m.page && m.key == i)) }) s) s
  else s

/-- An entry and its frame become FREE. -/
def kvFreePage (h i : Nat) (s : State) : State :=
  let s := mirrorForget i { s with kvStamps := mapSet 0 s.kvStamps i 0 }
  match mapGet none s.tensors h with
  | none => statInc KV_STAT_FREED (kvSetEntry i 0 s)
  | some t =>
    let a := pgFrame (kvEntry s i)
    let o := (a - t.home) / max 1 (kvU t)
    statInc KV_STAT_FREED (kvSetEntry i 0
      (if t.home ≤ a ∧ a < t.home + t.size then
        updTensor h (fun t => { t with blocks := t.blocks.filter (fun b => b.1 != o) }) s else s))

/-- Puts the entries of a run in state `v`. -/
def kvMark (v : Nat) (l : List Nat) (s : State) : State :=
  l.foldl (fun s i => kvSetEntry i (fieldSet (kvEntry s i) 62 61 v) s) s

/-- Settles the context of request `r` in tensor `h`: `c` of `n` staged positions are kept (R176). -/
def kvSettle (r h c : Nat) (s : State) : State :=
  let x := ctxGet s r h
  if x = ctxEmpty then s
  else
    let pages := kvPages s x
    let keep := ceilDiv (x.len + c) (2 ^ x.pk)
    let kept := pages.take keep
    let s := (pages.drop keep).foldl (fun s i => kvFreePage h i s) s
    let s := kvMark PG_LIVE kept s
    match kept.getLast? with
    | none => ctxSet r h ctxEmpty s
    | some i =>
      ctxSet r h { x with tail := i, len := x.len + c, staged := 0 }
        (kvSetEntry i (fieldSet (kvEntry s i) 53 34 noPage) s)

/-- The pages of a request that has ended become RELEASING (R188). -/
def kvRelease (p r : Nat) (s : State) : State :=
  (kvTensors s p).foldl (fun s e =>
    let x := ctxGet s r e.1
    if x = ctxEmpty then s
    else ctxSet r e.1 { x with cstate := 2 } (kvMark PG_RELEASING (kvPages s x) s)) s

/-- The STAGED pages of a context that is being released become FREE at the end of the step that staged them (R188); its other pages
are RELEASING. -/
def kvUnstage (r h : Nat) (s : State) : State :=
  let x := ctxGet s r h
  let pages := kvPages s x
  let kept := pages.filter (fun i => pgState (kvEntry s i) != PG_STAGED)
  let s := (pages.filter (fun i => pgState (kvEntry s i) == PG_STAGED)).foldl (fun s i => kvFreePage h i s) s
  match kept.getLast? with
  | none => ctxSet r h ctxEmpty s
  | some i => ctxSet r h { x with staged := 0 } (kvSetEntry i (fieldSet (kvEntry s i) 53 34 noPage) s)

/-- The contexts of partition `p` whose tensor has been released in the open step: their STAGED pages go at its end (R188). -/
def kvUnstageAll (p : Nat) (s : State) : State :=
  (s.kvCtxs.map Prod.fst).foldl (fun s k =>
    let c := ctxGet s (k % 4096) (k / 4096)
    if c.cstate = 2 ∧ fieldGet (kvEntry s c.head) 56 54 = p then kvUnstage (k % 4096) (k / 4096) s else s) s

/-- The RELEASING pages of request `r` in tensor `h` become FREE, and the context ceases (R498). -/
def kvFreeCtx (r h : Nat) (s : State) : State :=
  let x := ctxGet s r h
  ctxSet r h ctxEmpty ((kvPages s x).foldl (fun s i => kvFreePage h i s) s)

/-- The partition of a context, as its first page names it (R168). -/
def ctxPart (s : State) (c : KvCtx) : Nat := fieldGet (kvEntry s c.head) 56 54

/-- At a step boundary of partition `p`: every RELEASING page becomes FREE (R178). -/
def kvBoundary (p : Nat) (s : State) : State :=
  kvSync p ((s.kvCtxs.map Prod.fst).foldl (fun s k =>
    let c := ctxGet s (k % 4096) (k / 4096)
    if c.cstate = 2 ∧ ctxPart s c = p then kvFreeCtx (k % 4096) (k / 4096) s else s) s)

/-- Every page of a request is FREE. -/
def kvNoPages (s : State) (r : Nat) : Bool := s.kvCtxs.all (fun c => c.1 % 4096 != r)

/-! ### Reading and writing positions -/

/-- Writes one position of one head in one plane (R173), with its scale bytes. -/
def kvWrite (p : Nat) (t : Tensor) (frame k plane h i : Nat) (r : Row) (s : State) : State :=
  let a := kvElemAddr t frame k plane h i
  let bits := (r.codes.zip (tabulate (fun j => j) r.codes.length 0)).flatMap
    (fun e => bitWrites (e.2 * fmtBits t.kvFormat) (fmtBits t.kvFormat) e.1)
  let s := if inWins s p a (kvRowBytes t) then
      bits.foldl (fun s b =>
        dramWrite (a + b.1) [BitVec.ofNat 8 (mergeBits (dramByte s (a + b.1)).toNat b.2.1 b.2.2)] s) s
    else windowViolation p a s
  let b := kvScaleAddr t frame k plane h i
  if r.scales = [] ∨ !inWins s p b r.scales.length then s else dramWrite b (r.scales.map (BitVec.ofNat 8)) s

/-- One position of one head in one plane, read from its page; outside the windows zeros (R408). -/
def kvRead (s : State) (p : Nat) (t : Tensor) (frame k plane h i : Nat) : Row :=
  let a := kvElemAddr t frame k plane h i
  let b := kvScaleAddr t frame k plane h i
  let v := if inWins s p a (kvRowBytes t) then ofLe (dramRead s a (kvRowBytes t)) else 0
  { codes := tabulate (fun j => v / 2 ^ (j * fmtBits t.kvFormat) % 2 ^ fmtBits t.kvFormat) t.width 0
    scales := if inWins s p b (kvScaleBytes t) then (dramRead s b (kvScaleBytes t)).map BitVec.toNat
      else List.replicate (kvScaleBytes t) 0 }

end Sys2Proof.Machine
end

