-- ==== Sys2Proof/Machine/Frames.lean ====
section
/-!
DEFINITION. Frame buffers of the codec slots as programs see them (R289 to R291): which are held, which is newest, and
when a READY buffer becomes FREE.
-/
namespace Sys2Proof.Machine

def BUF_FREE : Nat := 0
def BUF_WRITING : Nat := 1
def BUF_READY : Nat := 2

/-- Codec slot `i`. -/
def slotGet (s : State) (i : Nat) : Slot := mapGet slotReset s.slots i

/-- Changes codec slot `i`. -/
def slotUpd (i : Nat) (f : Slot → Slot) (s : State) : State := { s with slots := mapUpd slotReset s.slots i f }

/-- An open step holds buffer `k` of slot `i` (R290). -/
def bufHeld (s : State) (i k : Nat) : Bool :=
  s.parts.any (fun e =>
    match e.2.step with
    | none => false
    | some st => st.holds.contains (i, k))

/-- The buffers of a slot with their numbers. -/
def bufList (x : Slot) : List (FrameBuf × Nat) := x.bufs.zip (tabulate (fun k => k) x.bufs.length 0)

/-- The number of the newest READY buffer, by frame number (R290). -/
def newestReady (x : Slot) : Option Nat :=
  ((bufList x).foldl (fun (m : Option (Nat × Nat)) b =>
    if b.1.state = BUF_READY then
      match m with
      | none => some (b.1.seq, b.2)
      | some (q, k) => if serialBefore 24 q b.1.seq then some (b.1.seq, b.2) else some (q, k)
    else m) none).map Prod.snd

/-- Changes buffer `k`. -/
def bufUpd (k : Nat) (f : FrameBuf → FrameBuf) (x : Slot) : Slot :=
  { x with bufs := (bufList x).map (fun b => if b.2 = k then f b.1 else b.1) }

/-- One bit per buffer for which `f` holds. -/
def bufMask (f : FrameBuf × Nat → Bool) (x : Slot) : Nat :=
  (bufList x).foldl (fun m b => if f b then setBit m b.2 true else m) 0

/-- STATUS of slot `i` shows its READY and HELD buffers, and CFG.STATE whether one is FREE (R299). -/
def slotShow (i : Nat) (s : State) : State :=
  let x := slotGet s i
  let s := fset (VCC_SLOT_STATUS_READY i) (bufMask (fun b => b.1.state == BUF_READY) x) s
  let s := fset (VCC_SLOT_STATUS_HELD i) (bufMask (fun b => bufHeld s i b.2) x) s
  let free := x.bufs.any (fun b => b.state == BUF_FREE || b.state == BUF_WRITING)
  if x.bufs.isEmpty then s
  else if fget s (VCC_SLOT_CFG_STATE i) = 2 ∧ !free then fset (VCC_SLOT_CFG_STATE i) 3 s
  else if fget s (VCC_SLOT_CFG_STATE i) = 3 ∧ free then fset (VCC_SLOT_CFG_STATE i) 2 s
  else s

/-- Automatic release (R291): with EXPLICIT clear, a READY buffer that no step holds becomes FREE once a newer frame is
READY. -/
def autoRelease (i : Nat) (s : State) : State :=
  if fbit s (VCC_SLOT_CFG_EXPLICIT i) then slotShow i s
  else
    let x := slotGet s i
    let old := (bufList x).filter (fun b => b.1.state == BUF_READY && newestReady x != some b.2 && !bufHeld s i b.2)
    slotShow i (old.foldl (fun s b => slotUpd i (bufUpd b.2 (fun y => { y with state := BUF_FREE })) s) s)

/-- A handle is retired: it names no tensor, the ACX and remote peers reach it no more. -/
def dropTensor (h : Nat) (s : State) : State :=
  if h = 0 then s
  else
    { s with
      tensors := mapSet none s.tensors h none
      acxHandles := s.acxHandles.filter (fun e => (e.2.map Prod.fst) != some h)
      mrs := s.mrs.filter (fun e => (e.2.map MemRegion.handle) != some h)
      kvLow := mapSet false s.kvLow (8 + h) false }

/-- A slot that is being disabled, and none of whose buffers a step holds, retires its handles and gives its memory
back (R276, R298). -/
def slotRetire (i : Nat) (s : State) : State :=
  let x := slotGet s i
  if x.disabling && (bufList x).all (fun b => !bufHeld s i b.2) then
    let s := x.bufs.foldl (fun s b => dropTensor b.mapHandle (dropTensor b.handle s)) s
    let s := dropTensor x.latest s
    let s := regSet (VCC_SLOT_STATUS i) 0 (fset (VCC_SLOT_LATEST_ALIAS i) 0 s)
    { s with slots := mapSet slotReset s.slots i slotReset }
  else s

/-- The codec cores that slot `i` is assigned to (R275). -/
def slotCores (s : State) (i : Nat) : List Nat :=
  [0, 1, 2, 3].filter (fun c => bitOf (fget s (VCC_SLOT_CFG_CORES_USED i)) c)

/-- The load that slot `i` takes on each of its cores (R274). -/
def slotShare (s : State) (i : Nat) : Nat :=
  ceilDiv (fget s (VCC_SLOT_CFG_LOAD i)) (max 1 (slotCores s i).length)

/-- Codec slot `i` is disabled: it is IDLE, its load returns, and its handles are retired when no step holds them. -/
def slotStop (i : Nat) (s : State) : State :=
  if fbit s (VCC_SLOT_CFG_EN i) then
    let n := slotShare s i
    let s := (slotCores s i).foldl (fun s c =>
      fset (VCC_CORE_SLOTS c) (fget s (VCC_CORE_SLOTS c) - 1) (fset (VCC_CORE_LOAD c) (fget s (VCC_CORE_LOAD c) - n) s)) s
    let s := fset (VCC_SLOT_CFG_CORES_USED i) 0 (fset (VCC_SLOT_CFG_LOAD i) 0 s)
    let s := fset (VCC_SLOT_CFG_STATE i) 0 (fset (VCC_SLOT_CFG_EN i) 0 s)
    slotRetire i (slotUpd i (fun x => { x with disabling := true }) s)
  else s

/-- Buffers that a step held are let go once it has ended (R290, R291, R298). -/
def letGo (holds : List (Nat × Nat)) (s : State) : State :=
  (holds.foldl (fun (l : List Nat) h => if l.contains h.1 then l else l ++ [h.1]) []).foldl
    (fun s i => if (slotGet s i).disabling then slotRetire i s else autoRelease i s) s

end Sys2Proof.Machine
end

