-- ==== Sys2Proof/Machine/NetOps.lean ====
section
/-!
DEFINITION. Sending frames: MAC addresses (R322), which port transmits in which module state (R324), and egress gating
by the fence, by SAFE and FENCED, and by the duty grant (R324, R456, R463).
-/
namespace Sys2Proof.Machine

/-- What a frame is, as far as gating and slots tell frames apart: `acx p` is a frame that the ACX sends for partition `p`. -/
inductive TxKind where
  | rollcall
  | ptp
  | mgmt
  | acx (p : Nat)
  | service (p : Nat)
  deriving DecidableEq, Repr

/-- The MAC address of the ACX on port `p` (R322). -/
def acxMac (s : State) (p : Nat) : BitVec 48 := BitVec.ofNat 48 (fget s NET_MAC_BASE_BASE + 16 * p)

/-- The MAC address of partition `n` on port `p` (R322). -/
def partMac (s : State) (p n : Nat) : BitVec 48 := BitVec.ofNat 48 (fget s NET_MAC_BASE_BASE + 16 * p + 1 + n)

/-- Port `p` is up. -/
def portUp (s : State) (p : Nat) : Bool := fbit s (NET_PORT_STATUS_LINK p)

/-- The ports carry Roll-call only, and port 0 alone (R324). -/
def portZeroOnly (s : State) : Bool := mode s == MODE_STANDBY || mode s == MODE_RECOVERY

/-- Egress is gated to Roll-call, PTP and ACX management traffic (R324, R463). -/
def egressNarrow (s : State) : Bool :=
  mode s == MODE_SAFE || mode s == MODE_FENCED || fbit s HLM_QUORUM_FENCED

/-- Partition `p` carries the service identity while the duty grant is away (R456). -/
def dutyGated (s : State) (p : Nat) : Bool := bitOf (fget s HLM_DUTY_SVC_MASK) p && !fbit s HLM_DUTY_GRANT

/-- A frame of this kind is discarded and counted. -/
def txGated (s : State) (k : TxKind) : Bool :=
  match k with
  | .acx p => egressNarrow s || dutyGated s p
  | .service p => egressNarrow s || dutyGated s p
  | _ => false

/-- Port `p` can carry a frame of this kind at all. -/
def txPort (s : State) (k : TxKind) (p : Nat) : Bool :=
  portUp s p && mode s != MODE_OFF && (!portZeroOnly s || (p == 0 && k == .rollcall))

/-! ### Transmit slots (R323; log 72) -/

/-- The owner of die traffic among the owners of slots: partitions 0 to 7, and 8. -/
def ownerDie : Nat := 8

/-- The owner whose slots a frame takes: ACX, Roll-call and PTP traffic take the die's. -/
def txOwner : TxKind → Nat
  | .service p => p
  | _ => ownerDie

/-- The place of the greatest of a list of credits, the first of equals. -/
def greatest (l : List Int) : Nat :=
  ((l.zip (tabulate (fun i => i) l.length 0)).foldl (fun (b : Option (Int × Nat)) x =>
    match b with
    | none => some x
    | some y => if y.1 < x.1 then some x else some y) none).elim 0 Prod.snd

/-- Deals `n` slots by shares, each slot to the owner that is furthest behind: as evenly as the count allows. -/
def dealSlots (shares : List Nat) : Nat → List Int → List Nat
  | 0, _ => []
  | n + 1, credits =>
    let c := (credits.zip shares).map (fun (x : Int × Nat) => x.1 + (x.2 : Int))
    let k := greatest c
    let total : Int := (shares.foldl (fun a b => a + b) 0 : Nat)
    k :: dealSlots shares n ((c.zip (tabulate (fun i => i) c.length 0)).map (fun x => if x.2 = k then x.1 - total else x.1))

/-- The owners of the 60 slots beside the die's: partition p as often as its EGRESS share says; 8 stands for nobody here. -/
def dealt (s : State) : List Nat :=
  let e := (tabulate (fun p => fget s (NET_PART_W3_EGRESS p)) 8 0)
  dealSlots (e ++ [60 - e.foldl (fun a b => a + b) 0]) 60 (List.replicate 9 0)

/-- Owner `o` has slot `k` of a frame of 64: slots 0, 16, 32 and 48 are the die's. -/
def ownsSlot (deal : List Nat) (o k : Nat) : Bool :=
  if k % 16 = 0 then o == ownerDie else o != ownerDie && deal[k - k / 16 - 1]? == some o

/-- Nanoseconds of a slot, and of `n` bytes with their overhead of 38 bytes, on port `p` (the overhead is PRESUMED; log 72). -/
def slotNs (s : State) (p : Nat) : Nat := 400 * 2 ^ fget s (NET_PORT_STATUS_MODE_UP p)
def wireNs (s : State) (p n : Nat) : Nat := ceilDiv ((n + 38) * 8 * 2 ^ fget s (NET_PORT_STATUS_MODE_UP p)) 200

/-- The first of `n` slots from `k` on in which owner `o` can send for `d` ns from `t` on, within its own slots; slot 0 of a frame
is an open value. -/
def slotFrom (deal : List Nat) (phase l d o t : Nat) : Nat → Nat → Option Nat
  | 0, _ => none
  | n + 1, k =>
    let a := max t (k * l)
    let own := fun (j : Nat) => ownsSlot deal o ((j + phase) % 64)
    if own k && (decide (a + d ≤ (k + 1) * l) || own (k + 1) && decide (a + d ≤ (k + 2) * l)) then some a
    else slotFrom deal phase l d o t n (k + 1)

/-- Until when owner `o` transmits on port `p`. -/
def egressKey (s : State) (p o : Nat) : Nat := 16 * p + (if s.deferred.egress then 9 else o)

/-- When a frame of `n` bytes of owner `o` leaves port `p`: in fixed shares within the owner's slots, or never where it has none;
in the pooled mode as soon as the port is free. -/
def leavesAt (s : State) (p o n : Nat) : Option Nat :=
  let t := max s.now.toNat (mapGet 0 s.egress (egressKey s p o)).toNat
  if s.deferred.egress then some t
  else slotFrom (dealt s) (Config.freeNat (32 + p)) (slotNs s p) (wireNs s p n) o t 66 (t / slotNs s p)

/-- The port transmits for the owner until the frame has left. -/
def egressTake (p o n : Nat) (s : State) : State :=
  { s with egress := mapSet 0 s.egress (egressKey s p o)
             (BitVec.ofNat 64 ((leavesAt s p o n).elim (mapGet 0 s.egress (egressKey s p o)).toNat (fun t => t + wireNs s p n))) }

/-- Sends a frame on port `p`, or discards it (R323, R324, R456). -/
def sendFrame (k : TxKind) (p : Nat) (dst : BitVec 48) (data : List Byte) (s : State) : State :=
  if txGated s k then statInc NET_STAT_EGRESS_GATED s
  else if txPort s k p then
    { egressTake p (txOwner k) data.length s with
      out := .frame p dst data ((leavesAt s p (txOwner k) data.length).map (BitVec.ofNat 64)) :: s.out }
  else s

/-- Sends a RoCEv2 packet for partition `n` on port `p`, or discards it. Acknowledgements take the die's slots (R323). -/
def sendRoce (n p rqp : Nat) (x : RoceTx) (s : State) : State :=
  if txGated s (.service n) then statInc NET_STAT_EGRESS_GATED s
  else if txPort s (.service n) p then
    let o := if 4 ≤ x.op then ownerDie else n
    { egressTake p o x.data.length s with
      out := .roce p rqp x ((leavesAt s p o x.data.length).map (BitVec.ofNat 64)) :: s.out }
  else s

/-! ### Steering (R322) -/

/-- The addresses are those of partition `n` on port `p`: MAC, VLAN and IP (rows 3 and 4). -/
def partAddr (s : State) (p n : Nat) (a : NetAddr) : Bool :=
  let vlan := fget s (NET_PART_W0_VLAN n)
  let v4 := fget s (NET_PART_W0_IPV4 n)
  let v6 := fget s (NET_PART_W1_IPV6_HI n) * 2 ^ 64 + fget s (NET_PART_W2_IPV6_LO n)
  fbit s (NET_PART_W0_EN n) && a.dst == partMac s p n && (a.vlan.map BitVec.toNat).getD 0 == vlan
    && ((v4 != 0 && a.ipv4.map BitVec.toNat == some v4) || (v6 != 0 && a.ipv6.map BitVec.toNat == some v6))

/-- The partition whose RoCEv2 engine takes a datagram (row 3). -/
def roceTo (s : State) (p : Nat) (a : NetAddr) : Option Nat :=
  [0, 1, 2, 3, 4, 5, 6, 7].find? (fun n => partAddr s p n a)

/-- The slot that takes a datagram to UDP port `u` (row 4). -/
def slotTo (s : State) (p : Nat) (a : NetAddr) (u : BitVec 16) : Option Nat :=
  firstIdx (fun i => fbit s (VCC_SLOT_CFG_EN i) && fget s (VCC_SLOT_CFG_KIND i) != 1
    && fget s (VCC_SLOT_NET_PORT i) == p && fget s (VCC_SLOT_NET_UDP_PORT i) == u.toNat
    && partAddr s p (fget s (VCC_SLOT_CFG_PART i)) a) 64 0

/-- The partition whose MAC a frame bears (row 5). -/
def queueTo (s : State) (p : Nat) (a : NetAddr) : Option Nat :=
  [0, 1, 2, 3, 4, 5, 6, 7].find? (fun n => fbit s (NET_PART_W0_EN n) && a.dst == partMac s p n)

/-- A frame for the ACX's own queue (row 6): its MAC, broadcast or multicast. -/
def toAcx (s : State) (p : Nat) (a : NetAddr) : Bool := a.dst == acxMac s p || (a.dst.toNat / 2 ^ 40) % 2 == 1

/-- No row of R322 but the last takes a frame. -/
def noRow (s : State) (p : Nat) (a : NetAddr) : Bool := (queueTo s p a).isNone && !toAcx s p a

/-- The ports run as configured, or at least carry ingress (R324). -/
def portsServe (s : State) : Bool := decide (2 ≤ mode s) && !portZeroOnly s

/-- A received frame is dropped and counted. -/
def dropFrame (stat : Nat) (s : State) : State := fset NET_STATUS_ETH_DROP 1 (statInc stat s)

/-! ### Queue pairs (R325 to R327) -/

def QP_RESET : Nat := 0
def QP_INIT : Nat := 1
def QP_RTR : Nat := 2
def QP_RTS : Nat := 3
def QP_ERROR : Nat := 4

/-- Changes queue pair `n`, if it exists. -/
def qpUpd (n : Nat) (f : Qp → Qp) (s : State) : State :=
  { s with qps := mapUpd none s.qps n (fun q => q.map f) }

/-- A posted send completes (R326). -/
def postDone (x : Posted) (status : Nat) (s : State) : State :=
  cqDone x.queue x.no { typ := 1, status := status, tag := x.tag, value := 0, stamp := s.now, payload := 0 } s

/-- Every command posted to queue pair `n` completes with ST_QP_ERROR; its receive buffers are dropped. -/
def qpFlush (n : Nat) (s : State) : State :=
  match mapGet none s.qps n with
  | none => s
  | some q =>
    let s := q.sends.foldl (fun s x => postDone x ST_QP_ERROR s) s
    qpUpd n (fun q => { q with sends := [], recvs := [], got := 0, wr := none }) s

/-- Queue pair `n` moves to ERROR (R327): EV_QP_ERROR when it enters that state. -/
def qpError (n : Nat) (s : State) : State :=
  match mapGet none s.qps n with
  | none => s
  | some q =>
    if q.state = QP_ERROR then s
    else raise .qpError n (fset NET_STATUS_QP_ERR 1 (qpUpd n (fun q => { q with state := QP_ERROR }) (qpFlush n s)))

/-- Every queue pair moves to ERROR (R324: on entry to SAFE and FENCED). -/
def qpErrorAll (s : State) : State := (s.qps.map Prod.fst).foldl (fun s n => qpError n s) s

/-- Queue pair `n` is destroyed; what is posted completes with ST_QP_ERROR (DEDUCED from R327, log 32). -/
def qpDrop (n : Nat) (s : State) : State :=
  let s := qpFlush n s
  { s with qps := mapSet none s.qps n none }

end Sys2Proof.Machine
end

