-- ==== Sys2Proof/Machine/Serve.lean ====
section
/-!
DEFINITION. The request table (spec/07): entries, ends, latency objectives, pauses, the checks of a step's admission
(R171, R172, R204) and what a commit does to each request (R175, R176, R205).
-/
namespace Sys2Proof.Machine

def RQ_FREE : Nat := 0
def RQ_ADMITTED : Nat := 1
def RQ_ACTIVE : Nat := 2
def RQ_PAUSED : Nat := 3
def RQ_CANCELLED : Nat := 4
def RQ_LAPSED : Nat := 5
def RQ_DONE : Nat := 6

/-! ### Entries (R195) -/

def rqState (e : ReqEnt) : Nat := fieldGet e.w0.toNat 63 60
def rqPrio (e : ReqEnt) : Nat := fieldGet e.w0.toNat 56 54
def rqNoPause (e : ReqEnt) : Bool := bitOf e.w0.toNat 53
def rqHostPause (e : ReqEnt) : Bool := bitOf e.w0.toNat 52
def rqDraftLen (e : ReqEnt) : Nat := fieldGet e.w0.toNat 51 48
def rqPageK (e : ReqEnt) : Nat := fieldGet e.w0.toNat 47 44
def rqRejectRun (e : ReqEnt) : Nat := fieldGet e.w0.toNat 43 40
def rqRisk (e : ReqEnt) : Bool := bitOf e.w0.toNat 39 || bitOf e.w0.toNat 37
def rqFlags (e : ReqEnt) : Nat := fieldGet e.w0.toNat 39 36
def rqCompanion (e : ReqEnt) : Bool := bitOf e.w0.toNat 35
def rqMain (e : ReqEnt) : Nat := fieldGet e.w0.toNat 27 16
def rqLastStatus (e : ReqEnt) : Nat := fieldGet e.w0.toNat 15 0
def rqPromptLen (e : ReqEnt) : Nat := fieldGet e.w1.toNat 63 43
def rqMaxLen (e : ReqEnt) : Nat := fieldGet e.w1.toNat 42 22
def rqLen (e : ReqEnt) : Nat := fieldGet e.w1.toNat 21 1
def rqTtftTarget (e : ReqEnt) : Nat := fieldGet e.w5.toNat 63 40
def rqTbtTarget (e : ReqEnt) : Nat := fieldGet e.w5.toNat 39 16
def rqTokens (e : ReqEnt) : Nat := fieldGet e.w7.toNat 31 11
def rqEwma (e : ReqEnt) : Nat := fieldGet e.w7.toNat 63 32

/-- Sets bits [hi:lo] of word 0. -/
def rqSet0 (hi lo x : Nat) (e : ReqEnt) : ReqEnt := { e with w0 := BitVec.ofNat 64 (fieldSet e.w0.toNat hi lo x) }

/-- Sets bits [hi:lo] of word 1, 5, 6 or 7. -/
def rqSet1 (hi lo x : Nat) (e : ReqEnt) : ReqEnt := { e with w1 := BitVec.ofNat 64 (fieldSet e.w1.toNat hi lo x) }
def rqSet5 (hi lo x : Nat) (e : ReqEnt) : ReqEnt := { e with w5 := BitVec.ofNat 64 (fieldSet e.w5.toNat hi lo x) }
def rqSet6 (hi lo x : Nat) (e : ReqEnt) : ReqEnt := { e with w6 := BitVec.ofNat 64 (fieldSet e.w6.toNat hi lo x) }
def rqSet7 (hi lo x : Nat) (e : ReqEnt) : ReqEnt := { e with w7 := BitVec.ofNat 64 (fieldSet e.w7.toNat hi lo x) }

/-- Entry `i` of the request table. -/
def reqGet (s : State) (i : Nat) : ReqEnt := mapGet reqFree s.reqs i

/-- Changes entry `i`. -/
def reqUpd (i : Nat) (f : ReqEnt → ReqEnt) (s : State) : State := { s with reqs := mapUpd reqFree s.reqs i f }

/-- Entry `i` lies in the range of partition `p` (R194). -/
def reqInRange (s : State) (p i : Nat) : Bool :=
  decide (fget s (SRV_PART_BASE p) ≤ i ∧ i < fget s (SRV_PART_BASE p) + fget s (SRV_PART_COUNT p))

/-- The entries of partition `p`'s range that are not FREE, by index. -/
def reqsOf (s : State) (p : Nat) : List Nat :=
  (s.reqs.map Prod.fst).filter (fun i => reqInRange s p i && rqState (reqGet s i) != RQ_FREE)

/-- SRV_PARTp.IN_USE follows the entries. -/
def srvSync (p : Nat) (s : State) : State := fset (SRV_PART_IN_USE p) (reqsOf s p).length s

/-- Request `i` of partition `p` is live: ADMITTED or ACTIVE (R189). -/
def reqLive (s : State) (p i : Nat) : Bool :=
  reqInRange s p i && (rqState (reqGet s i) == RQ_ADMITTED || rqState (reqGet s i) == RQ_ACTIVE)

/-- The companion of main request `i`, if one is not FREE. -/
def reqCompanions (s : State) (p i : Nat) : List Nat :=
  (reqsOf s p).filter (fun j => rqCompanion (reqGet s j) && rqMain (reqGet s j) == i)

/-- The payload of a request's event record: its flags, and LAST_STATUS where the event ends it (R315). -/
def reqPayload (s : State) (ended : Bool) (i : Nat) : Nat :=
  rqFlags (reqGet s i) + (if ended then rqLastStatus (reqGet s i) * 65536 else 0)

/-- An event of a request: raised, and posted to its partition (R217). -/
def reqEvent (e : Ev) (p i : Nat) (s : State) : State :=
  postEvent p e i (reqPayload s (e == .reqEnded) i) (raise e i s)

/-! ### Ends (R178, R188, R189, R200) -/

/-- Request `i` alone takes a terminal state and reports a status; its pages become RELEASING. A PAUSED or unmarked
pause is discarded (R207). -/
def reqEndOne (p st code : Nat) (s : State) (i : Nat) : State :=
  let s := reqUpd i (fun e => { rqSet0 63 60 st (rqSet0 15 0 code e) with mark := 0 }) s
  let s := if st = RQ_CANCELLED then statInc SRV_STAT_CANCELLED s
    else if st = RQ_LAPSED then statInc SRV_STAT_LAPSED s else s
  if rqCompanion (reqGet s i) then s else reqEvent .reqEnded p i s

/-- Rows of an open step that are bound to request `j` are bound to no live request from now on (R93), and the step
reports the status of its end (R177). -/
def unbind (p j : Nat) (s : State) : State :=
  updPart p (fun pt => { pt with step := pt.step.map (fun st =>
    if st.segs.any (fun g => g.req == j) then
      { st with
        rows := st.rows.map (fun x => if x.bound ∧ x.req = j then { x with dropped := true } else x)
        segs := st.segs.filter (fun g => g.req != j)
        statuses := st.statuses ++ [(j, rqLastStatus (reqGet s j))] }
    else st) }) s

/-- Entry `i`, and its companion with it, returns to FREE (R196, R200). -/
def reqFreeOut (p i : Nat) (s : State) : State :=
  srvSync p ((i :: reqCompanions s p i).foldl
    (fun s j => { unbind p j s with reqs := mapSet reqFree s.reqs j reqFree }) s)

/-- Every page of request `i` and its companion is FREE. -/
def reqPagesFree (s : State) (p i : Nat) : Bool := (i :: reqCompanions s p i).all (fun j => kvNoPages s j)

/-- Requests whose RETIRE waits for their pages (mark 4) return to FREE (R196). -/
def retireBoundary (p : Nat) (s : State) : State :=
  (reqsOf s p).foldl (fun s i => if (reqGet s i).mark = 4 ∧ reqPagesFree s p i = true then reqFreeOut p i s else s) s

/-- Partition `p` has no step open and no publish window, so that it has no step boundary ahead (R178). -/
def atRest (s : State) (p : Nat) : Bool := (partOf s p).step.isNone && (partOf s p).pub.isNone

/-- A partition with no step open and no publish window frees released pages at once (R178). -/
def kvSettleNow (p : Nat) (s : State) : State :=
  if atRest s p then retireBoundary p (kvBoundary p s) else s

/-- Request `i` and its companion end in state `st` with status `code`; with `pages` their pages are released now. -/
def reqEnd (p i st code : Nat) (pages : Bool) (s : State) : State :=
  let all := i :: (reqCompanions s p i).filter (fun j => decide (rqState (reqGet s j) < RQ_CANCELLED))
  let s := all.foldl (reqEndOne p st code) s
  if pages then all.foldl (fun s j => kvRelease p j s) s else s

/-- Request `i` and its companion end by no doing of a step's commit (R105, R177, R198, R269, R270): its pages are released now where
the partition is at rest, else at its next step boundary; one that the last step bound is reported at the end of its publish
window. -/
def reqStop (p st code i : Nat) (s : State) : State :=
  let all := i :: reqCompanions s p i
  let s := reqEnd p i st code (atRest s p) s
  match (partOf s p).pub with
  | none => s
  | some b => updPart p (fun pt => { pt with
      pub := some { b with late := b.late ++ (all.filter b.bound.contains).map (fun j => (j, code)) } }) s

/-- The pages of requests of partition `p` that have ended become RELEASING. -/
def releaseEnded (p : Nat) (s : State) : State :=
  (reqsOf s p).foldl (fun s i => if RQ_CANCELLED ≤ rqState (reqGet s i) then kvRelease p i s else s) s

/-! ### Latency objectives (R208 to R210) -/

/-- The evaluation of R209 for request `i`; `emitted` tells that it emitted tokens at this evaluation. -/
def sloEval (p : Nat) (emitted : Nat → Bool) (s : State) (i : Nat) : State :=
  let e := reqGet s i
  let st := rqState e
  if rqCompanion e ∨ !(st == RQ_ADMITTED || st == RQ_ACTIVE || st == RQ_PAUSED) then s
  else
    let pct := fget s SRV_CTRL_RISK_PCT
    let tt := rqTtftTarget e * 1000
    let tb := rqTbtTarget e * 1000
    let first := since s e.w2
    let gap := since s e.w4
    let quiet := decide (1 ≤ rqTokens e) && !emitted i
    let ttRisk := tt != 0 && rqTokens e == 0 && decide (pct * tt ≤ first * 100)
    let ttMiss := bitOf e.w0.toNat 38 || (tt != 0 && rqTokens e == 0 && decide (tt < first))
    let ttRisk := ttRisk || (bitOf e.w0.toNat 39 && tt != 0 && rqTokens e == 0)
    let tbRisk := tb != 0 && decide (1 ≤ rqTokens e)
      && (decide (pct * tb ≤ rqEwma e * 100) || (quiet && decide (pct * tb ≤ gap * 100)))
    let tbMiss := bitOf e.w0.toNat 36 || (tb != 0 && quiet && decide (tb < gap))
    let risk := (ttRisk && !bitOf e.w0.toNat 39) || (tbRisk && !bitOf e.w0.toNat 37)
    let miss := (ttMiss && !bitOf e.w0.toNat 38) || (tbMiss && !bitOf e.w0.toNat 36)
    let s := reqUpd i (rqSet0 39 36 (8 * b2n ttRisk + 4 * b2n ttMiss + 2 * b2n tbRisk + b2n tbMiss)) s
    let s := if risk then reqEvent .sloAtRisk p i (statInc SRV_STAT_AT_RISK s) else s
    if miss then reqEvent .sloMissed p i (statInc SRV_STAT_MISSED s) else s

/-- The latency sample of main request `i`, which emits `t` ≥ 1 tokens at `tc` (R208), with the misses that a sample
shows (R209). -/
def sloSample (p i t : Nat) (tc : Stamp) (s : State) : State :=
  let e := reqGet s i
  let top := 2 ^ 32 - 1
  if rqTokens e = 0 then
    let ttft := min top ((tc - e.w2).toNat / 1000)
    let miss := rqTtftTarget e != 0 && decide (rqTtftTarget e < ttft) && !bitOf e.w0.toNat 38
    let s := reqUpd i (fun e => { rqSet0 39 39 0 (rqSet6 63 32 ttft e) with w4 := tc }) s
    if miss then reqEvent .sloMissed p i (statInc SRV_STAT_MISSED (reqUpd i (rqSet0 38 38 1) s)) else s
  else
    let x := (tc - e.w4).toNat / max 1 t
    let w := fieldGet e.w6.toNat 31 0
    let old := rqEwma e
    let ewma := if e.sampled then
        ((old : Int) + ((x : Int) - old) / (2 ^ fget s SRV_CTRL_EWMA_SHIFT : Nat)).toNat
      else x
    let miss := rqTbtTarget e != 0 && decide (rqTbtTarget e * 1000 < x) && !bitOf e.w0.toNat 36
    let s := reqUpd i (fun e =>
      { rqSet7 63 32 (min top ewma) (rqSet6 31 0 (max w (min top x)) e) with w4 := tc, sampled := true }) s
    if miss then reqEvent .sloMissed p i (statInc SRV_STAT_MISSED (reqUpd i (rqSet0 36 36 1) s)) else s

/-! ### Pauses at a step boundary (R207, R200) -/

/-- Request `i` and its companion take PAUSED or ACTIVE. -/
def reqPauseTo (p i st : Nat) (s : State) : State :=
  (i :: reqCompanions s p i).foldl (fun s j =>
    let x := rqState (reqGet s j)
    if x = RQ_ACTIVE ∨ x = RQ_PAUSED then reqUpd j (rqSet0 63 60 st) s else s) s

/-- The marks of the requests of partition `p` take effect: 1 pause by the Steward, 2 resume, 3 pause by the host. -/
def pauseBoundary (p : Nat) (s : State) : State :=
  (reqsOf s p).foldl (fun s i =>
    let e := reqGet s i
    if e.mark = 0 ∨ e.mark = 4 then s
    else
      let s := reqUpd i (fun e => { e with mark := 0 }) s
      if (e.mark = 1 ∨ e.mark = 3) ∧ rqState e = RQ_ACTIVE then
        reqEvent .reqPaused p i (reqPauseTo p i RQ_PAUSED (reqUpd i (fun x => { x with bySteward := e.mark == 1 }) s))
      else if e.mark = 2 ∧ rqState e = RQ_PAUSED ∧ !rqHostPause e then
        reqEvent .reqResumed p i (reqPauseTo p i RQ_ACTIVE (reqUpd i (fun x => { x with bySteward := false }) s))
      else s) s

/-! ### Admission of a step's requests (R171, R172, R202 to R204) -/

/-- The bound rows of request `r` as (batch row, entry). -/
def rowsOf (rows : List RowEnt) (r : Nat) : List (Nat × RowEnt) :=
  ((tabulate (fun i => i) rows.length 0).zip rows).filter (fun x => x.2.bound && x.2.req == r)

/-- The requests that rows name, in the order of their first row. -/
def boundReqs (rows : List RowEnt) : List Nat :=
  rows.foldl (fun l x => if x.bound && !l.contains x.req then l ++ [x.req] else l) []

/-- The shape of R203 that a request's kinds form: 0 none, 1 chunk, 2 final chunk, 3 decode, 4 verify. -/
def rowShape (e : ReqEnt) (kinds : List Nat) : Nat :=
  let n := kinds.length
  let len := rqLen e
  if kinds.all (· == 0) && decide (256 ≤ n ∧ n ≤ 2048) && decide (len + n < rqPromptLen e) then 1
  else if kinds.getLast? == some 1 && kinds.dropLast.all (· == 0) && decide (n ≤ 2048)
      && len + n == rqPromptLen e then 2
  else if kinds == [2] && decide (rqPromptLen e ≤ len ∧ len + 2 ≤ rqMaxLen e) then 3
  else if kinds.all (· == 3) && decide (2 ≤ n ∧ n ≤ 16) && decide (rqPromptLen e ≤ len ∧ len + n + 1 ≤ rqMaxLen e) then 4
  else 0

/-- The rules of R171 on a request's rows. -/
def kvRowsOk (len : Nat) (rs : List (Nat × RowEnt)) : Bool :=
  let n := rs.length
  let r0 := (rs.map Prod.fst).headD 0
  decide (n ≤ 4096) && (rs.zip (tabulate (fun i => i) n 0)).all (fun x =>
    x.1.1 == r0 + x.2 && x.1.2.pos == len + x.2 && decide (x.1.2.pos < 1048576)
      && decide (1 ≤ x.1.2.kvlen ∧ x.1.2.kvlen ≤ len + n))

/-- What admission makes of one request: admitted, dropped with a status, or dropped with none (R202). -/
inductive AdmitOut where
  | passed
  | dropped (code : Nat)
  | silent
  deriving DecidableEq, Repr

/-- The checks of R204 before the reservation. -/
def admitCheck (s : State) (p : Nat) (rows : List RowEnt) (r : Nat) : AdmitOut :=
  let e := reqGet s r
  let st := rqState e
  let rs := rowsOf rows r
  let shape := rowShape e (rs.map (fun x => x.2.kind))
  if !reqInRange s p r then .silent
  else if st = RQ_PAUSED then .dropped ST_REQ_PAUSED
  else if !(st == RQ_ADMITTED || st == RQ_ACTIVE) then .silent
  else if shape = 0 then .dropped ST_ROWMAP_KIND
  else if shape = 4 ∧ rqDraftLen e + 1 < rs.length then .dropped ST_DRAFT_LIMIT
  else if !kvRowsOk (rqLen e) rs then .dropped ST_KV_ROWMAP
  else .passed

/-- Keys of each of the `g` segments: pages of `size` keys dealt as evenly as possible, the earlier ones first (R179). -/
def segKeys (size total : Nat) : Nat → Nat → Nat → Nat → List Nat
  | 0, _, _, _ => []
  | g + 1, pages, more, left =>
    let n := min left ((pages + (if 0 < more then 1 else 0)) * size)
    n :: segKeys size total g pages (more - 1) (left - n)

/-- The segments of a request that passed (R179); their cores are drawn when the step opens (R239). -/
def segOf (s : State) (p : Nat) (rows : List RowEnt) (r : Nat) : SegInfo :=
  let rs := rowsOf rows r
  let e := reqGet s r
  let maxKv := rs.foldl (fun m x => max m x.2.kvlen) 0
  let size := 2 ^ kvPickK (rqPageK e) (rqMaxLen e)
  let pages := ceilDiv maxKv size
  let g := max 1 (min (min 64 (8 * popCount 8 (fget s (PLC_EPOCH_CLUSTERS p)))) (min pages (ceilDiv maxKv 1024)))
  { req := r, firstRow := (rs.map Prod.fst).headD 0, rows := rs.length, maxKv := maxKv
    pages := pages, keys := segKeys size maxKv g (pages / g) (pages % g) maxKv, cores := [] }

/-- What the admission of a step does to the requests its rows bind: the rows, segments, statuses and state (R204). -/
structure AdmitRes where
  rows : List RowEnt
  segs : List SegInfo
  statuses : List (Nat × Nat)
  exhausted : Bool
  st : State
  deriving DecidableEq, Repr

/-- The rows of request `r` are bound to no live request. -/
def dropRows (rows : List RowEnt) (r : Nat) : List RowEnt :=
  rows.map (fun x => if x.bound && x.req == r then { x with dropped := true } else x)

/-- A request is dropped with a status, which becomes its latest (R195). -/
def admitDrop (a : AdmitRes) (r code : Nat) : AdmitRes :=
  { a with rows := dropRows a.rows r, statuses := a.statuses ++ [(r, code)]
           st := reqUpd r (rqSet0 15 0 code) a.st }

/-- Admission of request `r`. -/
def admitOne (p : Nat) (a : AdmitRes) (r : Nat) : AdmitRes :=
  match admitCheck a.st p a.rows r with
  | .silent => { a with rows := dropRows a.rows r }
  | .dropped code => admitDrop a r code
  | .passed =>
    let e := reqGet a.st r
    match kvReserve p r (rqLen e) (rowsOf a.rows r).length (rqPageK e) (rqMaxLen e) a.st with
    | none =>
      let a := admitDrop a r ST_KV_EXHAUSTED
      { a with exhausted := true, st := statInc KV_STAT_RESV_FAIL a.st }
    | some s => { a with segs := a.segs ++ [segOf s p a.rows r], st := reqUpd r (rqSet0 63 60 RQ_ACTIVE) s }

/-- Admission of every request that the rows of a step bind, in row-map order. -/
def admitRows (p : Nat) (rows : List RowEnt) (s : State) : AdmitRes :=
  let a := (boundReqs rows).foldl (admitOne p) { rows := rows, segs := [], statuses := [], exhausted := false, st := s }
  let s := kvSync p a.st
  let s := if a.exhausted then
      postEvent p .kvExhausted 0xFFF 0 (raise .kvExhausted p (fset KV_STATUS_EXHAUSTED 1 s)) else s
  { a with st := s }

/-! ### Commit (R175 to R177, R205, R212, R213) -/

/-- The count of R175 for a request in one tensor: its smallest offer, within 0 to n; n where no kv.accept named it. -/
def acceptCount (offers : List (Nat × List (Nat × Int))) (h : Nat) (g : SegInfo) : Nat :=
  match offers.find? (fun o => o.1 == h) with
  | none => g.rows
  | some o =>
    (tabulate (fun i => i) g.rows 0).foldl (fun m i =>
      let v := ((o.2.find? (fun x => x.1 == g.firstRow + i)).map Prod.snd).getD 0
      min m (clampInt 0 g.rows (i + v)).toNat) g.rows

/-- The positions that a publishing request keeps (R176). -/
def keptCount (s : State) (p : Nat) (offers : List (Nat × List (Nat × Int))) (g : SegInfo) : Nat :=
  (kvTensors s p).foldl (fun m e => min m (acceptCount offers e.1 g)) g.rows

/-- The deadline of an entry has lapsed at `tc`. -/
def lapsed (e : ReqEnt) (tc : Stamp) : Bool := e.w3 != 0 && decide (e.w3 ≤ tc)

/-- Request `r` lapses at `tc`: its own deadline, or that of the ACTIVE main request it is the companion of (R200,
R205). -/
def reqLapses (s : State) (r : Nat) (tc : Stamp) : Bool :=
  let e := reqGet s r
  let m := reqGet s (rqMain e)
  lapsed e tc || (rqCompanion e && rqState m == RQ_ACTIVE && lapsed m tc)

/-- Request `r`'s rows publish at `tc` (R104). -/
def reqPublishes (s : State) (p : Nat) (tc : Stamp) (r : Nat) : Bool := reqLive s p r && !reqLapses s r tc

/-- The draft rules R212 and R213 after a verify commit that kept `c`. -/
def draftRule (p r c : Nat) (s : State) : State :=
  if c = 1 then
    let s := statInc SRV_STAT_FULL_REJECT (reqUpd r (fun e =>
      rqSet5 15 0 (min 0xFFFF (fieldGet e.w5.toNat 15 0 + 1)) (rqSet0 43 40 (min 15 (rqRejectRun e + 1)) e)) s)
    if fget s SRV_DRAFT_GIVEUP_COUNT ≤ rqRejectRun (reqGet s r) then
      reqEvent .draftDisabled p r (statInc SRV_STAT_DRAFT_OFF
        (reqUpd r (fun e => rqSet0 51 48 0 (rqSet0 43 40 0 e)) s))
    else s
  else if 2 ≤ c then reqUpd r (rqSet0 43 40 0) s
  else s

/-- Tokens that a publishing request emits (R203). -/
def tokensOf (kinds : List Nat) (c : Nat) : Nat :=
  if kinds.all (· == 0) then 0 else if kinds.contains 3 then c else 1

/-- The rows that request `g.req` staged in tensor `h` and keeps, the first `c`, go into its pages: positions `len` on
(R173, R176). -/
def publishStaged (p h len c : Nat) (g : SegInfo) (staged : List StagedRow) (s : State) : State :=
  match mapGet none s.tensors h with
  | none => s
  | some t =>
    staged.foldl (fun s x =>
      let j := len + (x.row - g.firstRow)
      let ctx := ctxGet s g.req h
      if x.handle ≠ h ∨ x.row < g.firstRow ∨ c ≤ x.row - g.firstRow then s
      else match (kvPages s ctx)[j / 2 ^ ctx.pk]? with
        | none => s
        | some e =>
          let s := { s with kvStamps := mapSet 0 s.kvStamps e s.now }
          (tabulate (fun q => q) (2 * t.heads) 0).foldl (fun s q =>
            kvWrite p t (pgFrame (kvEntry s e)) ctx.pk (q / max 1 t.heads) (q % max 1 t.heads) (j % 2 ^ ctx.pk)
              { codes := (x.data.codes.drop (q * t.width)).take t.width
                scales := if fmtBlock t.kvFormat then (x.data.scales.drop (q * t.width / 32)).take (ceilDiv t.width 32) else [] } s) s) s

/-- What the commit at `tc` does to one request that the step bound, where `ok` lists those that publish; answers its
status and whether it emitted. -/
def commitOne (p : Nat) (tc : Stamp) (ok : List Nat) (st : StepSt)
    (a : State × List (Nat × Nat) × List Nat) (g : SegInfo) : State × List (Nat × Nat) × List Nat :=
  let s := a.1
  let r := g.req
  let e := reqGet s r
  let hs := (kvTensors s p).map Prod.fst
  let settle := fun (c : Nat) (s : State) => hs.foldl (fun s h => kvSettle r h c s) s
  let count := fun (c : Nat) (s : State) =>
    if hs.isEmpty then s else statAdd KV_STAT_ROLLED (g.rows - c) (statAdd KV_STAT_KEPT c s)
  if ok.contains r then
    let c := keptCount s p st.offers g
    let kinds := (rowsOf st.rows r).map (fun x => x.2.kind)
    let t := if rqCompanion e then 0 else tokensOf kinds c
    let s := count c (settle c (hs.foldl (fun s h => publishStaged p h (rqLen e) c g st.staged s) s))
    let s := reqUpd r (fun e => rqSet0 15 0 ST_OK (rqSet1 21 1 (rqLen e + c) e)) s
    let s := if t = 0 then s else sloSample p r t tc s
    let s := statAdd SRV_STAT_TOKENS t (reqUpd r (fun e => rqSet7 31 11 (rqTokens e + t) e) s)
    let s := if kinds.contains 3 && !rqCompanion e then draftRule p r c s else s
    (s, a.2.1 ++ [(r, ST_OK)], if t = 0 then a.2.2 else r :: a.2.2)
  else (count 0 (settle 0 s), a.2.1 ++ [(r, rqLastStatus e)], a.2.2)

/-- Requests of the partition whose deadline has lapsed at `tc` while ACTIVE end (R205). -/
def commitLapse (p : Nat) (tc : Stamp) (s : State) : State :=
  (reqsOf s p).foldl (fun s i =>
    if rqState (reqGet s i) = RQ_ACTIVE ∧ lapsed (reqGet s i) tc then reqEnd p i RQ_LAPSED ST_DEADLINE_LAPSED false s
    else s) s

/-- A publishing request that has reached its length is DONE; a companion never by length (R200, R205). -/
def commitDone (p : Nat) (ok : List Nat) (s : State) (g : SegInfo) : State :=
  let e := reqGet s g.req
  if ok.contains g.req ∧ !rqCompanion e ∧ rqMaxLen e ≤ rqLen e + 1 then reqEnd p g.req RQ_DONE ST_OK false s else s

/-- What a commit at `tc` does to every request of the partition (R205), where `ok` lists those that publish: those
bound, those whose deadline lapsed, the pages of the ended, and the latency evaluation. Answers the statuses of the
requests bound. -/
def commitReqs (p : Nat) (tc : Stamp) (ok : List Nat) (st : StepSt) (s : State) : State × List (Nat × Nat) :=
  let a := st.segs.foldl (commitOne p tc ok st) (commitLapse p tc s, [], [])
  let s := kvUnstageAll p (releaseEnded p (st.segs.foldl (commitDone p ok) a.1))
  let s := (reqsOf s p).foldl (sloEval p (fun i => a.2.2.contains i)) s
  (kvSync p s, a.2.1)

/-- The statuses of TYPE 0x06 records: one for each request reported other than ST_OK (R494). -/
def postStatuses (p : Nat) (l : List (Nat × Nat)) (s : State) : State :=
  l.foldl (fun s x => if x.2 = ST_OK then s else
    postAsync p { typ := 6, status := x.2, tag := 0, value := x.1, stamp := s.now, payload := 0 } s) s

end Sys2Proof.Machine
end

