-- ==== Sys2Proof/Machine/TenOps.lean ====
section
/-!
DEFINITION. Partitions (R404, R405), their clusters and windows, Blanket (R409 to R411), and where tensors are placed
within them (R240, R258, R265; log 13).
-/
namespace Sys2Proof.Machine

/-! ### Placement in DRAM (log 13) -/

/-- The stacks of a half (R256): 0 North, 1 South. -/
def stackHalf (i : Nat) : Nat := i / 3

/-- The half of a cluster (R19): 0 North, 1 South. -/
def clusterHalf (c : Nat) : Nat := c / 4

/-- Slots that partition `p` has in a half (R260). -/
def shareOf (s : State) (p half : Nat) : Nat :=
  if half = 0 then fget s (MEM_SHARE_NORTH p) else fget s (MEM_SHARE_SOUTH p)

/-- Bytes of the frame of a page-table entry. -/
def frameBytes (s : State) (h : Nat) (e : Nat) : Nat :=
  match mapGet none s.tensors h with
  | none => 0
  | some t => 2 ^ (pgK e - 4) * kvU t

/-- The spans of DRAM that are taken: homes, KV frame regions, codec memory and mirrors. -/
def usedSpans (s : State) : List (Nat × Nat) :=
  s.tensors.filterMap (fun e =>
    match e.2 with
    | some t => if t.cls = 1 ∨ t.flask ∨ t.slot.isSome ∨ t.size = 0 then none else some (t.home, t.size)
    | none => none)
  ++ s.slots.flatMap (fun e => e.2.mem)
  ++ (mirrorsOf s).map (fun m => (m.addr, m.len))
  ++ s.parts.filterMap (fun e => e.2.scratchAt)

/-- `a` rounded up to a multiple of 1024. -/
def alignKib (a : Nat) : Nat := ceilDiv a 1024 * 1024

/-- The lowest place for `size` bytes in a window, beside the spans taken. -/
def spotIn (used : List (Nat × Nat)) (size : Nat) (w : Nat × Nat) : Option Nat :=
  ((w.1 :: used.map (fun u => alignKib (u.1 + u.2))).filter (fun a =>
    decide (w.1 ≤ a ∧ a + size ≤ w.1 + w.2) && used.all (fun u => decide (a + size ≤ u.1 ∨ u.1 + u.2 ≤ a)))).foldl
    (fun (m : Option Nat) a =>
      match m with
      | none => some a
      | some b => some (min a b)) none

/-- The lowest place for `size` bytes on stacks `l` within the windows of partition `p`, beside spans taken (R258). -/
def spotBeside (s : State) (used : List (Nat × Nat)) (p size : Nat) (l : List Nat) : Option Nat :=
  (l.filter (fun i => shareOf s p (stackHalf i) != 0 && fget s (MEM_STACK_STATE i) != 2)).findSome? (fun i =>
    ((winsOf s p).filter (fun w => stackOf w.1 == i)).findSome? (spotIn used size))

/-- The lowest place for `size` bytes on stacks `l` within the windows of partition `p` (R258). -/
def freeSpot (s : State) (p size : Nat) (l : List Nat) : Option Nat := spotBeside s (usedSpans s) p size l

/-! ### Mirrors (R265, R266) -/

/-- Bytes that mirrors hold. -/
def mirrorBytes (s : State) : Nat := (mirrorsOf s).foldl (fun n m => n + m.len) 0

/-- The span of page-table entry `i` of tensor `h`. -/
def pageSpan (s : State) (h i : Nat) : Nat × Nat := (pgFrame (kvEntry s i), frameBytes s h (kvEntry s i))

/-- What partition `p` would mirror from stack `i` and has not mirrored whole, in the order of R265: LIVE pages of ACTIVE requests,
most recently appended first, then persistent tensors by access count per byte. -/
def mirrorWants (s : State) (p i : Nat) : List Mirror :=
  let pages := (kvTensors s p).flatMap (fun e =>
    (reqsOf s p).flatMap (fun r =>
      if rqState (reqGet s r) = RQ_ACTIVE then
        ((kvPages s (ctxGet s r e.1)).reverse.filter (fun g => pgState (kvEntry s g) == PG_LIVE)).map (fun g =>
          ({ part := p, page := true, key := g, home := (pageSpan s e.1 g).1, len := (pageSpan s e.1 g).2
             addr := 0, built := 0 } : Mirror))
      else []))
  let pages := sortBy (fun (a b : Mirror) => decide (mapGet 0 s.kvStamps b.key < mapGet 0 s.kvStamps a.key)) pages
  let ts := s.tensors.filterMap (fun e =>
    match e.2 with
    | some t =>
      if t.part = p ∧ t.cls = 0 ∧ t.flask = false ∧ t.slot = none ∧ t.size ≠ 0 then some (e.1, t) else none
    | none => none)
  let ts := sortBy (fun (a b : Nat × Tensor) => decide (b.2.access * a.2.size < a.2.access * b.2.size)) ts
  (pages ++ ts.map (fun e =>
    ({ part := p, page := false, key := e.1, home := e.2.home, len := e.2.size, addr := 0, built := 0 } : Mirror))).filter
    (fun m => stackOf m.home == i && !(mirrorsOf s).any (fun x => x.home == m.home && x.len == m.len && x.built == x.len))

/-- The mirror of the span of `m`, where one is begun. -/
def mirrorFor (s : State) (i : Nat) (m : Mirror) : Option Mirror :=
  (hbmOf s i).mirrors.find? (fun x => x.home == m.home && x.len == m.len)

/-- Begins a mirror for stack `i` in free DRAM of the same half, within MIRROR_GIB. -/
def mirrorBegin (p i : Nat) (m : Mirror) (s : State) : State :=
  let others := [0, 1, 2, 3, 4, 5].filter (fun j => j != i && stackHalf j == stackHalf i)
  if (mirrorFor s i m).isSome ∨ fget s MEM_RETRAIN_MIRROR_GIB * 2 ^ 30 < mirrorBytes s + m.len then s
  else
    match freeSpot s p m.len others with
    | none => s
    | some b => updHbm i (fun x => { x with mirrors := x.mirrors ++ [{ m with addr := b }] }) s

/-- What a migration point has left: the bytes that it may still move, the bytes moved, and whether the limit left a candidate
unmoved (R241). -/
structure MigBudget where
  left : Nat
  moved : Nat
  limited : Bool
  deriving DecidableEq, Repr

/-- `k` bytes of a budget are used; `rest` more are wanted. -/
def MigBudget.take (b : MigBudget) (k : Nat) (rest : Bool) : MigBudget :=
  { left := b.left - k, moved := b.moved + k, limited := b.limited || rest }

/-- Goes on with one mirror for stack `i`, as far as the budget reaches. -/
def mirrorAdd (p i : Nat) (a : State × MigBudget) (m : Mirror) : State × MigBudget :=
  let s := mirrorBegin p i m a.1
  match mirrorFor s i m with
  | none => (s, a.2)
  | some x =>
    let k := min a.2.left (x.len - x.built)
    let s := dramCopy (x.home + x.built) (x.addr + x.built) k s
    let whole := x.built + k == x.len
    let s := updHbm i (fun y => { y with mirrors := y.mirrors.map (fun z =>
      if z.home = x.home ∧ z.len = x.len then { z with built := x.built + k } else z) }) s
    (if x.page && whole then kvSetEntry x.key (setBit (kvEntry s x.key) 5 true) s else s, a.2.take k (!whole))

/-- The mirrors of partition `p` for stack `i` are dropped. -/
def mirrorDrop (p i : Nat) (s : State) : State :=
  let mine := (mapGet stackReset s.hbm i).mirrors.filter (fun m => m.part == p)
  let s := mine.foldl (fun s m => if m.page then kvSetEntry m.key (setBit (kvEntry s m.key) 5 false) s else s) s
  { s with hbm := mapUpd stackReset s.hbm i (fun x => { x with mirrors := x.mirrors.filter (fun m => m.part != p) }) }

/-- Requests of partition `p` one of whose pages holds unit `u` of DRAM. -/
def unitHolders (s : State) (p u : Nat) : List Nat :=
  (reqsOf s p).filter (fun r => decide (rqState (reqGet s r) < RQ_CANCELLED) && !rqCompanion (reqGet s r)
    && (r :: reqCompanions s p r).any (fun j => (kvTensors s p).any (fun e =>
      (kvPages s (ctxGet s j e.1)).any (fun g =>
        let x := pageSpan s e.1 g
        decide (x.1 < u * 64 + 64 ∧ u * 64 < x.1 + x.2)))))

/-- Requests whose pages hold poisoned units that have been read end CANCELLED (R269). -/
def unitsEnd (us : List Nat) (s : State) : State :=
  us.foldl (fun s u => (tabulate (fun p => p) 8 0).foldl (fun s p =>
    let l := unitHolders s p u
    if l.isEmpty then s
    else kvSettleNow p (l.foldl (fun s r => reqStop p RQ_CANCELLED ST_MEM_UNCORRECTABLE r s) s)) s) s

/-- The host, a peer or the ACX writes the bytes [a, a + n): the open steps whose partitions hold persistent tensors there read
open values of them from now on (R98, R163). -/
def wildMark (a n : Nat) (s : State) : State :=
  if s.parts.all (fun e => e.2.step.isNone) then s
  else
    let hs := fun (p : Nat) => s.tensors.filterMap (fun e =>
      (e.2.filter (fun t => t.part == p && t.cls == 0 && !t.flask && decide (t.home < a + n ∧ a < t.home + t.size))).map (fun _ => e.1))
    { s with parts := s.parts.map (fun e => (e.1, { e.2 with step := e.2.step.map (fun st =>
        { st with wild := hs e.1 ++ st.wild }) })) }

/-- The same of a tensor in Flask, by its object. -/
def wildObject (obj : Nat) (s : State) : State :=
  if s.parts.all (fun e => e.2.step.isNone) then s
  else
    let hs := fun (p : Nat) => s.tensors.filterMap (fun e =>
      (e.2.filter (fun t => t.part == p && t.flask && t.object == obj)).map (fun _ => e.1))
    { s with parts := s.parts.map (fun e => (e.1, { e.2 with step := e.2.step.map (fun st =>
        { st with wild := hs e.1 ++ st.wild }) })) }

/-- Bytes of SRAM for tensors, stream slots and scratch that partition `p` has (R251). -/
def sramOf (s : State) (p : Nat) : Nat := 8 * (6 * 1048576 - 131072) * (clustersOf s p).length

/-! ### Clusters -/

def PART_FREE : Nat := 0
def PART_ACTIVE : Nat := 1
def PART_CHANGING : Nat := 2
def PART_SCRUBBING : Nat := 3

/-- Clusters that some partition holds, or that an ADD in progress has taken. -/
def ownedMask (s : State) : Nat :=
  (tabulate (fun p => p) 8 0).foldl (fun m p => m ||| fget s (SEC_PART_CLUSTERS p) ||| (partOf s p).joining) 0

/-- Clusters in service: in GEN_AVAIL and not drained for self-test (R78, R396). -/
def serviceMask (s : State) : Nat :=
  let ok := fget s GEN_AVAIL_CLUSTERS_OK
  ok - (ok &&& s.bist.drained)

/-- Every bit of `m` is set in `n`. -/
def subMask (m n : Nat) : Bool := m &&& n == m

/-- SEC_STATUS shows what runs (R423). -/
def secShow (s : State) : State :=
  fset SEC_STATUS_CMD_BUSY (b2n s.secOp.isSome) (fset SEC_STATUS_SCRUBBING (b2n (s.uncleared != 0 || !s.scrubs.isEmpty)) s)

/-- The journal's record of partition `p` and its windows (R436 type 0x0A). -/
def journalPart (p : Nat) (s : State) : State :=
  let live := fget s (SEC_PART_STATE p) != 0
  journal 0x0A p (!live) (fget s (SEC_PART_CLUSTERS p)
    :: tabulate (fun w => regGet s (SEC_WIN p w)) 8 0) s

/-- A partition operation ends: its result, and EV_PART_CHANGE with its record where the operation was ADD or REMOVE
(R404, R316, R424). -/
def secDone (op p : Nat) (s : State) : State :=
  let s := secShow { s with secOp := none }
  let s := fset SEC_PART_CMD_DONE 1 (fset SEC_PART_CMD_RESULT ST_OK s)
  let s := raise .partChange p (journalPart p s)
  if op = 2 ∨ op = 3 then postEvent p .partChange 0xFFF (fget s (SEC_PART_CLUSTERS p)) s else s

/-- A partition operation is refused in whole (R404). -/
def secRefuse (code : Nat) (s : State) : State :=
  fset SEC_STATUS_CFG_REJECT 1 (fset SEC_PART_CMD_DONE 1 (fset SEC_PART_CMD_RESULT code s))

/-- Clusters are counted by half. -/
def halfCount (m half : Nat) : Nat := popCount 4 (m / 16 ^ half)

/-- What CREATE and ADD ask of the clusters they name: unowned, in service and cleared. An empty list of clusters names
none and is refused (log 33). -/
def clustersCheck (s : State) (m : Nat) : Option Nat :=
  if m = 0 ∨ m &&& ownedMask s ≠ 0 ∨ !subMask m (serviceMask s) then some ST_PART_CONFIG
  else if m &&& s.uncleared ≠ 0 then some ST_PART_BUSY
  else none

/-- CREATE (R404, with the defaults of R260 and R332). Its clusters carry the partition at once (log 50). -/
def partMake (p m : Nat) (s : State) : State :=
  let s := fset (PLC_EPOCH_CLUSTERS p) (m &&& serviceMask s) (setPart p partReset s)
  let s := fset (SEC_PART_CLUSTERS p) m (fset (SEC_PART_STATE p) PART_ACTIVE s)
  let s := fset (MEM_SHARE_NORTH p) (14 * halfCount m 0) (fset (MEM_SHARE_SOUTH p) (14 * halfCount m 1) s)
  let s := fset (NET_PART_W3_QP_BASE p) (128 * p) (fset (NET_PART_W3_QP_COUNT p) 128 s)
  let s := fset (NET_PART_W3_EGRESS p) (7 * popCount 8 m) s
  kvSync p (fset (SRV_PART_VALID p) 1 (fset (KV_POOL_VALID p) 1 (fset (TK_PART_VALID p) 1 s)))

/-! ### Leaving clusters (R404, R409) -/

/-- The Cooler moves an entry in use from place `i` to place `j`, and rewrites NEXT, HEAD and TAIL (R404). -/
def kvMoveEntry (i j : Nat) (s : State) : State :=
  let s := mirrorForget i (kvSetEntry i 0 (kvSetEntry j (setBit (kvEntry s i) 5 false) s))
  let s := { s with kvStamps := mapSet 0 (mapSet 0 s.kvStamps j (mapGet 0 s.kvStamps i)) i 0 }
  let mv := fun (v : Nat) => if v = i then j else v
  let s := { s with kvEntries := s.kvEntries.map (fun (e : Nat × BitVec 64) =>
    (e.1, BitVec.ofNat 64 (fieldSet e.2.toNat 53 34 (mv (pgNext e.2.toNat))))) }
  { s with kvCtxs := s.kvCtxs.map (fun (e : Nat × BitVec 128) =>
    (e.1, BitVec.ofNat 128 (fieldSet (fieldSet e.2.toNat 127 108 (mv (fieldGet e.2.toNat 127 108))) 107 88
      (mv (fieldGet e.2.toNat 107 88))))) }

/-- The entries in use inside clusters `m` move to FREE entries of clusters `stay`, lowest first. -/
def kvMoveOut (m : Nat) (stay : List Nat) (s : State) : State :=
  let inside := (s.kvEntries.map Prod.fst).filter (fun i => bitOf m (i / pagesPerCluster))
  inside.foldl (fun s i =>
    match stay.findSome? (fun c => firstIdx (fun j => kvEntry s j == 0) pagesPerCluster (c * pagesPerCluster)) with
    | none => s
    | some j => kvMoveEntry i j s) s

/-- Blanket starts to clear clusters `m`. -/
def blanketStart (m : Nat) (s : State) : State := secShow { s with uncleared := s.uncleared ||| m }

/-- Conditions of REMOVE (R404): a partition keeps a cluster, and the rest hold its slot space, scratch and entries. -/
def removeOk (s : State) (p m : Nat) : Bool :=
  let have_ := fget s (SEC_PART_CLUSTERS p)
  let rest := have_ - (have_ &&& m)
  let pt := partOf s p
  let stay := (tabulate (fun c => c) 8 0).filter (bitOf rest)
  let go := (tabulate (fun c => c) 8 0).filter (bitOf m)
  let free := stay.foldl (fun n c => n + (pagesPerCluster - pagesUsed s c)) 0
  let used := go.foldl (fun n c => n + pagesUsed s c) 0
  m != 0 && subMask m have_ && rest != 0
    && decide (pt.slotSpace + pt.scratchBytes ≤ 8 * (6 * 1048576 - 131072) * stay.length) && decide (used ≤ free)

/-! ### Windows and scrubs (R407, R410) -/

/-- MiB still to scrub for partition `p`. -/
def scrubShow (p : Nat) (s : State) : State :=
  let n := s.scrubs.foldl (fun n x => if x.part = p then n + x.len / 1048576 else n) 0
  secShow (fset (SEC_PART_SCRUB_MIB p) n s)

/-- Window `w` of partition `p` is disabled, and its scrub starts. -/
def winScrub (p w : Nat) (s : State) : State :=
  let x : Scrub := { part := p, win := w, base := fget s (SEC_WIN_BASE p w) * winUnit
                     len := fget s (SEC_WIN_SIZE p w) * winUnit }
  let s := fset (SEC_WIN_SCRUB p w) 1 (fset (SEC_WIN_EN p w) 0 s)
  scrubShow p { s with scrubs := s.scrubs ++ [x] }

/-! ### DESTROY (R405) -/

/-- Every request that has not ended is cancelled, with the page effects of R178; a PAUSED one too, since the tensors that hold its
pages go with the partition (log 33). -/
def cancelAll (p : Nat) (s : State) : State :=
  kvSettleNow p ((reqsOf s p).foldl (fun s i =>
    if rqState (reqGet s i) < RQ_CANCELLED ∧ !rqCompanion (reqGet s i) then reqEnd p i RQ_CANCELLED ST_CANCELLED true s
    else s) s)

/-- Companions whose main has ended already end with it (R200). -/
def cancelRest (p : Nat) (s : State) : State :=
  kvSettleNow p ((reqsOf s p).foldl (fun s i =>
    if rqState (reqGet s i) < RQ_CANCELLED then kvRelease p i (reqEndOne p RQ_CANCELLED ST_CANCELLED s i) else s) s)

/-- Every handle of partition `p` is retired. -/
def dropAll (p : Nat) (s : State) : State :=
  (s.tensors.filterMap (fun e =>
    match e.2 with
    | some t => if t.part = p then some (e.1, t.flask) else none
    | none => none)).foldl (fun s e =>
      dropTensor e.1 (if e.2 then journal 0x0C (p * 65536 + e.1 % 65536) true [] s else s)) s

/-- Every EDC source that partition `p` owns returns to the die, masked. -/
def edcRelease (p : Nat) (s : State) : State :=
  (tabulate (fun n => n) 1022 1).foldl (fun s n =>
    if fget s (EDC_SRC_CFG_OWNER n) = p then edcSetBit EDC_MASK n true (fset (EDC_SRC_CFG_OWNER n) 8 s) else s) s

/-- Queue `q` is disabled: what waits for room in its ring is lost with it (R308). -/
def queueOff (q : Nat) (s : State) : State :=
  let s := fset (CMD_CFG_EN (qPart q) (qLocal q)) 0 s
  let s := fset (CMD_STATUS_STOPPED (qPart q) (qLocal q)) 0 (fset (CMD_STATUS_ERR_CODE (qPart q) (qLocal q)) 0 s)
  { s with queues := mapSet queueReset s.queues q queueReset }

/-- Partition `p` ends once its clusters are clear and its windows scrubbed (R405 order 7). -/
def destroyEnd (p : Nat) (s : State) : State :=
  let m := fget s (SEC_PART_CLUSTERS p)
  if s.secOp.map (fun x => (x.1, x.2.1)) = some (4, p) ∧ (partOf s p).destroying = 2 ∧ m &&& s.uncleared = 0
      ∧ s.scrubs.all (fun x => x.part != p) = true then
    let s := regSet (SEC_PART p) 0 s
    let s := fset (SRV_PART_VALID p) 0 (fset (TK_PART_VALID p) 0 (fset (KV_POOL_VALID p) 0 (kvSync p s)))
    let s := fset (PLC_EPOCH_CLUSTERS p) 0 (setPart p { partReset with vfDown := true } s)
    secDone 4 p { s with tv := mapSet tvEmpty (mapSet tvEmpty s.tv (2 * p) tvEmpty) (2 * p + 1) tvEmpty }
  else s

/-- Orders 2 to 6 of R405, once no step of the partition is open. -/
def destroyGo (p : Nat) (s : State) : State :=
  let pt := partOf s p
  if pt.destroying = 1 ∧ pt.step.isNone = true ∧ pt.pub.isNone = true then
    let s := cancelRest p (cancelAll p s)
    let s := dropAll p s
    let s := (s.qps.filterMap (fun e => match e.2 with
      | some q => if q.part = p then some e.1 else none
      | none => none)).foldl (fun s n => qpDrop n s) s
    let s := (tabulate (fun i => i) 64 0).foldl (fun s i =>
      if fbit s (VCC_SLOT_CFG_EN i) ∧ fget s (VCC_SLOT_CFG_PART i) = p then slotStop i s else s) s
    let s := edcRelease p s
    let s := (tabulate (fun l => 128 * p + l) 128 0).foldl (fun s q =>
      if fbit s (CMD_CFG_EN (qPart q) (qLocal q)) then queueOff q s else s) s
    let s := setPart p { partReset with destroying := 2, vfDown := true } s
    let s := fset (TK_PART_HELD p) 0 (fset (SEC_PART_STATE p) PART_SCRUBBING s)
    let s := (tabulate (fun w => w) 8 0).foldl (fun s w => if fbit s (SEC_WIN_EN p w) then winScrub p w s else s) s
    blanketStart (fget s (SEC_PART_CLUSTERS p)) s
  else s

/-- Poison marks of SRAM words without those of cluster `c`: words by store (1 Hamper, 2 cluster store), unit and offset. -/
def poisonClear (c : Nat) (m : SMap Bool) : SMap Bool :=
  m.filter (fun e => let u := e.1 / 2 ^ 24 % 64
    !(if e.1 / 2 ^ 30 = 1 then u / 8 == c else u == c))

/-- A cluster's clear is complete (R409): its page-table entries are FREE; the REMOVE or DESTROY that waits for it may
end. -/
def blanketEnd (c : Nat) (s : State) : State :=
  let s := { s with uncleared := s.uncleared - (s.uncleared &&& 2 ^ c)
                    kvEntries := s.kvEntries.filter (fun e => e.1 / pagesPerCluster != c)
                    sramPoison := poisonClear c s.sramPoison }
  let s := raise .scrubDone c (secShow s)
  match s.secOp with
  | some (3, p, m) =>
    if (partOf s p).leaving = 0 ∧ m &&& s.uncleared = 0 then secDone 3 p (fset (SEC_PART_STATE p) PART_ACTIVE s) else s
  | some (4, p, _) => destroyEnd p s
  | _ => s

/-- A window scrub is complete (R410): zeros with fresh check data over every byte. -/
def scrubEnd (p w : Nat) (s : State) : State :=
  match s.scrubs.find? (fun x => x.part == p && x.win == w) with
  | none => s
  | some x =>
    let s := { s with
      scrubs := s.scrubs.filter (fun y => !(y.part == p && y.win == w))
      dram := s.dram.filter (fun c => !(decide (x.base ≤ c.1 ∧ c.1 < x.base + x.len)))
      poison := poisonAfter x.base x.len s.poison }
    let s := statAdd SEC_STAT_SCRUB_MIB (x.len / 1048576) (fset (SEC_WIN_SCRUB p w) 0 s)
    destroyEnd p (raise .scrubDone p (scrubShow p s))

/-! ### A write of SEC_PART_CMD (R404, R423) -/

/-- The operation of SEC_PART_CMD starts, or is refused; it is ignored while another is in progress. -/
def secGo (op p m : Nat) (s : State) : State :=
  if s.secOp.isSome then s
  else
    let s := fset SEC_PART_CMD_DONE 0 s
    let st := fget s (SEC_PART_STATE p)
    if op = 1 then
      if st ≠ PART_FREE then secRefuse ST_PART_CONFIG s
      else
        match clustersCheck s m with
        | some c => secRefuse c s
        | none => secDone 1 p (partMake p m s)
    else if st ≠ PART_ACTIVE then secRefuse ST_PART_CONFIG s
    else if op = 2 then
      match clustersCheck s m with
      | some c => secRefuse c s
      | none =>
        secShow { setPart p { partOf s p with joining := m } (fset (SEC_PART_STATE p) PART_CHANGING s) with
          secOp := some (op, p, m) }
    else if op = 3 then
      if removeOk s p m then
        secShow { setPart p { partOf s p with leaving := m } (fset (SEC_PART_STATE p) PART_CHANGING s) with
          secOp := some (op, p, m) }
      else secRefuse ST_PART_CONFIG s
    else if op = 4 then
      destroyGo p (secShow { setPart p { partOf s p with destroying := 1 } (fset (SEC_PART_STATE p) PART_CHANGING s) with
        secOp := some (op, p, m) })
    else secRefuse ST_PART_CONFIG s

/-- A write of SEC_PART_CMD. -/
def secCmdWrite (v : Nat) (s : State) : State :=
  let s := fset SEC_PART_CMD_CLUSTERS (fieldGet v 7 0)
    (fset SEC_PART_CMD_PART (fieldGet v 58 56) (fset SEC_PART_CMD_OP (fieldGet v 61 59) s))
  if bitOf v 63 then secGo (fieldGet v 61 59) (fieldGet v 58 56) (fieldGet v 7 0) s else s

/-- The level at which a tensor lies when the PLC keeps no copy of it in SRAM (R240, R257). -/
def baseLevel (t : Tensor) : Nat := if t.flask then 3 else 2

/-- A hint is declined with a reason (R100, R243). -/
def declineHint (p h reason : Nat) (s : State) : State :=
  traceRec 0x06 p (p % 8) (h * 2 ^ 96 + reason) (statInc PLC_STAT_HINT_DECLINED (updTensor h (fun t =>
    { t with reason := reason, declines := min 65535 (t.declines + 1) }) s))

/-- The PLC drops its SRAM copy of a tensor; the home stays (R257). -/
def copyDrop (h : Nat) (s : State) : State :=
  updTensor h (fun t => { t with level := baseLevel t, holder := none, moved := 0 }) s

/-- Clusters `m` leave partition `p` with the copies that they hold; a PIN hint is then declined for the tenant boundary (R243). -/
def copiesLeave (p m : Nat) (s : State) : State :=
  s.tensors.foldl (fun s e =>
    match e.2 with
    | none => s
    | some t =>
      if t.part = p ∧ t.cls = 0 ∧ (t.holder.any (bitOf m)) = true then
        let s := copyDrop e.1 s
        if t.hint = 1 ∧ t.reason = 0 then declineHint p e.1 4 s else s
      else s) s

/-- Order 2 of R226 for partition `p`: clusters join and leave (R404), and the set that carries it follows (R78). -/
def partBoundary (p : Nat) (s : State) : State :=
  let pt := partOf s p
  let have_ := fget s (SEC_PART_CLUSTERS p)
  let s := if pt.joining ≠ 0 then
      let s := setPart p { partOf s p with joining := 0 } (fset (SEC_PART_CLUSTERS p) (have_ ||| pt.joining) s)
      secDone 2 p (fset (SEC_PART_STATE p) PART_ACTIVE (kvSync p s))
    else if pt.leaving ≠ 0 ∧ pt.step.isNone = true ∧ pt.pub.isNone = true then
      let m := pt.leaving
      let rest := have_ - (have_ &&& m)
      let s := copiesLeave p m s
      let s := kvMoveOut m ((tabulate (fun c => c) 8 0).filter (bitOf rest)) s
      let s := setPart p { partOf s p with leaving := 0 } (fset (SEC_PART_CLUSTERS p) rest s)
      blanketStart m (kvSync p s)
    else s
  fset (PLC_EPOCH_CLUSTERS p) (fget s (SEC_PART_CLUSTERS p) &&& serviceMask s) s

end Sys2Proof.Machine
end

