-- ==== Sys2Proof/Machine/HostOps.lean ====
section
/-!
DEFINITION. The host link's functions: which VF answers (R305), what a violation records (R329), and the resets that
queues take part in (R304).
-/
namespace Sys2Proof.Machine

/-- The number of a function: 0 the PF, n VF n (R305). -/
def funcNum : Func → Nat
  | .pf => 0
  | .vf n => n.val + 1

/-- MSI-X vectors of a function (R302). -/
def funcVecs (f : Nat) : Nat := if f = 0 then 256 else 32

/-- The VF of partition `p` answers every access with Unsupported Request (R305, R405). -/
def vfGone (s : State) (p : Nat) : Bool := fget s (SEC_PART_STATE p) == PART_FREE || (partOf s p).vfDown

/-- An access is answered with Unsupported Request. -/
def answerUr (s : State) : State := statInc NET_STAT_UR { s with out := .unsupported :: s.out }

/-- An access is answered with Completer Abort. -/
def answerCa (s : State) : State := statInc NET_STAT_CA { s with out := .abort :: s.out }

/-- Queue `q` stops on an error (R311). -/
def queueStop (q code : Nat) (s : State) : State :=
  fset (CMD_STATUS_ERR_CODE (qPart q) (qLocal q)) code (fset (CMD_STATUS_STOPPED (qPart q) (qLocal q)) 1 s)

/-- The program of partition `p` halts before its next STEP, or at the STEP where it is held (R304; log 8). -/
def haltSoon (p : Nat) (s : State) : State :=
  let pt := partOf s p
  if !pt.running then s
  else
    match pt.held with
    | some h => setPart p { pt with held := none, running := false, resumePc := h.idx, waitMask := none }
        (fset (TK_PART_HELD p) 0 s)
    | none => setPart p { pt with haltNext := true } s

end Sys2Proof.Machine
end

