-- ==== Sys2Proof/Machine/FpFun.lean ====
section
/-!
DEFINITION. The VX functions of R66. Each is computed to 2^-256 or so in fixed point, which gives the correctly
rounded FP32 result; the result taken is then any FP32 code within the accuracy of R66 (`Config.fnCode`, log 10).
-/
namespace Sys2Proof.Machine

/-- One in fixed point. -/
def fxOne : Int := 2 ^ 256

def fxMul (a b : Int) : Int := a * b / 2 ^ 256
def fxDiv (a b : Int) : Int := a * 2 ^ 256 / b

/-- A finite value in fixed point. -/
def fxOf (v : FVal) : Int := v.scaled (-256)

/-- A fixed-point number times 2^k as a value. -/
def fxVal (x k : Int) : FVal := .fin (decide (x < 0)) x.natAbs (k - 256)

/-- The sum of t, t·r/(n+1), t·r²/((n+1)(n+2)), ...: the exponential series from term `t` on. -/
def expSeries : Nat → Int → Int → Int → Int
  | 0, _, _, _ => 0
  | fuel + 1, n, t, r => t + expSeries fuel (n + 1) (fxMul t r / (n + 1)) r

/-- Σ t·z2^i / (2i + d): the series of artanh and of arctan (with a negative square). -/
def oddSeries : Nat → Int → Int → Int → Int
  | 0, _, _, _ => 0
  | fuel + 1, d, t, z2 => t / d + oddSeries fuel (d + 2) (fxMul t z2) z2

/-- The natural logarithm of 2. -/
def fxLn2 : Int := 2 * oddSeries 100 1 (fxOne / 3) (fxOne / 9)

/-- π, by Machin's formula. -/
def fxPi : Int :=
  16 * oddSeries 80 1 (fxOne / 5) (-(fxOne / 25)) - 4 * oddSeries 40 1 (fxOne / 239) (-(fxOne / 57121))

/-- e^x for fixed-point x as a value. -/
def fxExp (x : Int) : FVal :=
  let k := x / fxLn2
  fxVal (expSeries 90 0 fxOne (x - k * fxLn2)) k

/-- The natural logarithm of a positive finite value, in fixed point. -/
def fxLog (m : Nat) (e : Int) : Int :=
  let l : Int := Nat.log2 m
  let one : Int := 2 ^ Nat.log2 m
  let z := fxDiv ((m : Int) - one) ((m : Int) + one)
  2 * oddSeries 100 1 z (fxMul z z) + (e + l) * fxLn2

/-- Σ (-1)^n x^(2n+d)/(2n+d)!, from term `t` on: the series of sine (d = 1) and cosine (d = 0). -/
def trigSeries : Nat → Int → Int → Int → Int
  | 0, _, _, _ => 0
  | fuel + 1, d, t, x2 => t + trigSeries fuel (d + 2) (-(fxMul t x2 / ((d + 1) * (d + 2)))) x2

/-- The angle in (-π, π] that differs from a finite value by turns. -/
def fxAngle (v : FVal) : Int :=
  let a := fxOf v % (2 * fxPi)
  if fxPi < a then a - 2 * fxPi else a

/-- Σ (-1)^n z^(2n+1)/(n!(2n+1)), from the term t = ±z^(2n+1)/n! on. -/
def erfSeries : Nat → Int → Int → Int → Int
  | 0, _, _, _ => 0
  | fuel + 1, n, t, z2 => t / (2 * n + 1) + erfSeries fuel (n + 1) (-(fxMul t z2 / (n + 1))) z2

/-- The integer square root of a fixed-point number, in fixed point. -/
def fxSqrt (x : Int) : Int := isqrt (x.toNat * 2 ^ 256)

/-- erf(x / √2) for |x| ≤ 8, in fixed point. -/
def fxErfHalf (x : Int) : Int :=
  let z := fxDiv x (fxSqrt (2 * fxOne))
  fxDiv (2 * erfSeries 250 0 z (fxMul z z)) (fxSqrt fxPi)

/-! ### Accuracy -/

/-- The exponent of one unit in the last place of a finite FP32 value. -/
def ulpExp : FVal → Int
  | .fin _ m e => if m = 0 then -149 else max (e + Nat.log2 m - 23) (-149)
  | _ => 0

/-- The result of function `f` for operand `x`, whose exact result is `base`: a code that lies within `ulp` units in the last
place of the correctly rounded result from it (R66), or that result; NaN and infinities are exact. -/
def within (f ulp : Nat) (x base : FVal) : FVal :=
  let b := r32 base
  let c := val32 (Config.fnCode f (code32 x) % 2 ^ 32)
  if b.odd || c.odd then b
  else if (FVal.fin false ulp (ulpExp b)).lt (addExact c base.negate).magnitude then b else c

/-- A code whose value lies within 2^-d of the fixed-point number `y`, or `y` rounded. -/
def withinAbs (f d : Nat) (x : FVal) (y : Int) : FVal :=
  let c := val32 (Config.fnCode f (code32 x) % 2 ^ 32)
  if c.odd then r32 (fxVal y 0)
  else if (fxOf c - y).natAbs ≤ 2 ^ (256 - d) then c else r32 (fxVal y 0)

/-! ### The functions -/

/-- e^x, exact at the values R66 and R187 name. -/
def fnExp (x : FVal) : FVal :=
  match x with
  | .nan => .nan
  | .inf s => if s then fzero else .inf false
  | .fin s m e =>
    if m = 0 then fNat 1
    else if 8 ≤ e + Nat.log2 m then (if s then within 1 2 x fzero else .inf false)
    else within 1 2 x (fxExp (fxOf x))

/-- 2^x. -/
def fnExp2 (x : FVal) : FVal :=
  match x with
  | .nan => .nan
  | .inf s => if s then fzero else .inf false
  | .fin s _ e =>
    if 8 ≤ e + Nat.log2 (match x with | .fin _ m _ => m | _ => 0) then (if s then within 2 2 x fzero else .inf false)
    else
      let k := fxOf x / fxOne
      within 2 2 x (fxVal (expSeries 90 0 fxOne (fxMul (fxOf x - k * fxOne) fxLn2)) k)

/-- log x and, with `two`, log2 x; 0 exactly for 1 (R187). -/
def fnLog (two : Bool) (x : FVal) : FVal :=
  match x with
  | .nan => .nan
  | .inf s => if s then .nan else .inf false
  | .fin s m e =>
    if m = 0 then .inf true
    else if s then .nan
    else
      let l := fxLog m e
      if l = 0 then fzero else within (if two then 4 else 3) 2 x (fxVal (if two then fxDiv l fxLn2 else l) 0)

/-- 1 / (1 + e^-x) for a finite value, before rounding. -/
def fxSigmoid (x : FVal) : FVal :=
  let a := fxOf x.magnitude
  let ea := fxOf (fxExp (-a))
  if x.sign then fxVal (fxDiv ea (fxOne + ea)) 0 else fxVal (fxDiv fxOne (fxOne + ea)) 0

/-- The sigmoid. -/
def fnSigmoid (x : FVal) : FVal :=
  match x with
  | .nan => .nan
  | .inf s => if s then fzero else fNat 1
  | .fin s m e =>
    if 8 ≤ e + Nat.log2 m ∧ m ≠ 0 then within 5 2 x (if s then fzero else fNat 1)
    else within 5 2 x (fxSigmoid x)

/-- The hyperbolic tangent. -/
def fnTanh (x : FVal) : FVal :=
  match x with
  | .nan => .nan
  | .inf s => .fin s 1 0
  | .fin s m e =>
    if 8 ≤ e + Nat.log2 m ∧ m ≠ 0 then within 6 2 x (.fin s 1 0)
    else
      let t := fxOf (fxExp (-(2 * fxOf x.magnitude)))
      let y := fxDiv (fxOne - t) (fxOne + t)
      within 6 2 x (if y = 0 then x else fxVal (if s then -y else y) 0)

/-- SiLU. -/
def fnSilu (x : FVal) : FVal :=
  match x with
  | .nan => .nan
  | .inf s => if s then .fin true 0 0 else .inf false
  | .fin s m e =>
    if 8 ≤ e + Nat.log2 m ∧ m ≠ 0 then within 7 3 x (if s then .fin true 0 0 else x)
    else within 7 3 x (mulExact x (fxSigmoid x))

/-- GELU in its erf form: 4 ulp, and 2^-33 absolute below 2^-10. -/
def fnGelu (x : FVal) : FVal :=
  match x with
  | .nan => .nan
  | .inf s => if s then .fin true 0 0 else .inf false
  | .fin s m e =>
    if m = 0 then x
    else if 3 ≤ e + Nat.log2 m then (if s then withinAbs 8 33 x 0 else within 8 4 x x)
    else
      let y := fxMul (fxOf x) (fxOne + fxErfHalf (fxOf x)) / 2
      if y.natAbs < 2 ^ 246 then withinAbs 8 33 x y else within 8 4 x (fxVal y 0)

/-- The reciprocal: 1 ulp. -/
def fnRecip (x : FVal) : FVal :=
  match x with
  | .fin s m e =>
    if m = 0 then fdiv (fNat 1) x
    else
      -- 2^k / m with k bits beyond those of m, and a bit more for what is left over
      let k := Nat.log2 m + 64
      within 9 1 x (.fin s (2 * (2 ^ k / m) + b2n (2 ^ k % m != 0)) (-(k : Nat) - e - 1))
  | _ => fdiv (fNat 1) x

/-- 1 / √x: 1 ulp. -/
def fnRsqrt (x : FVal) : FVal :=
  match x with
  | .nan => .nan
  | .inf s => if s then .nan else fzero
  | .fin s m e =>
    if m = 0 then .inf s
    else if s then .nan
    else
      -- 1/√(m·2^e) from √(2^a / m) with an even exponent left over
      let e' := e - e % 2
      let m' := m * 2 ^ (e % 2).toNat
      let a := 2 * (Nat.log2 m' + 64)
      let q := 2 ^ a / m'
      let r := isqrt q
      within 10 1 x (.fin false (2 * r + 1) (-(a / 2 : Nat) - e' / 2 - 1))

/-- The cosine, within 2^-22 (R493). -/
def fnCos (x : FVal) : FVal :=
  if x.odd then .nan else
    let a := fxAngle x
    withinAbs 11 22 x (trigSeries 100 0 fxOne (fxMul a a))

/-- The sine, within 2^-22 (R493). -/
def fnSin (x : FVal) : FVal :=
  if x.odd then .nan else
    let a := fxAngle x
    withinAbs 12 22 x (trigSeries 100 1 a (fxMul a a))

/-- The functions of vx.ew1 by FUNC; `imm` is IMM32 as FP32 (R137). -/
def ew1Fun (fn imm : Nat) (x : FVal) : FVal :=
  if fn = 1 then x.negate
  else if fn = 2 then x.magnitude
  else if fn = 3 then fmax x fzero
  else if fn = 4 then fnSilu x
  else if fn = 5 then fnGelu x
  else if fn = 6 then fnSigmoid x
  else if fn = 7 then fnTanh x
  else if fn = 8 then fnExp x
  else if fn = 9 then fnExp2 x
  else if fn = 10 then fnLog false x
  else if fn = 11 then fnLog true x
  else if fn = 12 then fnRecip x
  else if fn = 13 then fnRsqrt x
  else if fn = 14 then fsqrt x
  else if fn = 15 then fmul x (val32 imm)
  else x

end Sys2Proof.Machine
end

