-- ==== Sys2Proof/Machine/Engines.lean ====
section
/-!
DEFINITION. Which engines the PLC gives an MX instruction (R238), which cores it gives the segments of a request (R239), and how
it spreads one operation over engines (R144, R145).
-/
namespace Sys2Proof.Machine

/-- Clusters that carry partition `p` in the tick (R226). -/
def carriers (s : State) (p : Nat) : List Nat :=
  (tabulate (fun c => c) 8 0).filter (fun c => bitOf (fget s (PLC_EPOCH_CLUSTERS p)) c)

/-- The temperature bin of a signed 1/16 °C reading (R376). -/
def tempBin (t : Int) : Nat := (clampInt 0 7 ((t - 480) / 160)).toNat

/-- Forecast peak of hot spot `h`, signed, in 1/16 °C (R362). -/
def peakOf (s : State) (h : Nat) : Int := signed 16 (fget s (THM_FC_PEAK h))

/-- Health of engine `e`. -/
def healthOf (s : State) (e : Nat) : Health := mapGet { state := 0, limit := 0, excluded := 0 } s.health e

/-- Puts a core in its place by forecast peak, then number. -/
def coolInsert (s : State) (c : Nat) : List Nat → List Nat
  | [] => [c]
  | d :: ds =>
    if peakOf s (c / 2) < peakOf s (d / 2) ∨ (peakOf s (c / 2) = peakOf s (d / 2) ∧ c < d) then c :: d :: ds
    else d :: coolInsert s c ds

/-- The cores that carry partition `p`, coolest hot spot first (R238). -/
def coolCores (s : State) (p : Nat) : List Nat :=
  ((carriers s p).flatMap (fun k => tabulate (fun c => c) 8 (8 * k))).foldl (fun l c => coolInsert s c l) []

/-- The engines that may take an operation class, with those that only the fallback takes (R238). -/
def engineSets (s : State) (p cls : Nat) : List Nat × List Nat :=
  let es := (coolCores s p).flatMap (fun c => tabulate (fun e => e) 4 (4 * c))
  let es := es.filter (fun e => (healthOf s e).state != 2 && !bitOf (healthOf s e).excluded cls)
  let hot := fun (e : Nat) => (healthOf s e).state == 1
    && decide ((healthOf s e).limit < tempBin (peakOf s (e / 8)))
  (es.filter (fun e => !hot e), es.filter hot)

/-- The cores that the segments of a request are drawn from, in order: those of the engines that the PLC would list when the
step is admitted (R239). No instruction is known then, so no operation class is left out (log 63). -/
def segmentCores (s : State) (p : Nat) : List Nat :=
  let ok := fun (c : Nat) (cool : Bool) => (tabulate (fun e => e) 4 (4 * c)).any (fun e =>
    (healthOf s e).state != 2
      && !(cool && (healthOf s e).state == 1 && decide ((healthOf s e).limit < tempBin (peakOf s (c / 2)))))
  let cs := (coolCores s p).filter (fun c => ok c true)
  if cs.isEmpty then (coolCores s p).filter (fun c => ok c false) else cs

/-- Segment `i` of a request runs on core `i` of the list (R239). -/
def segWithCores (cores : List Nat) (g : SegInfo) : SegInfo := { g with cores := cores.take g.keys.length }

/-! ### Weight blocks and work items (R144, R145) -/

/-- How one engine works on a weight block (R144): elements of K, ACLK cycles for each activation row, and bytes of the block
with its scales and metadata. A block has 64 columns. -/
structure WeightBlock where
  kc : Nat
  cycles : Nat
  bytes : Nat
  deriving DecidableEq, Repr

/-- Columns of a weight block, and activation rows of an item. -/
def blockSide : Nat := 64

/-- The weight block of a pair of formats. -/
def weightBlock (fa fb : Nat) (sparse : Bool) : WeightBlock :=
  let narrow := fa == fb && fmtBits fa == 4
  let wide := fmtBits fa == 16
  let dense := if narrow then 128 else 64
  let kc := if sparse then 2 * dense else dense
  let column := dense * fmtBits fb / 8 + (if fmtBlock fb then kc / 32 else 0) + (if sparse then kc / 8 else 0)
  { kc := kc, cycles := if wide then 2 else 1, bytes := blockSide * column }

/-- One work item of an operation: its row block, its column block, its segment of K, and its first chunk and the one past its
last. -/
structure ItemSpan where
  rb : Nat
  cb : Nat
  seg : Nat
  first : Nat
  last : Nat
  deriving DecidableEq, Repr

/-- The work items of an mx.mm of `m` rows, reduction length `k` and `n` columns over `count` engines, in the order dealt
(R145). -/
def spread (m k n kc count : Nat) : List ItemSpan :=
  let rbs := ceilDiv m blockSide
  let cbs := ceilDiv n blockSide
  let chunks := ceilDiv k (max 1 kc)
  let split := min chunks (max 1 (count / max 1 (rbs * cbs)))
  (tabulate (fun r => r) rbs 0).flatMap (fun r => (tabulate (fun c => c) cbs 0).flatMap (fun c =>
    tabulate (fun s =>
      { rb := r, cb := c, seg := s, first := s * chunks / split, last := (s + 1) * chunks / split }) split 0))

/-- Item number `i` goes to engine `i` of the list, round and round (R145). -/
def dealTo (engines : List Nat) (i : Nat) : Nat := engines.getD (i % max 1 engines.length) 0

end Sys2Proof.Machine
end

