-- ==== Sys2Proof/Machine/Flags.lean ====
section
/-!
DEFINITION. The sticky flags of a step and the step status record (R67, R142).
-/
namespace Sys2Proof.Machine

def FLAG_ACC_SAT : Nat := 17
def FLAG_NAN_SEEN : Nat := 18
def FLAG_CONV_CLAMP : Nat := 19
def FLAG_HINT_IGNORED : Nat := 20
def FLAG_STREAM_RESIDUE : Nat := 21
def FLAG_EMPTY_ROW : Nat := 22
def FLAG_ROWS_DROPPED : Nat := 23
def FLAG_GATHER_RANGE : Nat := 24

/-- Flag bit `i` set where `b` holds; flags are sticky (R67). -/
def flagOr (flags i : Nat) (b : Bool) : Nat := if b then setBit flags i true else flags

/-- FAULT_INSN where no instruction faulted. -/
def noInsn : Nat := 0xFFFFFFFF

/-- The step status record of R142. -/
def statusRecord (insn : Nat) (stepOpen : Bool) (flags code : Nat) : Nat :=
  insn * 2 ^ 32 + b2n stepOpen * 2 ^ 25 + flags / 2 ^ 17 % 2 ^ 8 * 2 ^ 17 + code

end Sys2Proof.Machine
end

