-- ==== Sys2Proof/Machine/StepOps.lean ====
section
/-!
DEFINITION. Steps: the tick plan's offers (R229 to R234), admission (R101, R230), faults (R102), what a commit publishes
(R103, R104), step boundaries (R178, R207) and migration points (R241).
-/
namespace Sys2Proof.Machine

/-- ACLK in MHz, at least 1 for divisions. -/
def aclk (s : State) : Nat := max 1 (fget s CLK_ACLK_CUR_MHZ)

/-- Device time `t` in 1/1000 cycles of the ACLK in force, a unit in which every time of a plan is exact (R229). -/
def planTime (s : State) (t : Int) : Int := t * aclk s

/-- ACLK cycles that a step has run (R232). -/
def stepCycles (s : State) (st : StepSt) : Nat := (s.cyc - st.admitCyc) / 1000

/-- What the open step still needs by its estimate, in 1/1000 ACLK cycles (R229, R232). -/
def remains (s : State) (pt : Part) : Nat :=
  match pt.step with
  | none => 0
  | some st => if st.estOver then 0 else 1000 * st.est - (s.cyc - st.admitCyc)

/-- A partition has a step open. -/
def stepIsOpen (s : State) : Bool := s.parts.any (fun e => e.2.step.isSome)

/-- A step is open in some partition, or its publish window is. -/
def anyStepOpen (s : State) : Bool := s.parts.any (fun e => e.2.step.isSome || e.2.pub.isSome)

/-- Admission may be offered to partition `p` at all: READY or RUN, a Steward at the helm, no fence, membership where
it is required, no HOLD in force, no MAINT entry in force, a partition that is ACTIVE, and a cluster in service (R226,
R398, R405, R452, R463, R468, R469). -/
def admitAllowed (s : State) (p : Nat) : Bool :=
  (mode s == MODE_READY || mode s == MODE_RUN) && fget s HLM_HELM_STATE != 0 && !fbit s HLM_QUORUM_FENCED
    && (!fbit s HLM_MEMBER_REQUIRE || fbit s HLM_MEMBER_MEMBER) && !s.helm.holdInForce && !s.bist.noAdmit
    && (fget s (SEC_PART_STATE p) == PART_ACTIVE || fget s (SEC_PART_STATE p) == PART_CHANGING)
    && (partOf s p).destroying == 0 && !(carriers s p).isEmpty

/-! ### Row maps (R122, R201) -/

/-- A step with nothing in it, for reads outside a step. -/
def stepNone : StepSt :=
  { idx := 0, est := 0, admitCyc := 0, rowDesc := 0, rows := [], segs := [], flags := 0, nextNo := 0, sb := []
    stores := [], offers := [], staged := [], scratch := [], scratchStamp := [], statuses := [], commitIdx := none
    commitAt := none, estOver := false, aliases := [], holds := [], wild := [] }

/-- A row-map entry from its four words. -/
def rowEntOf (w : List Nat) : RowEnt :=
  let a := w.getD 0 0
  { bound := bitOf a 31, kind := fieldGet a 30 29, req := fieldGet a 11 0, token := w.getD 1 0, pos := w.getD 2 0
    kvlen := w.getD 3 0, dropped := false }

/-- The entries of the row map that a descriptor names. -/
def readRowMap (s : State) (st : StepSt) (p : Nat) (d : TDesc) : List RowEnt :=
  match tensorOf s p d.handle with
  | none => []
  | some t => tabulate (fun r => rowEntOf (readView s st t d r 0 4).codes) (tdDim d 1) 0

/-! ### Admission -/

/-- The module is in RUN while steps are admitted (R8; log 29). -/
def enterRun (s : State) : State := if mode s = MODE_READY then setMode MODE_RUN s else s

/-- The step that a held STEP opens: its row map is read, its requests are checked and reserved for (R101, R204). -/
def openStep (p : Nat) (h : HeldStep) (s : State) : State :=
  let d := tdOf h.desc
  let rows := readRowMap s stepNone p d
  let s := match tensorOf s p d.handle with
    | none => s
    | some t => noteRead t FMT_INT32 d.view (tdCount d) s
  let a := admitRows p rows s
  let s := updPart p (fun pt => { pt with
    held := none, lastEst := some h.est, pc := h.idx + 1
    step := some { stepNone with idx := h.idx, est := h.est, admitCyc := s.cyc, rowDesc := h.desc, rows := a.rows
                                 segs := a.segs.map (segWithCores (segmentCores a.st p)), statuses := a.statuses } }) a.st
  let s := fset (TK_PART_HELD p) 0 (statInc TK_STAT_ADMITTED s)
  let s := traceRec 0x01 p (p % 8) (fget s TK_COUNT_COUNT % 2 ^ 32 * 2 ^ 96 + h.est * 2 ^ 64 + h.idx * 2 ^ 32
    + (partOf s p).used % 256) s
  enterRun s

/-- Offers admission to the STEP at which partition `p` is held (R230). -/
def offer (p : Nat) (s : State) : State :=
  let pt := partOf s p
  match pt.held with
  | none => s
  | some h =>
    if !admitAllowed s p ∨ pt.step.isSome ∨ pt.pub.isSome ∨ pt.slots ≤ pt.used
        ∨ planTime s (pt.limit.getD 0) < planTime s s.now.toNat + 1000 * h.est then s
    else
      let s := updPart p (fun pt => { pt with used := pt.used + 1, est := h.est }) s
      let s := fset (TK_PART_USED p) (min 255 (fget s (TK_PART_USED p) + 1)) s
      let s := if fbit s (TK_PART_MODE p) then fset (TK_PART_CREDITS p) (fget s (TK_PART_CREDITS p) - 1) s else s
      openStep p h s

/-! ### Overrun and deferral (R233 to R235) -/

/-- Partition `p` overruns the limit of its plan; one that no plan has been made for yet does not. -/
def overruns (s : State) (p : Nat) : Bool :=
  let pt := partOf s p
  match pt.limit with
  | none => false
  | some l => decide (planTime s l < planTime s s.now.toNat + remains s pt + (pt.slots - pt.used) * (1000 * pt.est))

/-- EV_TICK_OVERRUN with its record, once per partition per tick (R235). -/
def postOverrun (p : Nat) (s : State) : State :=
  let pt := partOf s p
  if pt.overrunPosted then s
  else
    let s := updPart p (fun pt => { pt with overrunPosted := true }) s
    let v := min 255 pt.slots + min 255 pt.used * 256 + min 255 pt.deferred * 65536
      + fget s TK_COUNT_COUNT % 2 ^ 32 * 2 ^ 32
    postAsync p { typ := 5, status := 0, tag := 0, value := v, stamp := s.now, payload := 0 }
      (statInc TK_STAT_OVERRUN (raise .tickOverrun p s))

/-- Defers `k` slots of partition `p`. -/
def deferSlots (p k : Nat) (s : State) : State :=
  if k = 0 then s
  else
    let s := updPart p (fun pt => { pt with slots := pt.slots - k, deferred := pt.deferred + k }) s
    let pt := partOf s p
    let s := fset (TK_PART_SLOTS p) (min 255 pt.slots) (fset (TK_PART_DEFERRED p) (min 255 pt.deferred) s)
    traceRec 0x03 p (p % 8) (fget s TK_COUNT_COUNT % 2 ^ 32 * 2 ^ 96 + pt.deferred % 256 * 256
      + pt.slots % 256) (statAdd TK_STAT_DEFERRED k s)

/-- Defers the latest slots of partition `p` while it overruns; `fuel` is its unstarted slots. -/
def deferWhile (p : Nat) : Nat → State → State
  | 0, s => s
  | fuel + 1, s => if overruns s p then deferWhile p fuel (deferSlots p 1 s) else s

/-- Partitions that exist, by priority, highest first, or lowest first; ties by number. -/
def byPrio (s : State) (high : Bool) : List Nat :=
  let ps := (tabulate (fun p => p) 8 0).filter (fun p => fbit s (TK_PART_VALID p))
  (tabulate (fun k => if high then 7 - k else k) 8 0).flatMap (fun k => ps.filter (fun p => fget s (TK_PART_PRIO p) == k))

/-- In the shared plan, every partition below partition `p` loses its unstarted slots; answers those that lost any. -/
def deferBelow (p : Nat) (x : State × List Nat) : State × List Nat :=
  if fbit x.1 TK_CTRL_SHARED then
    ((byPrio x.1 false).filter (fun q => decide (fget x.1 (TK_PART_PRIO q) < fget x.1 (TK_PART_PRIO p)))).foldl
      (fun x q =>
        let k := (partOf x.1 q).slots - (partOf x.1 q).used
        if k = 0 then x else (deferSlots q k x.1, x.2 ++ [q])) x
  else x

/-- The check of R233, made at each change of ACLK and at each commit by the Steward at the helm. The records follow its
deferrals, so that they carry them (R235; log 49). -/
def overrunCheck (s : State) : State :=
  if !helmHeld s then s
  else
  let x := (byPrio s true).foldl (fun (x : State × List Nat) p =>
    if overruns x.1 p then
      let x := deferBelow p (x.1, x.2 ++ [p])
      (deferWhile p ((partOf x.1 p).slots - (partOf x.1 p).used) x.1, x.2)
    else x) (s, [])
  x.2.foldl (fun s p => postOverrun p s) x.1

/-! ### Step boundaries -/

/-- A step boundary of partition `p` (R178): the pages of requests that have ended are released and become FREE, retired entries
with them, and pause marks take effect (R207). -/
def stepBoundary (p : Nat) (s : State) : State := retireBoundary p (pauseBoundary p (kvBoundary p (releaseEnded p s)))

/-- The step status record goes to selector 2, to the trace and to the completion ring (R142, R315 TYPE 0x02). -/
def postStep (p rec : Nat) (tc : Stamp) (s : State) : State :=
  let s := updPart p (fun pt => { pt with lastStatus := BitVec.ofNat 64 rec }) s
  let s := traceRec 0x02 p (p % 8) (rec * 2 ^ 64 + tc.toNat) s
  postAsync p { typ := 2, status := rec % 65536, tag := 0, value := rec, stamp := s.now
                payload := tc.toNat + fget s TK_COUNT_COUNT % 2 ^ 32 * 2 ^ 64 } s

/-- FENCED is entered at a step boundary with no step open in any partition, once a fence is accepted (R463). -/
def fenceEntry (s : State) : State :=
  if fbit s HLM_QUORUM_FENCED && !anyStepOpen s && (mode s == MODE_READY || mode s == MODE_RUN || mode s == MODE_MAINT)
  then qpErrorAll (setMode MODE_FENCED s) else s

/-- Word `k` of the poison marks lies in a store of a cluster that carries partition `p`. -/
def poisonWordOf (s : State) (p k : Nat) : Bool :=
  let u := k / 2 ^ 24 % 64
  (carriers s p).contains (if k / 2 ^ 30 = 1 then u / 8 else u)

/-- The scrub that a step's fault performs, and the recopying of tensors, clear the poisoned words of the partition's stores
(R254; log 68). -/
def poisonScrub (p : Nat) (s : State) : State :=
  if s.sramPoison.isEmpty then s else { s with sramPoison := s.sramPoison.filter (fun e => !poisonWordOf s p e.1) }

/-- An open step ends in a fault (R102): STAGED pages become FREE, nothing publishes, streams and stations are emptied,
frames it held are let go, each request that it binds is reported with the code, and the program halts. `resume` is where
a resume goes on. -/
def faultStep (p code insn : Nat) (resume : Nat) (s : State) : State :=
  match (partOf s p).step with
  | none => s
  | some st =>
    let hs := (kvTensors s p).map Prod.fst
    let s := st.segs.foldl (fun s g => hs.foldl (fun s h => kvSettle g.req h 0 s) s) s
    let reqs := (boundReqs st.rows).filter (fun r => reqInRange s p r && rqState (reqGet s r) != RQ_FREE
      && (st.segs.any (fun g => g.req == r) || st.statuses.any (fun x => x.1 == r)))
    let live := reqs.filter (fun r => reqLive s p r)
    let s := live.foldl (fun s r => reqUpd r (rqSet0 15 0 code) s) s
    let s := kvUnstageAll p (releaseEnded p s)
    let s := updPart p (fun pt => { pt with
      step := none, queues := [], act := [], streams := [], stuckAt := none, running := false, resumePc := resume, waitMask := none
      held := none }) (fset (TK_PART_HELD p) 0 s)
    let s := poisonScrub p (letGo st.holds s)
    let s := postStatuses p (reqs.map (fun r => (r, code))) s
    let s := postStep p (statusRecord insn true st.flags code) s.now s
    destroyGo p (fenceEntry (stepBoundary p s))

/-- An instruction outside any step faults: the program halts, and the record shows no open step (R126). -/
def haltFault (p code insn : Nat) (resume : Nat) (s : State) : State :=
  postStep p (statusRecord insn false 0 code) s.now
    (updPart p (fun pt => { pt with running := false, resumePc := resume, waitMask := none, held := none })
      (fset (TK_PART_HELD p) 0 s))

/-! ### What a commit publishes (R103, R104) -/

/-- Batch row `r` of the step publishes: bound to no request, or to one of `ok`. Rows beyond the row map are bound to
none (log 9). -/
def rowPublishes (st : StepSt) (ok : List Nat) (r : Nat) : Bool :=
  match st.rows[r]? with
  | none => true
  | some x => !x.bound || (!x.dropped && ok.contains x.req)

/-- Writes one held piece of a row, when its row publishes, and raises the tensor's origin stamp (R90). -/
def publishOne (p : Nat) (st : StepSt) (ok : List Nat) (s : State) (x : HeldStore) : State :=
  if rowPublishes st ok x.row then
    match tensorOf s p x.handle with
    | none => s
    | some t => writeElems p t x.fmt x.elem x.data s
  else s

/-- The origin stamp of each persistent tensor: the largest stamp of a tile with a publishing row (R90). A KV tensor keeps its own
(DESIGN CHOICE; log 76). -/
def publishStamps (st : StepSt) (ok : List Nat) (s : State) : State :=
  let live := st.stores.filter (fun x => rowPublishes st ok x.row)
  let hs := live.foldl (fun l x => if l.contains x.handle then l else l ++ [x.handle]) []
  hs.foldl (fun s h =>
    let m := (live.filter (fun x => x.handle == h)).foldl (fun m x => max m x.stamp.toNat) 0
    updTensor h (fun t => { t with stamp := BitVec.ofNat 64 m }) s) s

/-- Bytes of SRAM that buffers of the codec slots of partition `p` take (R288). -/
def frameSram (s : State) (p : Nat) : Nat :=
  s.slots.foldl (fun n e =>
    if fget s (VCC_SLOT_CFG_PART e.1) = p then e.2.bufs.foldl (fun n b => n + b.sram) n else n) 0

/-- Bytes of the partition's SRAM that its stream slots, its scratch, frame buffers and its PIN tensors other than `h` leave (R240,
R243). -/
def sramRoom (s : State) (p h : Nat) : Nat :=
  let pt := partOf s p
  let pinned := s.tensors.foldl (fun n e =>
    match e.2 with
    | none => n
    | some t => if t.part = p ∧ t.cls = 0 ∧ e.1 ≠ h ∧ t.hint = 1 ∧ t.reason = 0 then n + t.size else n) 0
  sramOf s p - (pt.slotSpace + pt.scratchSram + frameSram s p + pinned)

/-- An engine may take one of the classes that read a tensor: it is not retired, nor excluded from all of them. -/
def engineReads (s : State) (readers e : Nat) : Bool :=
  (healthOf s e).state != 2 && (readers == 0 || (tabulate (fun c => c) 32 0).any (fun c =>
    bitOf readers c && !bitOf (healthOf s e).excluded c))

/-- Why the cores of cluster `c` are no place for a tensor now (R243): 2 the forecast, 3 the health of its engines, 0 they are. -/
def clusterCause (s : State) (readers c : Nat) : Nat :=
  let es := (tabulate (fun e => e) 32 (32 * c)).filter (engineReads s readers)
  if es.isEmpty then 3
  else if es.all (fun e => (healthOf s e).state == 1 && decide ((healthOf s e).limit < tempBin (peakOf s (e / 8)))) then 2
  else 0

/-- The cluster that takes a tensor's copy: that of the coolest core of the partition whose engines can read it (log 13). -/
def holderPick (s : State) (p : Nat) (t : Tensor) : Option Nat :=
  ((coolCores s p).map (fun c => c / 8)).find? (fun c => clusterCause s t.readers c == 0)

/-- Why the PLC declines a PIN hint (R100, R243), 0 where it does not. A tensor that has its place by its class cannot be moved into
SRAM (R240): there is no room for it (log 69). -/
def pinCause (s : State) (p h : Nat) (t : Tensor) : Nat :=
  if t.cls ≠ 0 then (if t.level < 2 then 0 else 1)
  else if sramRoom s p h < t.size then 1
  else match t.holder with
    | some c => if (clustersOf s p).contains c then clusterCause s t.readers c else 4
    | none =>
      if (holderPick s p t).isSome then 0
      else if (carriers s p).any (fun c => clusterCause s t.readers c == 2) then 2 else 3

/-- Bytes moved for partition `p` advance its placement epoch (R241), with a trace record. -/
def epochNext (p moved : Nat) (s : State) : State :=
  if moved = 0 then s
  else
    let e := (fget s (PLC_EPOCH_EPOCH p) + 1) % 2 ^ 32
    let s := fset (PLC_EPOCH_LOW p) (e % 256) (fset (PLC_EPOCH_EPOCH p) e s)
    traceRec 0x05 p (p % 8) (moved * 2 ^ 64 + e % 256) (statAdd PLC_STAT_MIG_BYTES moved s)

/-- Mirrors for stack `i`, while its retraining is scheduled, within the budget; dropped when it is over (R264, R265), but kept
for a stack that has been lost. -/
def mirrorPoint (p : Nat) (a : State × MigBudget) (i : Nat) : State × MigBudget :=
  let s := a.1
  if fbit s (MEM_STACK_DUE i) then
    let a := (mirrorWants s p i).foldl (mirrorAdd p i) a
    let all := (tabulate (fun q => q) 8 0).all (fun q => (mirrorWants a.1 q i).isEmpty)
    (if all then fset (MEM_STACK_MIRROR_READY i) 1 a.1 else a.1, a.2)
  else if (hbmOf s i).offline then a
  else (mirrorDrop p i s, a.2)

/-- The PIN hint of a tensor is examined (R243): a cause declines it, and a declined hint whose cause has passed is honoured. -/
def hintAgain (p : Nat) (s : State) : State :=
  s.tensors.foldl (fun s e =>
    match mapGet none s.tensors e.1 with
    | none => s
    | some t =>
      if t.part ≠ p ∨ t.hint ≠ 1 then s
      else
        let c := pinCause s p e.1 t
        if c = t.reason then s
        else if c = 0 then updTensor e.1 (fun t => { t with reason := 0 }) s
        else if t.reason = 0 then declineHint p e.1 c (if t.cls = 0 then copyDrop e.1 s else s)
        else updTensor e.1 (fun t => { t with reason := c }) s) s

/-- The persistent tensors of partition `p` that the PLC wants in SRAM, in the order in which it moves them (R241, R242): those with
an honoured PIN hint, then those without a hint by access count per byte, as room is left. -/
def sramWants (s : State) (p : Nat) : List (Nat × Tensor) :=
  let ts := s.tensors.filterMap (fun e => (e.2.filter (fun t => t.part == p && t.cls == 0 && t.size != 0)).map (fun t => (e.1, t)))
  let pin := ts.filter (fun e => e.2.hint == 1 && e.2.reason == 0)
  let free := sortBy (fun (a b : Nat × Tensor) => decide (b.2.access * a.2.size < a.2.access * b.2.size))
    (ts.filter (fun e => e.2.hint == 0 && e.2.access != 0 && (holderPick s p e.2).isSome))
  pin ++ (free.foldl (fun (x : List (Nat × Tensor) × Nat) e =>
    if e.2.size ≤ x.2 then (x.1 ++ [e], x.2 - e.2.size) else x) ([], sramRoom s p 0)).1

/-- A tensor's copy is built in SRAM, as far as the budget reaches; once whole, tiles are read from it. -/
def copyBuild (p : Nat) (a : State × MigBudget) (e : Nat × Tensor) : State × MigBudget :=
  let t := e.2
  if t.level < 2 then a
  else
    let k := min a.2.left (t.size - t.moved)
    let whole := t.moved + k == t.size
    let c := t.holder.or (holderPick a.1 p t)
    (updTensor e.1 (fun t => { t with moved := t.moved + k, holder := c, level := if whole then 1 else t.level }) a.1,
     a.2.take k (!whole))

/-- The copies of partition `p` follow what the PLC wants: those not wanted any more are dropped, and others are built. -/
def copiesMove (p : Nat) (a : State × MigBudget) : State × MigBudget :=
  let wants := sramWants a.1 p
  let s := a.1.tensors.foldl (fun s e =>
    if e.2.any (fun t => t.part == p && t.cls == 0 && t.holder.isSome) && !wants.any (fun w => w.1 == e.1) then copyDrop e.1 s
    else s) a.1
  wants.foldl (copyBuild p) (s, a.2)

/-- A migration point of partition `p` (R241): mirrors, hints and copies, within MIG_MAX_MIB. -/
def migrationPoint (p : Nat) (s : State) : State :=
  let b : MigBudget := { left := fget s PLC_CTRL_MIG_MAX_MIB * 1048576, moved := 0, limited := false }
  let a := (tabulate (fun i => i) 6 0).foldl (mirrorPoint p) (s, b)
  let a := copiesMove p (hintAgain p a.1, a.2)
  epochNext p a.2.moved (if a.2.limited then fset PLC_STATUS_MIG_LIMITED 1 a.1 else a.1)

end Sys2Proof.Machine
end

