-- ==== Sys2Proof/Machine/Tiles.lean ====
section
/-!
DEFINITION. Tiles between stations: streams and KEEP (R85, R86), headers (R89 to R93), the scoreboard (R96), and what
one station instruction holds while it runs. `Run` is the state of a partition's open step, taken apart.
-/
namespace Sys2Proof.Machine

/-- An open step being run: the state around it, its partition and step, the index of the instruction at work, and the
fault met, if any. -/
structure Run where
  s : State
  p : Nat
  pt : Part
  st : StepSt
  insn : Nat
  fault : Option Nat

/-- No attention tile. -/
def noInfo : TileInfo :=
  { grp := 0, head := 0, seg := 0, key0 := 0, keys := 0, pairs := [], heads := 0, last := true
    split := false, flat := 0, inner := 1 }

namespace Run

/-- Sets a flag of the step (R67). -/
def flag (i : Nat) (b : Bool) (r : Run) : Run := { r with st := { r.st with flags := flagOr r.st.flags i b } }

/-- The next free list is taken. -/
def free (r : Run) : Run := { r with s := freeUse 1 r.s }

/-- The step meets a fault; the first stands. -/
def fail (code : Nat) (r : Run) : Run := { r with fault := r.fault.or (some code) }

/-- The tiles in stream `i`, oldest first. -/
def stream (r : Run) (i : Nat) : List Tile := mapGet [] r.pt.streams i

/-- Sets the tiles of stream `i`. -/
def setStream (i : Nat) (l : List Tile) (r : Run) : Run :=
  { r with pt := { r.pt with streams := mapSet [] r.pt.streams i l } }

/-- The tensor that descriptor `d` names. -/
def tensor (r : Run) (d : TDesc) : Option Tensor := tensorOf r.s r.p d.handle

end Run

/-! ### Liveness of rows (R93, R105) -/

/-- Batch row `i` is bound to no request or to one that is live now; rows beyond the row map are bound to none (log 9). -/
def rowLive (r : Run) (i : Nat) : Bool :=
  match r.st.rows[i]? with
  | none => true
  | some x => !x.bound || (!x.dropped && reqLive r.s r.p x.req)

/-- A tile of keys or values (R180): its rows are no batch rows. -/
def keyTile (t : Tile) : Bool := t.info.grp != 0 && t.info.pairs.isEmpty

/-- The request of an attention tile is live. -/
def grpLive (r : Run) (t : Tile) : Bool :=
  match r.st.segs[t.info.grp - 1]? with
  | none => false
  | some g => t.info.grp != 0 && reqLive r.s r.p g.req

/-- The batch row of tile row `i`: the index of the outermost dimension that the row lies in (R92; log 61). -/
def tileRow (t : Tile) (i : Nat) : Nat :=
  match t.info.pairs[i]? with
  | some x => x.1
  | none => if keyTile t then t.hdr.rowBase else (t.info.flat + i) / max 1 t.info.inner

/-- The ROWMASK that IN gives the first `n` rows of a tile (R93). -/
def liveMask (r : Run) (t : Tile) : Nat → Nat
  | 0 => 0
  | n + 1 => liveMask r t n + (if rowLive r (tileRow t n) then 2 ^ n else 0)

/-- The effective mask of R105 for tile row `i`. -/
def effective (r : Run) (t : Tile) (i : Nat) : Bool := bitOf t.hdr.rowMask i && rowLive r (tileRow t i)

/-! ### Making and pushing tiles -/

/-- A tile of rows in a format, with the stamp and mask given; tile row 0 is row `flat` of its tensor, whose batch rows are of
`inner` rows each. PUSH fills in the rest. A row that ends within a block sets PAD (R89). -/
def mkTile (fmt : Nat) (rows : List Row) (stamp : Stamp) (mask flat inner : Nat) (pad : Bool) : Tile :=
  let n := (rows.map (fun x => x.codes.length)).headD 0
  { hdr := { stamp := stamp, tick := 0, rowMask := mask, rowBase := flat / max 1 inner % 65536, tileIndex := 0, format := fmt
             place := 0, stream := 0, rows := rows.length, rowBytes := bytesOf fmt n, last := false
             pad := pad || (fmtBlock fmt && n % 32 != 0) }
    rows := rows, stats := [], info := { noInfo with flat := flat, inner := inner } }

/-- The level of a registered tensor in PLACE: DRAM where nothing else is known (R92; log 13). -/
def placeLevel (r : Run) (h : Nat) : Nat :=
  match tensorOf r.s r.p h with
  | none => 0
  | some t => t.level

/-- PLACE of a tile that the first core of the partition pushes (R92; log 13). -/
def placeTag (r : Run) (level : Nat) : Nat :=
  level * 2 ^ 14 + (carriers r.s r.p).headD 0 * 8 * 2 ^ 8 + fget r.s (PLC_EPOCH_LOW r.p)

/-- A row of free values: element `j` of free list `k`, from `o` on. -/
def freeRow (k f n o : Nat) : Row :=
  { codes := tabulate (fun j => Config.freeAt k j % 2 ^ fmtBits f) n o
    scales := if fmtBlock f then tabulate (fun j => Config.freeAt k j % 256) (ceilDiv n 32) (o + n) else [] }

/-- The clock ratio FCLK ≥ 2 × ACLK does not hold: not now, or not at the ACLK that MAX_MHZ allows (R350). FCLK never falls below
XCLK / 2. -/
def ratioBad (s : State) : Bool :=
  let f := fget s CLK_FCLK_CUR_MHZ
  decide (f < 2 * fget s CLK_ACLK_CUR_MHZ)
    || (!(fget s CLK_STATUS_COAST).testBit 1 && decide (f < 2 * fget s CLK_ACLK_MAX_MHZ))

/-- The data of a tile that a station reads or writes: open values while a clock ratio is violated (R350, R400). -/
def tileAt (r : Run) (t : Tile) : Tile :=
  if ratioBad r.s then
    { t with
      rows := (t.rows.zip (tabulate (fun i => i) t.rows.length 0)).map (fun e =>
        freeRow r.s.free t.hdr.format e.1.codes.length (e.2 * 2 ^ 24))
      stats := (t.stats.zip (tabulate (fun i => i) t.stats.length 0)).map (fun e =>
        (Config.freeAt r.s.free (2 ^ 60 + 2 * e.2) % 2 ^ 32, Config.freeAt r.s.free (2 ^ 60 + 2 * e.2 + 1) % 2 ^ 32)) }
  else t

/-- The free values of `tileAt` are taken. -/
def tileUsed (r : Run) : Run := if ratioBad r.s then r.free else r

/-- A word of the partition's stores is poisoned. -/
def sramBad (r : Run) : Bool := r.s.sramPoison.any (fun e => poisonWordOf r.s r.p e.1)

/-- A read of SRAM. Which words it covers is open (log 68): where words of the partition's stores are poisoned, a free value tells
whether it meets one, and the step faults (R254). -/
def sramRead (r : Run) : Run :=
  if sramBad r then
    (if Config.freeAt r.s.free (2 ^ 61) % 2 = 1 then r.free.fail ST_MEM_UNCORRECTABLE else r.free)
  else r

/-- A write of SRAM clears the poison of the words that it covers whole (R254), which a free value tells (log 68). -/
def sramWrite (r : Run) : Run :=
  if sramBad r then
    { r.free with s := (freeUse 1 { r.s with sramPoison := r.s.sramPoison.filter (fun e =>
        !(poisonWordOf r.s r.p e.1 && Config.freeAt r.s.free (2 ^ 61 + e.1) % 2 == 1)) }) }
  else r

/-- Tiles read of a tensor raise its access count (R236). -/
def countTiles (h n : Nat) (r : Run) : Run := { r with s := updTensor h (fun t => { t with access := t.access + n }) r.s }

/-- The station writes SO of the instruction: the tile enters the stream with its final header (R89 to R93). IN and KV
set ROWMASK here; one tile in 2^TILE_SHIFT is sampled to the trace (R244). -/
def pushTile (a : Active) (t : Tile) (n : Nat) (last : Bool) (r : Run) : Run :=
  let so := a.insn.w.so.toNat
  let op := a.insn.op
  let mask := if opStation op = 0 then liveMask r t t.rows.length
    else if opStation op = 3 then (if grpLive r t then 2 ^ t.rows.length - 1 else 0)
    else t.hdr.rowMask
  let level := if opStation op = 0 ∨ opStation op = 3 then placeLevel r (tdOf a.insn.dA).handle else 0
  let h := { t.hdr with
    tick := fget r.s TK_COUNT_COUNT % 2 ^ 32, rowMask := mask, tileIndex := n % 2 ^ 24, stream := so, last := last
    place := placeTag r level }
  let r := (sramWrite (tileUsed r)).setStream so (r.stream so ++ [{ tileAt r t with hdr := h }])
  let r := if opStation op = 0 ∨ opStation op = 3 then countTiles (tdOf a.insn.dA).handle 1 r else r
  if n % 2 ^ fget r.s TB_TRACE_CTRL_TILE_SHIFT = 0 then
    { r with s := traceRec 0x07 r.p (r.p % 8) (h.tick * 2 ^ 96 + h.place * 2 ^ 80 + h.tileIndex * 2 ^ 56 + so) r.s }
  else r

/-- The output stream has room (R86). -/
def hasRoom (r : Run) (a : Active) : Bool :=
  decide ((r.stream a.insn.w.so.toNat).length < stDepth r.pt a.insn.w.so.toNat)

/-! ### Reading streams -/

/-- Reads the next tile of SA: from the head, or in place under KEEP (R85); none while the stream is empty. -/
def takeA (r : Run) (a : Active) : Option (Tile × Run × Active) :=
  let i := a.insn.w.sa.toNat
  let l := r.stream i
  if a.insn.w.ka then
    (l[a.aPos]?).map (fun t => (tileAt r t, sramRead (tileUsed r), { a with aPos := a.aPos + 1, aEnd := t.hdr.last }))
  else
    match l with
    | [] => none
    | t :: ts => some (tileAt r t, (sramRead (tileUsed r)).setStream i ts, { a with aEnd := t.hdr.last })

/-- Reads the next tile of SB. -/
def takeB (r : Run) (a : Active) : Option (Tile × Run × Active) :=
  let i := a.insn.w.sb.toNat
  let l := r.stream i
  if a.insn.w.kb then
    (l[a.bPos]?).map (fun t => (tileAt r t, sramRead (tileUsed r), { a with bPos := a.bPos + 1, bEnd := t.hdr.last }))
  else
    match l with
    | [] => none
    | t :: ts => some (tileAt r t, (sramRead (tileUsed r)).setStream i ts, { a with bEnd := t.hdr.last })

/-- The next tile of SB is there. -/
def readyB (r : Run) (a : Active) : Bool :=
  let l := r.stream a.insn.w.sb.toNat
  if a.insn.w.kb then decide (a.bPos < l.length) else !l.isEmpty

/-! ### The scoreboard (R96) -/

/-- The accesses of an instruction that the scoreboard orders: those to scratch and KV handles. A scratch weight of mx.mm, which R96
does not list, is ordered by its whole handle (DEDUCED; log 77). -/
def sbOf (i : StInsn) : List SbEntry :=
  let fn := i.w.func.toNat
  let ta := tdOf i.dA
  let tb := tdOf i.dB
  let mk := fun (t : TDesc) (write whole : Bool) =>
    ({ no := i.no, handle := t.handle, write := write, whole := whole, shape := if t.cls = 2 then [] else tdShape t
       touched := [], done := false } : SbEntry)
  let scr := fun (t : TDesc) (write whole : Bool) => if t.cls = 1 then [mk t write whole] else []
  if i.op = OP_LOAD ∨ i.op = OP_WIN then scr ta false false
  else if i.op = OP_GATHER then scr ta false true ++ scr tb false (tb.dtype == 2)
  else if i.op = OP_MM ∧ fn % 2 = 0 then scr ta false true
  else if i.op = OP_ACT ∨ i.op = OP_RMS ∨ i.op = OP_LN ∨ i.op = OP_ROPE then scr ta false true
  else if i.op = OP_SMAX then scr ta false true ++ (if fn % 2 = 1 then scr tb false true else [])
  else if i.op = OP_KVG then mk ta false false :: scr tb false true
  else if i.op = OP_STORE then scr ta true false
  else if i.op = OP_APPEND then [mk ta true false]
  else []

/-- The access of instruction `no` to unit `u` of handle `h` may go on: no earlier access of the other kind still has
that unit before it. -/
def sbClear (r : Run) (no h : Nat) (write whole : Bool) (shape : List Nat) (u : Nat) : Bool :=
  r.st.sb.all (fun e =>
    decide (no ≤ e.no) || e.handle != h || e.write == write || e.done
      || (!e.whole && !whole && e.shape == shape && e.touched.contains u))

/-- Instruction `no` has done unit `u` of handle `h`. -/
def sbTouch (no h u : Nat) (r : Run) : Run :=
  { r with st := { r.st with sb := r.st.sb.map (fun e =>
      if e.no = no ∧ e.handle = h then { e with touched := u :: e.touched } else e) } }

/-- Instruction `no` has done its access to handle `h`, or all of them. -/
def sbDone (no : Nat) (h : Option Nat) (r : Run) : Run :=
  { r with st := { r.st with sb := r.st.sb.map (fun e =>
      if e.no = no ∧ (h.isNone ∨ h = some e.handle) then { e with done := true } else e) } }

/-- A whole-handle read of instruction `i` through descriptor `t` may go on. -/
def sbWholeOk (r : Run) (i : StInsn) (t : TDesc) : Bool := t.cls != 1 || sbClear r i.no t.handle false true [] 0

/-! ### Reading tensors in a step -/

/-- Columns [c, c + n) of row `i` of the view of `d`, with the fault that the read meets and what it notes. A persistent tensor
that the host or a peer has written during the step reads as free values (R98). -/
def readRow (r : Run) (d : TDesc) (i c n : Nat) : Row × Run :=
  match r.tensor d with
  | none => ({ codes := [], scales := [] }, r)
  | some t =>
    let e := d.view + i * tdDim d 0 + c
    let row := if r.st.wild.contains d.handle then freeRow r.s.free (tdElem d) n 0 else readView r.s r.st t d i c n
    let x := readTensor r.p t (tdElem d) (tdSparse d) e n r.s
    let r := { r with s := noteRead t (tdElem d) e n x.1 }
    let r := if t.level < 2 then sramRead r else r
    (row, match x.2 with
      | none => r
      | some c => r.fail c)

/-- Rows [i, i + k) of a view, columns [c, c + n). -/
def readRows (d : TDesc) (c n : Nat) : Nat → Nat → Run → List Row × Run
  | 0, _, r => ([], r)
  | k + 1, i, r =>
    let x := readRow r d i c n
    let xs := readRows d c n k (i + 1) x.2
    (x.1 :: xs.1, xs.2)

/-- A row of zeros: +0 elements with scale byte 0 (R134, R156). -/
def zeroRow (f n : Nat) : Row :=
  { codes := List.replicate n 0, scales := if fmtBlock f then List.replicate (ceilDiv n 32) 0 else [] }

/-- Columns [c, c + n) of a row; blocks are cut whole. -/
def rowCut (f : Nat) (x : Row) (c n : Nat) : Row :=
  { codes := (x.codes.drop c).take n
    scales := if fmtBlock f then (x.scales.drop (c / 32)).take (ceilDiv n 32) else [] }

/-- Two rows side by side. -/
def rowCat (x y : Row) : Row := { codes := x.codes ++ y.codes, scales := x.scales ++ y.scales }

/-- Tiles side by side as one band of rows. -/
def bandRows (ts : List Tile) : List Row :=
  let n := ts.foldl (fun m t => max m t.rows.length) 0
  tabulate (fun i => ts.foldl (fun x t => rowCat x (t.rows.getD i { codes := [], scales := [] }))
    { codes := [], scales := [] }) n 0

/-- Columns of a tile. -/
def tileCols (t : Tile) : Nat := (t.rows.map (fun x => x.codes.length)).headD 0

/-- Cuts a band of rows into tiles of the declared shape of stream `so`, in row-major tile order; the stamp, mask, PAD
and rows are those of the tile `src` that the band starts with. -/
def cutBand (r : Run) (so f : Nat) (rows : List Row) (src : Tile) : List Tile :=
  let w := max 1 (elemsIn f (stRowBytes r.pt so))
  let h := stRows r.pt so
  let n := (rows.map (fun x => x.codes.length)).headD 0
  (tabulate (fun i => i) (ceilDiv rows.length h) 0).flatMap (fun i =>
    tabulate (fun c =>
      mkTile f (((rows.drop (i * h)).take h).map (fun x => rowCut f x (c * w) (min w (n - c * w)))) src.hdr.stamp
        (src.hdr.rowMask / 2 ^ (i * h)) (src.info.flat + i * h) src.info.inner src.hdr.pad) (ceilDiv n w) 0)

/-! ### Progress of an instruction -/

/-- Tiles formed are queued for the output stream. -/
def emit (a : Active) (ts : List Tile) : Active := { a with outq := a.outq ++ ts }

/-- One unit of work is done. -/
def bump (a : Active) : Active := { a with pos := a.pos + 1 }

end Sys2Proof.Machine
end

