-- ==== Sys2Proof/Machine/InOps.lean ====
section
/-!
DEFINITION. What the IN and KV stations do unit by unit (R133, R134, R153 to R157, R180, R181) and the OUT station
(R141, R173, R175). A unit answers none while it waits.
-/
namespace Sys2Proof.Machine

/-- What one unit of an instruction answers. -/
abbrev UnitRes := Option (Run × Active)

/-- The origin stamp of the tensor that a descriptor names (R90): of a scratch tensor the largest stamp written to it in the step,
an open value before the first (log 64). -/
def originOf (r : Run) (d : TDesc) : Stamp :=
  match r.tensor d with
  | none => 0
  | some t =>
    if t.cls = 1 then (mapGet none r.st.scratchStamp d.handle).getD (BitVec.ofNat 64 (Config.freeAt r.s.free (2 ^ 62)))
    else t.stamp

/-! ### IN -/

/-- in.load: tile `pos` of the tensor (R133), with its origin stamp (log 64). -/
def unitLoad (r : Run) (a : Active) : UnitRes :=
  let d := tdOf a.insn.dA
  if d.cls = 1 ∧ !sbClear r a.insn.no d.handle false false (tdShape d) a.pos then none
  else
    let b := tdBox d a.pos
    let x := readRows d b.col0 b.cols b.rows b.row0 r
    let t := mkTile d.fmt x.1 (originOf r d) 0 b.row0 (tdInner d) false
    some (sbTouch a.insn.no d.handle a.pos x.2,
      { bump (emit a [t]) with fin := decide (tdTiles d ≤ a.pos + 1) })

/-- The source position of a window tap along one axis of `n` elements: none for a padding element of the modes that
write a constant (R155). -/
def winTap (mode n : Nat) (y : Int) : Option Nat :=
  if 0 ≤ y ∧ y < n then some y.toNat
  else if mode = 2 then some (if y < 0 then (-y).toNat else (2 * ((n : Int) - 1) - y).toNat)
  else if mode = 3 then some (if y < 0 then 0 else n - 1)
  else none

/-- The taps of output position `i`: the source row (over H and W) of each, if any, and whether it is padding (R121). -/
def winTaps (d : TDesc) (w : WDesc) (i : Nat) : List (Option Nat × Bool) :=
  let oy := i / max 1 (winOW d w)
  let ox := i % max 1 (winOW d w)
  (tabulate (fun k => k) (w.kh * w.kw) 0).map (fun k =>
    let y : Int := (oy * w.sh + k / w.kw * w.dh : Nat) - (w.pt : Int)
    let x : Int := (ox * w.sw + k % w.kw * w.dw : Nat) - (w.pl : Int)
    let pad := !(decide (0 ≤ y ∧ y < tdDim d 2) && decide (0 ≤ x ∧ x < tdDim d 1))
    match winTap w.pad (tdDim d 2) y, winTap w.pad (tdDim d 1) x with
    | some y, some x => (some (y * tdDim d 1 + x), pad)
    | _, _ => (none, pad))

/-- The source tiles that output position `i` reads (R96). -/
def winTiles (d : TDesc) (w : WDesc) (i : Nat) : List Nat :=
  ((winTaps d w i).filterMap Prod.fst).flatMap (fun y =>
    tabulate (fun c => tdTileAt d y (tdColAt d c)) (tdColTiles d) 0)

/-- The elements that padding writes (R155, R156): zeros, or PADVAL converted with RNE and SAT = 1. -/
def padRow (d : TDesc) (w : WDesc) : Row :=
  if w.pad = 1 then (rowEncode (tdElem d) false false (List.replicate (tdDim d 0) (val32 w.val))).1
  else zeroRow (tdElem d) (tdDim d 0)

/-- The unrolled row of output position `i`. Each source row is read from where it lies once; the windows then read the staging
(R153). `seen` are the source rows staged. -/
def winRow (d : TDesc) (w : WDesc) (i : Nat) (x : Run × List Nat) : Row × Run × List Nat :=
  (winTaps d w i).foldl (fun (x : Row × Run × List Nat) t =>
    match t.1 with
    | none => (rowCat x.1 (padRow d w), x.2)
    | some y =>
      let v := readRow x.2.1 d y 0 (tdDim d 0)
      if x.2.2.contains y then (rowCat x.1 v.1, x.2) else (rowCat x.1 v.1, v.2, y :: x.2.2))
    ({ codes := [], scales := [] }, x)

/-- The unrolled rows from output position `i` on. -/
def winRows (d : TDesc) (w : WDesc) : Nat → Nat → Run × List Nat → List Row × Run × List Nat
  | 0, _, x => ([], x)
  | n + 1, i, x =>
    let y := winRow d w i x
    let ys := winRows d w n (i + 1) y.2
    (y.1 :: ys.1, ys.2)

/-- in.win: one block of output rows, cut into tiles of the stream's declared shape (R133). -/
def unitWin (r : Run) (a : Active) : UnitRes :=
  let d := tdOf a.insn.dA
  let w := wdOf a.insn.dB
  let so := a.insn.w.so.toNat
  let total := winOH d w * winOW d w
  let h := stRows r.pt so
  let i0 := a.pos * h
  let n := min h (total - i0)
  let rows := tabulate (fun i => i) n i0
  let tiles := rows.flatMap (winTiles d w)
  if d.cls = 1 ∧ !tiles.all (sbClear r a.insn.no d.handle false false (tdShape d)) then none
  else
    let x := winRows d w n i0 (r, a.par)
    let src := mkTile d.fmt x.1 (originOf r d) 0 i0 (winOW d w) false
    let cut := cutBand r so d.fmt x.1 src
    let pw := max 1 (elemsIn d.fmt (stRowBytes r.pt so))
    let c := tdDim d 0
    -- PAD of a piece: one of its elements is padding in one of its rows
    let padCols := rows.flatMap (fun i =>
      ((winTaps d w i).zip (tabulate (fun k => k) (w.kh * w.kw) 0)).filterMap
        (fun t => if t.1.2 then some (t.2 * c) else none))
    let cut := (cut.zip (tabulate (fun k => k) cut.length 0)).map (fun t =>
      { t.1 with
        hdr := { t.1.hdr with pad := padCols.any (fun p => decide (p < (t.2 + 1) * pw ∧ t.2 * pw < p + c)) }
        info := { t.1.info with split := decide (pw < w.kh * w.kw * c) } })
    let later := tabulate (fun i => i) (total - (i0 + n)) (i0 + n)
    let freed := tiles.filter (fun u => !later.any (fun i => (winTiles d w i).contains u))
    some (freed.foldl (fun r u => sbTouch a.insn.no d.handle u r) x.2.1,
      { bump (emit a cut) with fin := decide (total ≤ i0 + n), par := x.2.2 })

/-- The indices of in.gather that have been read: the elements of DB, or the tokens of a row map. -/
def gatherIdx (a : Active) : List Int :=
  a.par.map (signed 32)

/-- Output rows of in.gather. -/
def gatherRows (b : TDesc) : Nat := if b.dtype = 2 then tdDim b 1 else tdDim b 0

/-- Reads index tiles, as in.load would, until `n` indices are there (R96); none while one waits. -/
def gatherRead (b : TDesc) (n : Nat) : Nat → Run × Active → UnitRes
  | 0, x => some x
  | fuel + 1, (r, a) =>
    if n ≤ a.par.length then some (r, a)
    else
      let u := (tdBox b (tdTileAt b 0 a.par.length)).cols
      let k := tdTileAt b 0 a.par.length
      if b.cls = 1 ∧ !sbClear r a.insn.no b.handle false false (tdShape b) k then none
      else
        let x := readRow r b 0 a.par.length (max 1 u)
        gatherRead b n fuel (sbTouch a.insn.no b.handle k (countTiles b.handle 1 x.2), { a with par := a.par ++ x.1.codes })

/-- in.gather: tile `pos` of the rows that the indices choose, cut by the tile shape of DA (R133, R134; DESIGN CHOICE, log 65). -/
def unitGather (r : Run) (a : Active) : UnitRes :=
  let d := tdOf a.insn.dA
  let tb := tdOf a.insn.dB
  let g := { d with dims := [tdDim d 0, gatherRows tb], rank := 2 }
  let b := tdBox g a.pos
  match (if tb.dtype = 2 then some (r, a) else gatherRead tb (b.row0 + b.rows) b.rows (r, a)) with
  | none => none
  | some (r, a) =>
  let idx := gatherIdx a
  let stamp := originOf r tb
  let x := ((idx.drop b.row0).take b.rows).foldl (fun (x : List Row × Run) (i : Int) =>
    if 0 ≤ i ∧ i < tdDim d 1 then
      let v := readRow x.2 d i.toNat b.col0 b.cols
      (x.1 ++ [v.1], v.2)
    else (x.1 ++ [zeroRow (tdElem d) b.cols], x.2.flag FLAG_GATHER_RANGE true)) ([], r)
  some (x.2, { bump (emit a [mkTile d.fmt x.1 stamp 0 b.row0 1 false]) with fin := decide (tdTiles g ≤ a.pos + 1) })

/-! ### KV -/

/-- A tile that kv.gather forms: place in the segment list plus 1, head, segment, first key, real keys, rows with
padding, and whether it ends its segment. -/
structure KvSpec where
  grp : Nat
  head : Nat
  seg : Nat
  key0 : Nat
  keys : Nat
  rows : Nat
  last : Bool
  deriving DecidableEq, Repr

/-- The tiles of one segment that starts at key `k0`: up to `h` rows each, padded to a multiple of 32 (R180). -/
def segTiles (grp head seg k0 n h : Nat) : List KvSpec :=
  let padded := ceilDiv n 32 * 32
  let cnt := ceilDiv padded h
  tabulate (fun i =>
    { grp := grp, head := head, seg := seg, key0 := k0 + i * h, keys := min h (n - i * h)
      rows := min h (padded - i * h), last := decide (i + 1 = cnt) }) cnt 0

/-- The tiles of the segments of one head, one after another. -/
def headTiles (grp head h : Nat) : List Nat → Nat → Nat → List KvSpec
  | [], _, _ => []
  | n :: ns, seg, k0 => segTiles grp head seg k0 n h ++ headTiles grp head h ns (seg + 1) (k0 + n)

/-- The tiles of kv.gather in their order (R180). -/
def kvSpecs (segs : List SegInfo) (heads h : Nat) : List KvSpec :=
  (segs.zip (tabulate (fun i => i) segs.length 1)).flatMap (fun g =>
    (tabulate (fun q => q) heads 0).flatMap (fun q => headTiles g.2 q h g.1.keys 0 0))

/-- The page-table entry that holds page `i` of a request: by its own chain, or by the indices of SA (R181). -/
def kvPageEntry (r : Run) (a : Active) (grp i : Nat) : Option Nat :=
  let d := tdOf a.insn.dA
  match r.st.segs[grp - 1]? with
  | none => none
  | some g =>
    if bitOf a.insn.w.func.toNat 1 then
      let before := (r.st.segs.take (grp - 1)).foldl (fun n x => n + x.pages) 0
      match a.par[before + i]? with
      | none => none
      | some e =>
        if inPool r.s r.p e ∧ (pgState (kvEntry r.s e) = PG_STAGED ∨ pgState (kvEntry r.s e) = PG_LIVE) then some e
        else none
    else (kvPages r.s (ctxGet r.s g.req d.handle))[i]?

/-- The staged data of batch row `i` in KV tensor `h`. -/
def stagedRow (r : Run) (h i : Nat) : Option Row := (r.st.staged.find? (fun x => x.handle == h && x.row == i)).map StagedRow.data

/-- One key or value row of kv.gather: position `j` of the request in one head. A position that the step stages comes from its
staged rows; one that nothing has staged is free (R173, R174); a bad index of R181 gives zeros. -/
def kvRow (a : Active) (sp : KvSpec) (t : Tensor) (j : Nat) (r : Run) : Row × Run :=
  let d := tdOf a.insn.dA
  let plane := a.insn.w.func.toNat % 2
  match r.st.segs[sp.grp - 1]? with
  | none => (zeroRow t.kvFormat t.width, r)
  | some g =>
    let e := reqGet r.s g.req
    let size := 2 ^ kvPickK (rqPageK e) (rqMaxLen e)
    match kvPageEntry r a sp.grp (j / size) with
    | none => (zeroRow t.kvFormat t.width, r.flag FLAG_GATHER_RANGE (bitOf a.insn.w.func.toNat 1))
    | some i =>
      let own := (kvPages r.s (ctxGet r.s g.req d.handle))[j / size]? == some i
      let pg := kvEntry r.s i
      if own ∧ rqLen e ≤ j then
        match stagedRow r d.handle (g.firstRow + (j - rqLen e)) with
        | none => (freeRow r.s.free t.kvFormat t.width 0, r.free)
        | some x => (rowCut t.kvFormat x ((plane * t.heads + sp.head) * t.width) t.width, r)
      else
        let k := if own then (Nat.log2 size) else pgK pg
        let at_ := kvElemAddr t (pgFrame pg) k plane sp.head (j % 2 ^ k)
        let x := readMem r.p at_ (kvRowBytes t) r.s
        let r := { r with s := if x.2 = some ST_MEM_UNCORRECTABLE then unitsEnd (badUnits x.1 at_ (kvRowBytes t)) x.1 else x.1 }
        let r := match x.2 with
          | none => r
          | some c => r.fail c
        (kvRead r.s r.p t (pgFrame pg) k plane sp.head (j % 2 ^ k), r)

/-- The pages that a spec's keys lie in, as scoreboard units: page-table entries (R96). -/
def kvUnitsOf (r : Run) (a : Active) (sp : KvSpec) : List Nat :=
  match r.st.segs[sp.grp - 1]? with
  | none => []
  | some g =>
    let size := 2 ^ kvPickK (rqPageK (reqGet r.s g.req)) (rqMaxLen (reqGet r.s g.req))
    if sp.keys = 0 then []
    else (tabulate (fun i => i) ((sp.key0 + sp.keys - 1) / size - sp.key0 / size + 1) (sp.key0 / size)).filterMap
      (kvPageEntry r a sp.grp)

/-- kv.gather: the next tile (R180), or the one tile of zero keys where the step binds no live request. -/
def unitKvGather (r : Run) (a : Active) : UnitRes :=
  let d := tdOf a.insn.dA
  let h := min 64 (stRows r.pt a.insn.w.so.toNat)
  match r.tensor d with
  | none => none
  | some t =>
    if bitOf a.insn.w.func.toNat 1 && !a.aEnd then
      match takeA r a with
      | none => none
      | some (x, r, a) => some (r, { a with par := a.par ++ x.rows.flatMap Row.codes })
    else
      let specs := kvSpecs r.st.segs t.heads h
      match specs[a.pos]? with
      | none =>
        let n := min 32 h
        let x := mkTile d.fmt (List.replicate n (zeroRow d.fmt (tdDim d 0))) t.stamp 0 0 1 true
        some (r, { bump (emit a [{ x with info := { noInfo with keys := 0 } }]) with fin := true })
      | some sp =>
        if !(kvUnitsOf r a sp).all (sbClear r a.insn.no d.handle false false []) then none
        else
          let x := (tabulate (fun j => j) sp.keys sp.key0).foldl (fun (x : List Row × Run) j =>
            let v := kvRow a sp t j x.2
            (x.1 ++ [v.1], v.2)) ([], r)
          let rows := x.1 ++ List.replicate (sp.rows - sp.keys) (zeroRow d.fmt (tdDim d 0))
          let base := ((r.st.segs[sp.grp - 1]?).map SegInfo.firstRow).getD 0
          let t := mkTile d.fmt rows t.stamp 0 base 1 (decide (sp.keys < sp.rows))
          let t := { t with info := { noInfo with
            grp := sp.grp, head := sp.head, seg := sp.seg, key0 := sp.key0, keys := sp.keys, last := sp.last } }
          let next := specs[a.pos + 1]?
          -- a page is read once the next tile of its request no longer touches it in any head
          let rest := (specs.drop (a.pos + 1)).flatMap (kvUnitsOf r a)
          let freed := (kvUnitsOf r a sp).filter (fun u => !rest.contains u)
          some (freed.foldl (fun r u => sbTouch a.insn.no d.handle u r) x.2,
            { bump (emit a [t]) with fin := next.isNone })

/-- kv.accept: reads its INT32 values to the tile marked LAST, then sets the tensor's offers (R139, R140, R175). -/
def unitAccept (r : Run) (a : Active) : UnitRes :=
  match takeA r a with
  | none => none
  | some (x, r, a) =>
    let a := { a with par := a.par ++ x.rows.flatMap Row.codes }
    if a.aEnd then
      let h := (tdOf a.insn.dA).handle
      let v := (tabulate (fun i => i) a.par.length 0).zip (a.par.map (signed 32))
      some ({ r with st := { r.st with offers := (h, v) :: r.st.offers.filter (fun o => o.1 != h) } },
        { a with fin := true })
    else some (r, a)

/-! ### OUT -/

/-- The pieces of a tile that out.store writes: view row, first element, the row cut to the tensor, and the tile row. -/
def storePieces (d : TDesc) (b : TileBox) (rows : List Row) : List (Nat × Row × Nat) :=
  (tabulate (fun i => i) (min b.rows rows.length) 0).filterMap (fun i =>
    let x := rowCut (tdElem d) (rows.getD i { codes := [], scales := [] }) 0 b.cols
    if x.codes.isEmpty then none else some (d.view + (b.row0 + i) * tdDim d 0 + b.col0, x, i))

/-- Bytes of SRAM that the scratch tensors written in the step take. -/
def scratchUsed (r : Run) : Nat :=
  r.s.tensors.foldl (fun n e => match e.2 with
    | none => n
    | some t => if t.part = r.p ∧ t.cls = 1 ∧ t.level < 2 ∧ (mapGet none r.st.scratchStamp e.1).isSome then n + t.size else n) 0

/-- A scratch tensor is placed when it is first written in the step: in the SRAM reserved for scratch while that holds it and its
hint is not COLD, else in the DRAM reserved (R240, R242; log 13). -/
def scratchPlace (d : TDesc) (t : Tensor) (r : Run) : Run :=
  if (mapGet none r.st.scratchStamp d.handle).isSome then (if t.level < 2 then sramWrite r else r)
  else
    let inSram := t.hint != 2 && decide (scratchUsed r + t.size ≤ r.pt.scratchSram)
    let r := { r with s := updTensor d.handle (fun t => { t with level := if inSram then 0 else 2 }) r.s }
    if inSram then sramWrite r else r

/-- out.store of one tile (R141): scratch at once, persistent tensors held until commit (R95). A store
to a stack out of service faults the step (R270). -/
def storeTile (d : TDesc) (t : Tile) (a : Active) (r : Run) : Run :=
  let rtz := a.insn.w.rtz
  let conv := t.rows.map (rowConvert t.hdr.format (tdElem d) rtz a.insn.w.nosat)
  let r := (r.flag FLAG_CONV_CLAMP (conv.any Prod.snd)).flag FLAG_NAN_SEEN
    ((t.rows.zip conv).any (fun e => madeNan t.hdr.format (tdElem d) e.1 e.2.1))
  let live := (tabulate (fun i => i) t.rows.length 0).map (fun i => effective r t i)
  if tdTiles d ≤ t.hdr.tileIndex then r
  else
    let ps := (storePieces d (tdBox d t.hdr.tileIndex) (conv.map Prod.fst)).filter (fun x => live.getD x.2.2 false)
    match r.tensor d with
    | none => r
    | some x =>
      if x.cls = 1 then
        let r := scratchPlace d x r
        let old := (mapGet none r.st.scratchStamp d.handle).getD 0
        let m := ps.foldl (fun m y => writeScratch r.p d.handle x (tdElem d) y.1 y.2.1 m) (r.s, r.st.scratch)
        { r.free with s := (freeUse 1 m.1), st := { r.st with
            scratch := m.2
            scratchStamp := if ps.isEmpty then r.st.scratchStamp
              else mapSet none r.st.scratchStamp d.handle (some (if old < t.hdr.stamp then t.hdr.stamp else old)) } }
      else if !x.flask && ps.any (fun y => onLostStack r.s (x.home + (elemSpan (tdElem d) y.1 y.2.1.codes.length).1) 1) then
        r.fail ST_STACK_LOST
      else
        { r with st := { r.st with stores := r.st.stores ++ ps.map (fun y =>
            { handle := d.handle, fmt := tdElem d, elem := y.1, row := tileRow t y.2.2, stamp := t.hdr.stamp
              data := y.2.1 }) } }

/-- A tile with every value open: one that its instruction writes a second time (R97). -/
def openTile (r : Run) (t : Tile) : Tile :=
  { t with rows := (t.rows.zip (tabulate (fun i => i) t.rows.length 0)).map (fun e =>
      freeRow r.s.free t.hdr.format e.1.codes.length (e.2 * 2 ^ 24)) }

/-- out.store: the next tile of SA, once the scoreboard lets its tile be written. A tile that the same instruction has written
before ends up with open values (R97). -/
def unitStore (r : Run) (a : Active) : UnitRes :=
  let d := tdOf a.insn.dA
  match takeA r a with
  | none => none
  | some (t, r', a') =>
    if d.cls = 1 ∧ !sbClear r a.insn.no d.handle true false (tdShape d) t.hdr.tileIndex then none
    else
      let twice := a.par.contains t.hdr.tileIndex
      let r' := storeTile d (if twice then openTile r' t else t) a r'
      some (sbTouch a.insn.no d.handle t.hdr.tileIndex (if twice then r'.free else r'),
        { bump a' with fin := a'.aEnd, par := t.hdr.tileIndex :: a.par })

/-- The request and place within it of batch row `i`: its segment entry and the row's number in the request. -/
def rowSeg (r : Run) (i : Nat) : Option (SegInfo × Nat) :=
  match r.st.rows[i]? with
  | none => none
  | some x =>
    if x.bound && !x.dropped then
      ((r.st.segs.find? (fun g => g.req == x.req))).map (fun g => (g, i - g.firstRow))
    else none

/-- The page (its page-table entry, the scoreboard's unit) into which batch row `i` stages. -/
def appendUnit (r : Run) (h i : Nat) : Option Nat :=
  (rowSeg r i).bind (fun g =>
    let e := reqGet r.s g.1.req
    (kvPages r.s (ctxGet r.s g.1.req h))[(rqLen e + g.2) / 2 ^ kvPickK (rqPageK e) (rqMaxLen e)]?)

/-- Stages batch row `i`: K heads, then V heads, at position L + i of the request (R173). Until the commit the step alone holds
the row (R174), and the context counts it (R170). -/
def appendRow (d : TDesc) (i : Nat) (x : Row) (r : Run) : Run :=
  match rowSeg r i with
  | none => r
  | some (g, _) =>
    let new := (stagedRow r d.handle i).isNone
    let s := if new then ctxUpd g.req d.handle (fun c => { c with staged := min 65535 (c.staged + 1) }) r.s else r.s
    { r with s := s, st := { r.st with
        staged := { handle := d.handle, row := i, data := x } :: r.st.staged.filter (fun y => !(y.handle == d.handle && y.row == i)) } }

/-- out.append: tiles of one band of rows are gathered until they hold 2·H·w columns, then each live row is staged. A
page is done when the band that holds the last row of its request in it has been staged. A row that the instruction stages twice
has open values (R97). -/
def unitAppend (r : Run) (a : Active) : UnitRes :=
  let d := tdOf a.insn.dA
  match r.tensor d, takeA r a with
  | some t, some (x, r', a') =>
    let band := a.bufA ++ [x]
    let cols := band.foldl (fun n y => n + tileCols y) 0
    if cols < 2 * t.heads * t.width ∧ !a'.aEnd then some (r', { a' with bufA := band })
    else
      let src := band.headD x
      let ids := tabulate (tileRow src) src.rows.length 0
      let units := ids.filterMap (appendUnit r d.handle)
      if !units.all (sbClear r a.insn.no d.handle true false []) then none
      else
        let rows := bandRows band
        let conv := rows.map (rowConvert x.hdr.format t.kvFormat a.insn.w.rtz a.insn.w.nosat)
        let r' := (r'.flag FLAG_CONV_CLAMP (conv.any Prod.snd)).flag FLAG_NAN_SEEN
          ((rows.zip conv).any (fun e => madeNan x.hdr.format t.kvFormat e.1 e.2.1))
        let n := 2 * t.heads * t.width
        let r' := if units.any (fun u => onLostStack r.s (pgFrame (kvEntry r.s u)) 1) then r'.fail ST_STACK_LOST else r'
        let r' := (tabulate (fun i => i) src.rows.length 0).foldl (fun r i =>
          if effective r src i ∧ n ≤ cols then
            let id := tileRow src i
            if a.par.contains id then (appendRow d id (freeRow r.s.free t.kvFormat n 0) r).free
            else appendRow d id (rowCut t.kvFormat ((conv.map Prod.fst).getD i { codes := [], scales := [] }) 0 n) r
          else r) r'
        let end_ := ids.foldl (fun m i => max m (i + 1)) 0
        let later := (tabulate (fun i => i) (r.st.rows.length - end_) end_).filterMap (appendUnit r d.handle)
        let done := units.filter (fun u => !later.contains u)
        some (done.foldl (fun r u => sbTouch a.insn.no d.handle u r) r',
          { bump a' with bufA := [], fin := a'.aEnd, par := ids ++ a.par })
  | _, _ => none

end Sys2Proof.Machine
end

