-- ==== Sys2Proof/Machine/MxOps.lean ====
section
/-!
DEFINITION. What the MX station does unit by unit: dot products of R51 to R56, mx.mm (R135, R136), mx.score (R182) and
mx.mix (R185), and its engine list (R238, R239).
-/
namespace Sys2Proof.Machine

/-! ### Dot products -/

/-- Element `i` of free list `n`: the choices of one sum (log 10). -/
def pickAt (n o : Nat) (i : Nat) : Nat := Config.freeAt n (o + i)

/-- The product of two aligned blocks (R52) whose elements count as `g` of their integers: exact as integers, scaled, rounded
once; NaN where a scale is 255. -/
def blockDotBy (g : Int → Int) (fa fb : Nat) (xs ys : List Nat) (sa sb : Nat) : FVal :=
  if sa = 255 ∨ sb = 255 then .nan
  else
    let t := (xs.zip ys).foldl (fun (n : Int) e => n + g (signed (fmtBits fa) e.1) * g (signed (fmtBits fb) e.2)) 0
    r32 (.fin (decide (t < 0)) t.natAbs ((sa : Int) + sb - 254 - blockFrac fa - blockFrac fb))

/-- The products of the blocks of two rows. -/
def blockTerms (g : Int → Int) (fa fb : Nat) (x y : Row) : List FVal :=
  ((chunks 32 x.codes).zip ((chunks 32 y.codes).zip (x.scales.zip y.scales))).map
    (fun b => blockDotBy g fa fb b.1 b.2.1 b.2.2.1 b.2.2.2)

/-- The terms of a float or block-scaled dot product. -/
def dotTerms (fa fb : Nat) (x y : Row) : List FVal :=
  if fmtBlock fa then blockTerms id fa fb x y
  else ((rowVals fa x.codes []).zip (rowVals fb y.codes [])).map (fun e => fmul e.1 e.2)

/-- The terms of an integer dot product. -/
def dotInts (fa fb : Nat) (x y : Row) : List (Int × Bool) :=
  (x.codes.zip y.codes).map (fun e => (signed (fmtBits fa) e.1 * signed (fmtBits fb) e.2, false))

/-- One output of MX: its 32-bit code, whether the accumulator saturated, whether it is NaN or infinite. -/
structure DotRes where
  code : Nat
  sat : Bool
  odd : Bool
  deriving DecidableEq, Repr

/-- A dot product of two rows in an accumulator of R50, its sum in an order that `pick` chooses. -/
def dot (fa fb : Nat) (pick : Nat → Nat) (x y : Row) : DotRes :=
  if fmtInt fa then
    let v := treeSum (0, false) satAdd pick (dotInts fa fb x y)
    { code := unsigned 32 v.1, sat := v.2, odd := false }
  else
    let v := treeSum fzero fadd pick (dotTerms fa fb x y)
    { code := code32 v, sat := false, odd := v.odd }

/-- A row holds a NaN or an infinity (R54). -/
def rowOdd (f : Nat) (x : Row) : Bool := !fmtInt f && (rowVals f x.codes x.scales).any FVal.odd

/-- The products of an item's rows with its columns (R51 to R53), sums in an order that free list `n` chooses. -/
def itemDots (n : Nat) (x : WorkItem) : List (List DotRes) :=
  let w := x.ys.length
  (x.xs.zip (tabulate (fun i => i) x.xs.length 0)).map (fun a =>
    (x.ys.zip (tabulate (fun j => j) w 0)).map (fun b => dot x.fa x.fb (pickAt n ((a.2 * w + b.2) * 2 ^ 24)) a.1 b.1))

/-- The codes of an item's result. A column whose weights R58 calls unpredictable has an open value in every row. -/
def itemCodes (n : Nat) (x : WorkItem) (ds : List (List DotRes)) : List (List Nat) :=
  (ds.zip (tabulate (fun i => i) ds.length 0)).map (fun r =>
    (r.1.zip (tabulate (fun j => j) r.1.length 0)).map (fun c =>
      if x.bad.contains c.2 then Config.freeAt n (2 ^ 60 + r.2 * 2 ^ 24 + c.2) % 2 ^ 32 else c.1.code))

/-- An item that R54 does not check: an input or a result is NaN or infinite. -/
def itemOdd (x : WorkItem) (ds : List (List DotRes)) : Bool :=
  ds.any (fun l => l.any DotRes.odd) || x.xs.any (rowOdd x.fa) || x.ys.any (rowOdd x.fb)

/-! ### Engine lists and items -/

/-- The operation class of R151. -/
def opClass (sparse : Bool) (fmt kind : Nat) : Nat :=
  16 * b2n sparse + 4 * (if fmtInt fmt then 0 else if fmt = 0x10 ∨ fmt = 0x11 then 1 else if fmtBlock fmt then 2 else 3)
    + kind

/-- The class of an MX instruction. -/
def classOf (pt : Part) (i : StInsn) : Nat :=
  let f := stFormat pt i.w.sa.toNat
  if i.op = OP_SCORE then opClass false f 2
  else if i.op = OP_MIX then opClass false f 3
  else if i.w.func.toNat % 2 = 1 then opClass false f 1
  else opClass (tdSparse (tdOf i.dA)) f 0

/-- An mx.mm that reads its weights by handle counts their tiles, and its class among those that read the tensor (R236, R243). -/
def countWeights (a : Active) (r : Run) : Run :=
  let d := tdOf a.insn.dA
  if a.insn.op = OP_MM ∧ a.insn.w.func.toNat % 2 = 0 then
    { r with s := updTensor d.handle (fun t =>
        { t with access := t.access + tdTiles d, readers := t.readers ||| 2 ^ classOf r.pt a.insn }) r.s }
  else r

/-- An MX instruction starts (R238, R239): its engine list is fixed, or the step faults with ST_NO_ENGINE. -/
def startMx (r : Run) (a : Active) : Run × Active :=
  let r := countWeights a r
  let e := engineSets r.s r.p (classOf r.pt a.insn)
  if !e.1.isEmpty then (r, { a with engines := e.1 })
  else if !e.2.isEmpty then
    ({ r with s := raise .plcFallback r.p (statInc PLC_STAT_FALLBACK (fset PLC_STATUS_COOL_FALLBACK 1 r.s)) },
     { a with engines := e.2, cool := true })
  else ({ r.fail ST_NO_ENGINE with s := fset PLC_STATUS_NO_ENGINE 1 r.s }, a)

/-! ### mx.mm -/

/-- The rows of the weight tensor, `n` of them from row `j`. -/
def weightRows (d : TDesc) (n j : Nat) (r : Run) : List Row × Run := readRows d 0 (tdDim d 0) n j r

/-- Columns whose weights hold a group that R58 calls unpredictable. -/
def badColumn (r : Run) (d : TDesc) (j : Nat) : Bool :=
  match r.tensor d with
  | none => false
  | some t => tdSparse d && (tabulate (fun g => g) (tdDim d 0 / 4) 0).any
      (fun g => sparseBad r.s r.st d.handle t (tdElem d) (d.view + j * tdDim d 0 + 4 * g))

/-- The weight rows that arrived on SB, `n` rows of `k` elements; none where the tiles do not make them up (R136). -/
def streamWeights (k : Nat) : List Tile → List Tile → Option (List Row)
  | [], band => if band.isEmpty then some [] else none
  | t :: ts, band =>
    let band := band ++ [t]
    let cols := band.foldl (fun n y => n + tileCols y) 0
    if cols < k then streamWeights k ts band
    else if cols = k then (streamWeights k ts []).map (fun l => bandRows band ++ l)
    else none

/-- The reduction length: DIM0 of the weight, or what SB delivered over N rows. -/
def mmK (a : Active) : Nat :=
  if a.insn.w.func.toNat % 2 = 0 then tdDim (tdOf a.insn.dA) 0
  else (a.bufB.foldl (fun n t => n + t.rows.foldl (fun m x => m + x.codes.length) 0) 0) / max 1 a.insn.w.imm32.toNat

/-- The tiles at the head of a buffer that make up one band: as many as K columns need. -/
def takeBand (k : Nat) : List Tile → List Tile → Option (List Tile × List Tile)
  | [], _ => none
  | t :: ts, band =>
    let band := band ++ [t]
    if k ≤ band.foldl (fun n y => n + tileCols y) 0 then some (band, ts) else takeBand k ts band

/-- The bands of activation tiles that make up rows of `k` columns; the last may be short. -/
def bandsOf (k : Nat) : Nat → List Tile → List (List Tile)
  | 0, _ => []
  | fuel + 1, ts =>
    if ts.isEmpty then []
    else match takeBand k ts [] with
      | some (b, rest) => b :: bandsOf k fuel rest
      | none => [ts]

/-- Columns of a band. -/
def bandWidth (b : List Tile) : Nat := b.foldl (fun n t => n + tileCols t) 0

/-- The tiles of a band of `n` output columns without their values, with the row and column of the operation that each begins at;
`row0` rows stand before the band. -/
def bandJobs (r : Run) (so out n row0 : Nat) (b : List Tile) : List MxJob :=
  match b with
  | [] => []
  | src :: _ =>
    let rows := (bandRows b).map (fun _ => zeroRow out n)
    let ts := cutBand r so out rows { src with hdr := { src.hdr with pad := false } }
    let w := max 1 (elemsIn out (stRowBytes r.pt so))
    let c := max 1 (ceilDiv n w)
    (ts.zip (tabulate (fun i => i) ts.length 0)).map (fun t =>
      { tile := t.1, row0 := row0 + t.2 / c * stRows r.pt so, col0 := t.2 % c * w })

/-- The tiles of all bands. -/
def jobsOf (r : Run) (so out n : Nat) : List (List Tile) → Nat → List MxJob
  | [], _ => []
  | b :: bs, row0 => bandJobs r so out n row0 b ++ jobsOf r so out n bs (row0 + (bandRows b).length)

/-- The work item of a span of an mx.mm. -/
def mmItem (r : Run) (a : Active) (fa fb kc : Nat) (xs ys : List Row) (i : Nat) (x : ItemSpan) : WorkItem :=
  let d := tdOf a.insn.dA
  let k0 := x.first * kc
  let n := (x.last - x.first) * kc
  let cols := tabulate (fun j => j) (min blockSide (ys.length - x.cb * blockSide)) 0
  { rb := x.rb, cb := x.cb, seg := x.seg, engine := dealTo a.engines i, cool := a.cool, used := [], fa := fa, fb := fb
    xs := ((xs.drop (x.rb * blockSide)).take blockSide).map (fun y => rowCut fa y k0 (min n (y.codes.length - k0)))
    ys := ((ys.drop (x.cb * blockSide)).take blockSide).map (fun y => rowCut fb y k0 (min n (y.codes.length - k0)))
    bad := if a.insn.w.func.toNat % 2 = 1 then []
      else cols.filter (fun j => badColumn r d (x.cb * blockSide + j))
    res := none }

/-- mx.mm with all its operands there: its work items are dealt (R145). Where the tiles do not make up whole rows of K elements, or
the streamed weights N rows of them, the output is open (R136). -/
def mmDeal (r : Run) (a : Active) : Run × Active :=
  let w := a.insn.w
  let d := tdOf a.insn.dA
  let fn := w.func.toNat % 2
  let fa := stFormat r.pt w.sa.toNat
  let fb := if fn = 0 then tdElem d else stFormat r.pt w.sb.toNat
  let out := stFormat r.pt w.so.toNat
  let n := if fn = 0 then tdRows d else w.imm32.toNat
  let k := mmK a
  let bands := bandsOf k a.bufA.length a.bufA
  let x := if fn = 0 then (some (weightRows d n 0 r).1, (weightRows d n 0 r).2)
    else ((streamWeights k a.bufB []).bind (fun l => if l.length = n then some l else none), r)
  let r := x.2
  let jobs := jobsOf r w.so.toNat out n bands 0
  let a := { a with bufA := [], bufB := [] }
  match (if bands.all (fun b => bandWidth b == k) then x.1 else none) with
  | some ys =>
    let xs := bands.flatMap bandRows
    let kc := (weightBlock fa fb (fn == 0 && tdSparse d)).kc
    let spans := spread xs.length k n kc a.engines.length
    (r, { a with jobs := jobs, dealt := spans.length
                 items := (spans.zip (tabulate (fun i => i) spans.length 0)).map (fun s => mmItem r a fa fb kc xs ys s.2 s.1) })
  | none =>
    (r.free, { emit a (jobs.map (fun j => { j.tile with
        rows := tabulate (fun i => freeRow r.s.free out (tileCols j.tile) ((j.row0 + i) * 2 ^ 24 + j.col0)) j.tile.rows.length 0 }))
      with fin := true })

/-- The items that contribute to a tile of an operation whose columns stand in blocks of `cbw`. -/
def jobItems (a : Active) (cbw : Nat) (j : MxJob) : List WorkItem :=
  let n := max 1 (tileCols j.tile)
  a.items.filter (fun x =>
    decide (j.row0 / blockSide ≤ x.rb ∧ x.rb ≤ (j.row0 + j.tile.rows.length - 1) / blockSide)
      && decide (j.col0 / cbw ≤ x.cb ∧ x.cb ≤ (j.col0 + n - 1) / cbw))

/-- The segments of one output summed by the combining adders (R146). -/
def combine (int : Bool) (pick : Nat → Nat) (cs : List Nat) : DotRes :=
  match cs with
  | [c] => { code := c, sat := false, odd := false }
  | _ =>
    if int then
      let v := treeSum (0, false) satAdd pick (cs.map (fun c => (signed 32 c, false)))
      { code := unsigned 32 v.1, sat := v.2, odd := false }
    else
      let v := treeSum fzero fadd pick (cs.map val32)
      { code := code32 v, sat := false, odd := v.odd }

/-- The rows of a tile from the results of its items. -/
def jobRows (n cbw : Nat) (int : Bool) (xs : List WorkItem) (j : MxJob) : List (List DotRes) :=
  let w := tileCols j.tile
  tabulate (fun i => tabulate (fun c =>
    let parts := xs.filter (fun x => x.rb == i / blockSide && x.cb == c / cbw)
    combine int (pickAt n ((i * 2 ^ 24 + c) * 2 ^ 8))
      (parts.map (fun x => ((x.res.getD []).getD (i % blockSide) []).getD (c % cbw) 0))) w j.col0) j.tile.rows.length j.row0

/-- The next tile of the operation, once every item that contributes to it has passed (R147). -/
def jobNext (r : Run) (a : Active) (cbw : Nat) : UnitRes :=
  match a.jobs with
  | [] => none
  | j :: js =>
    let xs := jobItems a cbw j
    if xs.any (fun x => x.res.isNone) then none
    else
      let ds := jobRows r.s.free cbw (fmtInt j.tile.hdr.format) xs j
      let t := { j.tile with rows := ds.map (fun l => { codes := l.map DotRes.code, scales := [] }) }
      let r := (r.free.flag FLAG_ACC_SAT (ds.any (fun l => l.any DotRes.sat))).flag FLAG_NAN_SEEN (ds.any (fun l => l.any DotRes.odd))
      -- an item that no later tile needs is let go
      let a := { a with jobs := js }
      some (r, emit { a with items := a.items.filter (fun x => js.any (fun j => (jobItems a cbw j).any (fun y =>
        y.rb == x.rb && y.cb == x.cb))) } [t])

/-- mx.mm: takes its tiles and weights, deals its items once all are there, and forms its tiles in row-major order. -/
def unitMm (r : Run) (a : Active) : UnitRes :=
  if !a.jobs.isEmpty then (jobNext r a blockSide).map (fun x => (x.1, { bump x.2 with fin := x.2.jobs.isEmpty }))
  else if a.aEnd && (a.insn.w.func.toNat % 2 == 0 || a.bEnd) then
    let x := mmDeal r a
    some (x.1, { bump x.2 with fin := x.2.jobs.isEmpty })
  else
    match (if a.aEnd then none else takeA r a) with
    | some (t, r, a) => some (r, { a with bufA := a.bufA ++ [t] })
    | none =>
      if a.insn.w.func.toNat % 2 = 1 ∧ !a.bEnd then
        (takeB r a).map (fun x => (x.2.1, { x.2.2 with bufB := x.2.2.bufB ++ [x.1] }))
      else none

/-! ### mx.score -/

/-- The row of a tile that holds batch row `i`. -/
def rowIn (t : Tile) (i : Nat) : Option Nat := firstIdx (fun k => tileRow t k == i) t.rows.length 0

/-- The elements of batch row `i` among activation tiles, side by side. -/
def batchRow (ts : List Tile) (i : Nat) : Row :=
  ts.foldl (fun x t =>
    match rowIn t i with
    | none => x
    | some k => rowCat x (t.rows.getD k { codes := [], scales := [] })) { codes := [], scales := [] }

/-- The tile among activation tiles that holds batch row `i` first. -/
def batchTile (ts : List Tile) (i : Nat) : Option Tile := ts.find? (fun t => (rowIn t i).isSome)

/-- The header bit of batch row `i` among activation tiles. -/
def batchBit (ts : List Tile) (i : Nat) : Bool :=
  match batchTile ts i with
  | none => false
  | some t => bitOf t.hdr.rowMask ((rowIn t i).getD 0)

/-- A number as a mask of the truths of a list, bit 0 first. -/
def bitsMask : List Bool → Nat
  | [] => 0
  | b :: bs => b2n b + 2 * bitsMask bs

/-- The engine of item number `i` of a segment: one of the instruction's list in the segment's core, where it has any (R239). -/
def segEngine (a : Active) (core : Option Nat) (i : Nat) : Nat :=
  let es := a.engines.filter (fun e => some (e / 4) == core)
  dealTo (if es.isEmpty then a.engines else es) i

/-- An item of attention and its tiles join the instruction's work; the item is its own row block and column block. -/
def addItem (a : Active) (core : Option Nat) (fa fb : Nat) (xs ys : List Row) (tiles : List (Tile × Nat)) : Active :=
  { a with dealt := a.dealt + 1
           items := a.items ++ [{ rb := a.dealt, cb := 0, seg := 0, engine := segEngine a core a.dealt, cool := a.cool,
                                  used := [], fa := fa, fb := fb, xs := xs, ys := ys, bad := [], res := none }]
           jobs := a.jobs ++ tiles.map (fun t => { tile := t.1, row0 := a.dealt * blockSide, col0 := t.2 }) }

/-- The item and the score tiles of one row tile of a segment: its pairs against the segment's keys up to their extent (R182). -/
def scoreRowTile (r : Run) (a : Active) (g : SegInfo) (keys : List Tile) (heads : Nat) (pairs : List (Nat × Nat)) : Active :=
  let w := a.insn.w
  let hw := w.immh.toNat
  let so := w.so.toNat
  let fa := stFormat r.pt w.sa.toNat
  let fb := stFormat r.pt w.sb.toNat
  match keys, batchTile a.bufA ((pairs.map Prod.fst).headD 0) with
  | k0 :: _, some src =>
    let ys := keys.flatMap Tile.rows
    let ext := pairs.foldl (fun m x => max m (((r.st.rows[x.1]?).map RowEnt.kvlen).getD 0)) 0
    let n := min ys.length (ceilDiv ext 32 * 32 - k0.info.key0)
    let xs := pairs.map (fun x => rowCut fa (batchRow a.bufA x.1) (x.2 * hw) hw)
    let out := stFormat r.pt so
    let cw := min 256 (max 1 (elemsIn out (stRowBytes r.pt so)))
    let info := { k0.info with pairs := pairs, heads := heads }
    let real := keys.foldl (fun m t => m + t.info.keys) 0
    let mask := bitsMask (pairs.map (fun x => batchBit a.bufA x.1))
    let tiles := tabulate (fun c =>
      let t := mkTile out (pairs.map (fun _ => zeroRow out (min cw (n - c * cw)))) src.hdr.stamp mask g.firstRow 1
        (keys.any (fun t => t.hdr.pad))
      ({ t with info := { info with key0 := k0.info.key0 + c * cw, keys := min (min cw (n - c * cw)) (real - c * cw)
                                    last := decide (ceilDiv n cw ≤ c + 1) } }, c * cw)) (ceilDiv n cw) 0
    if tiles.isEmpty then a else addItem a (g.cores[k0.info.seg]?) fa fb xs (ys.take n) tiles
  | _, _ => a

/-- The work of one segment of one request and head, row tile by row tile. -/
def scoreSegment (r : Run) (a : Active) (keys : List Tile) : Active :=
  let w := a.insn.w
  let fn := max 1 w.func.toNat
  let heads := (batchRow a.bufA ((a.bufA.map (fun t => tileRow t 0)).headD 0)).codes.length / max 1 w.immh.toNat
  match keys with
  | [] => a
  | k0 :: _ =>
    match (if k0.info.grp = 0 then none else r.st.segs[k0.info.grp - 1]?) with
    | none =>
      -- a tile of no live request (R180): a segment whose keys are all masked
      let out := stFormat r.pt w.so.toNat
      let t := mkTile out [zeroRow out (min 32 (max 1 (stElems r.pt w.so.toNat)))]
        ((a.bufA.map (fun t => t.hdr.stamp)).headD 0) 0 0 1 true
      emit a [{ t with info := { noInfo with heads := heads } }]
    | some g =>
      let pairs := (tabulate (fun i => i) g.rows 0).flatMap (fun i =>
        tabulate (fun j => (g.firstRow + i, j)) fn (k0.info.head * fn))
      (chunks (min 64 (stRows r.pt w.so.toNat)) pairs).foldl (fun a ps => scoreRowTile r a g keys heads ps) a

/-- The tiles at the head of a buffer up to one that ends its group. -/
def takeGroup : List Tile → List Tile → Option (List Tile × List Tile)
  | [], _ => none
  | t :: ts, acc => if t.info.last then some (acc ++ [t], ts) else takeGroup ts (acc ++ [t])

/-- Column blocks of an attention item: it has one, of any width. -/
def wideBlock : Nat := 2 ^ 32

/-- mx.score: the next segment's items once every query and the segment's keys are there; a tile once its item has passed; else a
tile of either source. -/
def unitScore (r : Run) (a : Active) : UnitRes :=
  let done := fun (a : Active) => a.bEnd && a.bufB.isEmpty && a.jobs.isEmpty
  match (if a.jobs.isEmpty && a.aEnd then takeGroup a.bufB [] else none) with
  | some (ks, rest) =>
    let a := { scoreSegment r a ks with bufB := rest }
    some (r, { bump a with fin := done a })
  | none =>
    match (if a.aEnd then none else takeA r a) with
    | some (t, r, a) => some (r, { a with bufA := a.bufA ++ [t] })
    | none =>
      match (if a.bEnd then none else takeB r a) with
      | some x => some (x.2.1, { x.2.2 with bufB := x.2.2.bufB ++ [x.1] })
      | none => (jobNext r a wideBlock).map (fun x => (x.1, { x.2 with fin := done x.2 }))

/-! ### mx.mix -/

/-- Two attention tiles belong to one segment. -/
def sameSeg (x y : Tile) : Bool := x.info.grp == y.info.grp && x.info.head == y.info.head && x.info.seg == y.info.seg

/-- The columns of rows of values: column `c` of each, `w` of them. -/
def columnsOf (w : Nat) (rows : List (List Nat)) : List Row :=
  tabulate (fun c => { codes := rows.map (fun v => v.getD c 0), scales := [] }) w 0

/-- The item of one row tile: o = Σ p_j·v_j over the columns, m and l carried (R185). The operands of a float or block-scaled pair
go in as FP32 values, each product rounded on its own; those of an integer pair as they are (DEDUCED; log 66). -/
def mixRowTile (r : Run) (a : Active) (ps vs : List Tile) : Active :=
  let w := a.insn.w
  let hw := w.immh.toNat
  let fp := stFormat r.pt w.sa.toNat
  let fv := stFormat r.pt w.sb.toNat
  match ps with
  | [] => a
  | src :: _ =>
    let out := stFormat r.pt w.so.toNat
    let real := fun (f : Nat) (x : Row) => if fmtInt f then x.codes else (rowVals f x.codes x.scales).map code32
    let as_ := fun (f : Nat) => if fmtInt f then f else FMT_FP32
    let vv := (vs.flatMap Tile.rows).map (real fv)
    let xs := (bandRows ps).map (fun x => { codes := (real fp x).take vv.length, scales := [] })
    let n := (xs.map (fun x => x.codes.length)).foldl max 0
    let t := mkTile out ((bandRows ps).map (fun _ => zeroRow out hw)) src.hdr.stamp src.hdr.rowMask src.info.flat src.info.inner false
    let core := (if src.info.grp = 0 then none else r.st.segs[src.info.grp - 1]?).bind (fun g => g.cores[src.info.seg]?)
    addItem a core (as_ fp) (as_ fv) xs (columnsOf hw (vv.take n))
      [({ t with stats := src.stats, hdr := { t.hdr with rowBase := src.hdr.rowBase }, info := { src.info with last := true } }, 0)]

/-- mx.mix: the next row tile's item once its weights and its segment's values are there; a tile once its item has passed; else a
tile of either source. -/
def unitMix (r : Run) (a : Active) : UnitRes :=
  let work := match (if a.jobs.isEmpty then takeGroup a.bufA [] else none) with
    | none => none
    | some (ps, rest) =>
      let vs := a.bufB.filter (fun v => sameSeg v (ps.headD v))
      if vs.any (fun v => v.info.last) then some (ps, rest, vs) else none
  let done := fun (a : Active) => a.aEnd && a.bufA.isEmpty && a.bEnd && a.jobs.isEmpty
  match work with
  | some (ps, rest, vs) =>
    let a := { mixRowTile r a ps vs with bufA := rest }
    some (r, { bump a with fin := done a })
  | none =>
    match (if a.aEnd then none else takeA r a) with
    | some (t, r, a) => some (r, { a with bufA := a.bufA ++ [t] })
    | none =>
      match (if a.bEnd then none else takeB r a) with
      | some x =>
        let a := { x.2.2 with bufB := x.2.2.bufB ++ [x.1] }
        some (x.2.1, { a with fin := done a })
      | none =>
        match jobNext r a wideBlock with
        | some x => some (x.1, { x.2 with fin := done x.2 })
        | none => if done a && !a.fin then some (r, { a with fin := true }) else none

end Sys2Proof.Machine
end

