-- ==== Sys2Proof/Machine/VxOps.lean ====
section
/-!
DEFINITION. What the VX station does unit by unit (R137, R138, R158, R184, R186, R492, R493). Every row is read into FP32
lanes, worked on there, and written in OFMT.
-/
namespace Sys2Proof.Machine

/-! ### Lanes and output -/

/-- The FP32 lanes of rows of a format, and whether reading them clamped. -/
def lanesOf (f : Nat) (nosat : Bool) (rows : List Row) : List (List FVal) × Bool :=
  let l := rows.map (fun x => rowLanes f nosat x.codes x.scales)
  (l.map Prod.fst, l.any Prod.snd)

/-- The lanes of a tile, with CONV_CLAMP noted. -/
def tileLanes (r : Run) (a : Active) (t : Tile) : List (List FVal) × Run :=
  let l := lanesOf t.hdr.format a.insn.w.nosat t.rows
  (l.1, r.flag FLAG_CONV_CLAMP l.2)

/-- The output format of an instruction. -/
def ofmtOf (r : Run) (a : Active) : Nat := outFmt r.pt a.insn.op a.insn.w a.insn.dA

/-- Writes lanes as rows of the output format, with the flags of R67: a NaN produced, a conversion clamped. An infinity
in a block becomes NaN (R49). -/
def lanesOut (f : Nat) (rtz nosat : Bool) (vs : List (List FVal)) (r : Run) : List Row × Run :=
  let o := vs.map (rowEncode f rtz nosat)
  (o.map Prod.fst,
   (r.flag FLAG_CONV_CLAMP (o.any Prod.snd)).flag FLAG_NAN_SEEN
     (vs.any (fun l => l.any (fun v => v.isNan || (fmtBlock f && v.odd)))))

/-- A tile of the rows given, with the header and attention marks of the tile `src` (R90, R93; log 9). -/
def tileLike (f : Nat) (rows : List Row) (src : Tile) : Tile :=
  let t := mkTile f rows src.hdr.stamp src.hdr.rowMask src.info.flat src.info.inner src.hdr.pad
  { t with hdr := { t.hdr with rowBase := src.hdr.rowBase }, stats := src.stats, info := src.info }

/-- Emits one tile of lanes in the place of `src`. -/
def emitLanes (vs : List (List FVal)) (src : Tile) (r : Run) (a : Active) : Run × Active :=
  let f := ofmtOf r a
  let o := lanesOut f a.insn.w.rtz a.insn.w.nosat vs r
  (o.2, emit a [tileLike f o.1 src])

/-- Emits a tile of free values of `n` columns in the place of `src`. -/
def emitFree (n : Nat) (src : Tile) (r : Run) (a : Active) : Run × Active :=
  let f := ofmtOf r a
  let rows := tabulate (fun i => freeRow r.s.free f n (i * 2 ^ 24)) src.rows.length 0
  (r.free, emit a [tileLike f rows src])

/-- Parameter `c` of row `k` of DA, as its value; `n` columns a row. -/
def parAt (a : Active) (n k c : Nat) : FVal := val32 (a.par.getD (k * n + c) 0)

/-! ### Parameters read at the start (R96, R137, R183) -/

/-- The codes of `k` rows of a tensor as FP32. -/
def readParams (d : TDesc) (k : Nat) (nosat : Bool) (r : Run) : List Nat × Run :=
  let x := readRows d 0 (tdDim d 0) k 0 r
  let l := lanesOf (tdElem d) nosat x.1
  (l.1.flatMap (fun v => v.map code32), x.2.flag FLAG_CONV_CLAMP l.2)

/-- A VX instruction starts once its whole-handle reads may go on; it reads its parameters, row map and mask then. -/
def startVx (r : Run) (a : Active) : UnitRes :=
  let i := a.insn
  let d := tdOf i.dA
  let b := tdOf i.dB
  let masked := i.op == OP_SMAX && i.w.func.toNat % 2 == 1
  if useDA i.op i.w.func.toNat && !sbWholeOk r i d then none
  else if masked && !sbWholeOk r i b then none
  else
    let x :=
      if i.op = OP_ACT ∨ i.op = OP_LN then readParams d 2 i.w.nosat r
      else if i.op = OP_RMS then readParams d 1 i.w.nosat r
      else if i.op = OP_SMAX ∨ i.op = OP_ROPE then
        let y := readRows d 0 4 (tdDim d 1) 0 r
        (y.1.flatMap Row.codes, y.2)
      else ([], r)
    let m := if masked then readRows b 0 (tdDim b 0) (tdDim b 1) 0 x.2 else ([], x.2)
    let n := if useDA i.op i.w.func.toNat then countTiles d.handle (tdTiles d) m.2 else m.2
    let n := if masked then countTiles b.handle (tdTiles b) n else n
    some (sbDone i.no none n, { a with par := x.1, mask := m.1.flatMap Row.codes })

/-! ### Operations tile by tile -/

/-- vx.ew1. -/
def unitEw1 (r : Run) (a : Active) : UnitRes :=
  (takeA r a).map (fun (t, r, a) =>
    let l := tileLanes r a t
    let w := a.insn.w
    let x := emitLanes (l.1.map (fun v => v.map (ew1Fun w.func.toNat w.imm32.toNat))) t l.2 a
    (x.1, { bump x.2 with fin := a.aEnd }))

/-- The binary functions of vx.ew2 by FUNC. -/
def ew2Fun (fn : Nat) (x y : FVal) : FVal :=
  if fn = 0 then fadd x y else if fn = 1 then fsub x y else if fn = 2 then fmul x y
  else if fn = 3 then fmax x y else if fn = 4 then fmin x y else fdiv x y

/-- vx.ew2 on one pair of tiles; elements that the SB tile lacks read as 0 (R138). -/
def ew2Tile (x : Tile) (y : Option Tile) (r : Run) (a : Active) : Run × Active :=
  let l := tileLanes r a x
  let m := match y with
    | none => (([] : List (List FVal)), l.2)
    | some y => tileLanes l.2 a y
  let vs := (l.1.zip (tabulate (fun i => i) l.1.length 0)).map (fun e =>
    let ys := m.1.getD e.2 []
    (e.1.zip (tabulate (fun j => j) e.1.length 0)).map (fun v =>
      ew2Fun a.insn.w.func.toNat v.1 (ys.getD v.2 fzero)))
  emitLanes vs x m.2 a

/-- vx.ew2: a pair of tiles once both are there; the rest of SB is discarded after the last tile of SA (R138). -/
def unitEw2 (r : Run) (a : Active) : UnitRes :=
  if a.aEnd then (takeB r a).map (fun x => (x.2.1, { x.2.2 with fin := x.2.2.bEnd }))
  else if !a.bEnd && !readyB r a then none
  else
    match takeA r a with
    | none => none
    | some (t, r, a) =>
      let y := if a.bEnd then none else takeB r a
      let z := match y with
        | none => ew2Tile t none r a
        | some (u, r, a) => ew2Tile t (some u) r a
      some (z.1, { bump z.2 with fin := z.2.aEnd && z.2.bEnd })

/-- vx.act: the tile's place in its row gives its columns (R492). -/
def unitAct (r : Run) (a : Active) : UnitRes :=
  let n := tdDim (tdOf a.insn.dA) 0
  let w := max 1 (stElems r.pt a.insn.w.sa.toNat)
  let k := a.pos % max 1 (ceilDiv n w)
  (takeA r a).map (fun (t, r, a) =>
    let l := tileLanes r a t
    let vs := l.1.map (fun v => (v.zip (tabulate (fun j => j) v.length (k * w))).map (fun e =>
      if e.2 < n then ew1Fun a.insn.w.func.toNat 0 (ffma e.1 (parAt a n 0 e.2) (parAt a n 1 e.2)) else fzero))
    let x := emitLanes vs t l.2 a
    (x.1, { bump x.2 with fin := a.aEnd }))

/-- vx.silumul: SiLU of the first half times the second; an odd width is unpredictable (R138). -/
def unitSilumul (r : Run) (a : Active) : UnitRes :=
  (takeA r a).map (fun (t, r, a) =>
    let n := tileCols t
    let l := tileLanes r a t
    let x := if n % 2 = 1 then emitFree (max 1 (n / 2)) t l.2 a
      else emitLanes (l.1.map (fun v => (v.zip (v.drop (n / 2))).map (fun e => fmul (fnSilu e.1) e.2))) t l.2 a
    (x.1, { bump x.2 with fin := a.aEnd }))

/-- The values of one channel under vx.pool. -/
def poolChannel (avg : Bool) (pick : Nat → Nat) (xs : List FVal) : FVal :=
  if avg then fdiv (treeSum fzero fadd pick xs) (fNat xs.length)
  else
    match xs with
    | [] => fzero
    | x :: xs => xs.foldl fmax x

/-- vx.pool (R158); a width that IMMH does not divide, or a row that in.win split, is unpredictable (R138, R159). -/
def unitPool (r : Run) (a : Active) : UnitRes :=
  let h := max 1 a.insn.w.immh.toNat
  (takeA r a).map (fun (t, r, a) =>
    let n := tileCols t
    let c := n / h
    let l := tileLanes r a t
    let x := if n % h ≠ 0 ∨ t.info.split = true then emitFree (max 1 c) t l.2 a
      else
        let vs := (l.1.zip (tabulate (fun i => i) l.1.length 0)).map (fun e =>
          tabulate (fun j =>
            poolChannel (a.insn.w.func == 1) (pickAt l.2.s.free ((e.2 * c + j) * 2 ^ 24))
              (tabulate (fun i => e.1.getD (i * c + j) fzero) h 0)) c 0)
        emitLanes vs t l.2.free a
    (x.1, { bump x.2 with fin := a.aEnd }))

/-! ### Row operations (R81, R492, R493) -/

/-- The rows of a band of tiles as (column, value); tile k starts at column k·w. -/
def bandCols (w : Nat) (ls : List (List (List FVal))) : List (List (Nat × FVal)) :=
  let n := ls.foldl (fun m l => max m l.length) 0
  tabulate (fun i => ((ls.zip (tabulate (fun k => k) ls.length 0)).map (fun e =>
    (tabulate (fun j => j) (e.1.getD i []).length (e.2 * w)).zip (e.1.getD i []))).flatten) n 0

/-- x / sqrt(mean(x²) + ε) × γ (R493). -/
def rmsRow (a : Active) (n : Nat) (pick : Nat → Nat) (xs : List (Nat × FVal)) : List FVal :=
  let ins := xs.filter (fun x => decide (x.1 < n))
  let mean := fdiv (treeSum fzero fadd pick (ins.map (fun x => fmul x.2 x.2))) (fNat n)
  let root := fsqrt (fadd mean (val32 a.insn.w.imm32.toNat))
  xs.map (fun x => if x.1 < n then fmul (fdiv x.2 root) (parAt a n 0 x.1) else fzero)

/-- (x − mean) / sqrt(var + ε) × γ + β (R493). -/
def lnRow (a : Active) (n : Nat) (pick : Nat → Nat) (xs : List (Nat × FVal)) : List FVal :=
  let ins := xs.filter (fun x => decide (x.1 < n))
  let mean := fdiv (treeSum fzero fadd pick (ins.map Prod.snd)) (fNat n)
  let sq := ins.map (fun x => fmul (fsub x.2 mean) (fsub x.2 mean))
  let var := fdiv (treeSum fzero fadd (fun i => pick (2 ^ 20 + i)) sq) (fNat n)
  let root := fsqrt (fadd var (val32 a.insn.w.imm32.toNat))
  xs.map (fun x => if x.1 < n then ffma (fdiv (fsub x.2 mean) root) (parAt a n 0 x.1) (parAt a n 1 x.1) else fzero)

/-- `a` stands before `b` for argmax: NaN above every number (R64, R137). -/
def argAbove (a b : FVal) : Bool := !b.isNan && (a.isNan || b.lt a)

/-- vx.reduce on one row: its value, or for argmax the column of it. -/
def reduceRow (fn n : Nat) (pick : Nat → Nat) (xs : List (Nat × FVal)) : FVal × Nat :=
  match xs.filter (fun x => decide (x.1 < n)) with
  | [] => (fzero, 0)
  | x :: rest =>
    let vs := rest.map Prod.snd
    if fn = 0 then (treeSum fzero fadd pick (x.2 :: vs), 0)
    else if fn = 1 then (vs.foldl fmax x.2, 0)
    else if fn = 2 then (vs.foldl fmin x.2, 0)
    else
      let b := rest.foldl (fun b y => if argAbove y.2 b.2 then y else b) x
      (fzero, b.1)

/-- The tiles of the output band, from its rows; `ok` clear makes them free values. -/
def emitBand (ok : Bool) (rows : List Row) (src : Tile) (r : Run) (a : Active) : Run × Active :=
  let f := ofmtOf r a
  let rows' := if ok then rows
    else (rows.zip (tabulate (fun i => i) rows.length 0)).map (fun e => freeRow r.s.free f e.1.codes.length (e.2 * 2 ^ 24))
  (r.free, emit a (cutBand r a.insn.w.so.toNat f rows' src))

/-- One band of a row operation. A band that ends before its row is complete gives free values (log 30). -/
def rowBand (n : Nat) (ok : Bool) (band : List Tile) (r : Run) (a : Active) : Run × Active :=
  let w := max 1 (stElems r.pt a.insn.w.sa.toNat)
  let ls := band.foldl (fun (x : List (List (List FVal)) × Run) t =>
    let y := tileLanes x.2 a t
    (x.1 ++ [y.1], y.2)) ([], r)
  let rows := bandCols w ls.1
  let r := ls.2
  let idx := rows.zip (tabulate (fun i => i) rows.length 0)
  let f := ofmtOf r a
  let rtz := a.insn.w.rtz
  let nosat := a.insn.w.nosat
  let fn := a.insn.w.func.toNat
  match band with
  | [] => (r, a)
  | src :: _ =>
    if a.insn.op = OP_REDUCE ∧ fn = 3 then
      let out := idx.map (fun e => rowConvert FMT_INT32 f rtz nosat
        { codes := [(reduceRow 3 n (pickAt r.s.free 0) e.1).2], scales := [] })
      emitBand ok (out.map Prod.fst) src (r.flag FLAG_CONV_CLAMP (out.any Prod.snd)) a
    else
      let vs := idx.map (fun e =>
        let pick := pickAt r.s.free (e.2 * 2 ^ 24)
        if a.insn.op = OP_RMS then rmsRow a n pick e.1
        else if a.insn.op = OP_LN then lnRow a n pick e.1
        else [(reduceRow fn n pick e.1).1])
      let o := lanesOut f rtz nosat vs r
      emitBand ok o.1 src o.2 a

/-- vx.rmsnorm, vx.lnorm and vx.reduce: ceil(L / t) tiles make a band. -/
def unitRow (r : Run) (a : Active) : UnitRes :=
  let n := if a.insn.op = OP_REDUCE then a.insn.w.imm32.toNat else tdDim (tdOf a.insn.dA) 0
  let need := max 1 (ceilDiv n (max 1 (stElems r.pt a.insn.w.sa.toNat)))
  (takeA r a).map (fun (t, r, a) =>
    let band := a.bufA ++ [t]
    if band.length < need ∧ !a.aEnd then (r, { a with bufA := band })
    else
      let x := rowBand n (decide (need ≤ band.length)) band r a
      (x.1, { bump x.2 with bufA := [], fin := a.aEnd }))

/-! ### vx.rope -/

/-- cos and sin of pair `i` of a head of `w` columns at a position (R493). -/
def ropeAngle (w theta pos i : Nat) : FVal × FVal :=
  let lg := fnLog true (val32 theta)
  let e := fdiv (mulExact (fInt (-(2 * i : Int))) lg) (fNat w)
  let angle := fmul (r32 (fNat pos)) (fnExp2 e)
  (fnCos angle, fnSin angle)

/-- One head rotated. -/
def ropeHead (w theta pos : Nat) (xs : List FVal) : List FVal :=
  let h := w / 2
  let at_ := fun (i : Nat) => xs.getD i fzero
  let cs := tabulate (ropeAngle w theta pos) h 0
  (cs.zip (tabulate (fun i => i) h 0)).map (fun e =>
      ffma (at_ (e.2 + h)).negate e.1.2 (fmul (at_ e.2) e.1.1))
    ++ (cs.zip (tabulate (fun i => i) h 0)).map (fun e =>
      ffma (at_ (e.2 + h)) e.1.1 (fmul (at_ e.2) e.1.2))

/-- A row with its leading heads rotated; columns that fill no head pass unchanged. -/
def ropeRow (w theta pos heads : Nat) (xs : List FVal) : List FVal :=
  let k := if heads = 0 then xs.length / w else min heads (xs.length / w)
  (tabulate (fun q => ropeHead w theta pos ((xs.drop (q * w)).take w)) k 0).flatten ++ xs.drop (k * w)

/-- The tiles of a band after rotation: each source tile gives one of its own shape. -/
def ropeTiles (f : Nat) (rtz nosat : Bool) (rows : List (List FVal)) : List Tile → Nat → Run → List Tile × Run
  | [], _, r => ([], r)
  | t :: ts, c, r =>
    let n := tileCols t
    let o := lanesOut f rtz nosat ((rows.take t.rows.length).map (fun v => (v.drop c).take n)) r
    let rest := ropeTiles f rtz nosat rows ts (c + n) o.2
    (tileLike f o.1 t :: rest.1, rest.2)

/-- One band of vx.rope. Positions come from the row map; a batch row beyond it has a free position (log 30). -/
def ropeBand (r : Run) (a : Active) : Run × Active :=
  let w := max 1 a.insn.w.immh.toNat
  let ls := a.bufA.foldl (fun (x : List (List (List FVal)) × Run) t =>
    let y := tileLanes x.2 a t
    (x.1 ++ [y.1], y.2)) ([], r)
  let rows := (bandCols 0 ls.1).map (fun x => x.map Prod.snd)
  let ids := (a.bufA.map (fun t => tabulate (tileRow t) rows.length 0)).headD []
  let rows := (rows.zip ids).map (fun e =>
    let pos := (a.par[4 * e.2 + 2]?).getD (Config.freeAt ls.2.s.free e.2 % 2 ^ 20)
    ropeRow w a.insn.w.imm32.toNat pos a.insn.w.func.toNat e.1)
  let o := ropeTiles (ofmtOf r a) a.insn.w.rtz a.insn.w.nosat rows a.bufA 0 ls.2.free
  (o.2, { bump (emit a o.1) with bufA := [] })

/-- vx.rope: tiles that begin at one row make a band. -/
def unitRope (r : Run) (a : Active) : UnitRes :=
  if a.aEnd then
    let x := ropeBand r a
    some (x.1, { x.2 with fin := true })
  else
    (takeA r a).map (fun (t, r, a) =>
      match a.bufA with
      | [] => (r, { a with bufA := [t] })
      | u :: _ =>
        if u.info.flat = t.info.flat then (r, { a with bufA := a.bufA ++ [t] })
        else
          let x := ropeBand r a
          (x.1, { x.2 with bufA := [t] }))

/-! ### vx.smax (R183, R184) -/

/-- Negative infinity. -/
def fninf : FVal := .inf true

/-- Key `j` is allowed for batch row `i`: below its KV length, and its mask bit set where there is a mask. -/
def keyAllowed (a : Active) (i j : Nat) : Bool :=
  let stride := tdDim (tdOf a.insn.dB) 0
  decide (j < a.par.getD (4 * i + 3) 0)
    && (a.insn.w.func.toNat % 2 == 0
        || (decide (j / 8 < stride) && bitOf (a.mask.getD (i * stride + j / 8) 0) (j % 8)))

/-- A key of a score row: a padding key of R180, whether the row may see it, and its score. -/
structure ScoreKey where
  padding : Bool
  allowed : Bool
  score : FVal
  deriving DecidableEq, Repr

/-- One score row: (m, l) and the weights. A key that is not allowed is masked; where every key is, no difference of infinities is
formed, and padding keys always get +0 (R184). Allowed keys that all score −∞ give NaN (R187). -/
def softRow (scale : FVal) (pick : Nat → Nat) (xs : List ScoreKey) : (FVal × FVal) × List FVal :=
  let ts := xs.map (fun x => (x.padding, if x.allowed then fmul x.score scale else fninf))
  let m := (ts.map Prod.snd).foldl fmax fninf
  if xs.all (fun x => !x.allowed) then ((m, fzero), ts.map (fun _ => fzero))
  else
    let ps := ts.map (fun t => if t.1 then fzero else fnExp (fsub t.2 m))
    ((m, treeSum fzero fadd pick ps), ps)

/-- The softmax pieces of one row tile: the same tiles in OFMT, with the statistics plane. Padding keys get +0. -/
def smaxTiles (ts : List Tile) (r : Run) (a : Active) : Run × Active :=
  let f := ofmtOf r a
  let ls := ts.foldl (fun (x : List (List (List FVal)) × Run) t =>
    let y := tileLanes x.2 a t
    (x.1 ++ [y.1], y.2)) ([], r)
  let n := ((ts.map (fun t => t.rows.length)).headD 0)
  let pick := fun (i : Nat) => pickAt ls.2.s.free (i * 2 ^ 24)
  let res := tabulate (fun i =>
    let row := tileRow (ts.headD (mkTile f [] 0 0 0 1 false)) i
    let xs := ((ts.zip ls.1).map (fun e =>
      ((e.2.getD i []).zip (tabulate (fun c => c) (e.2.getD i []).length 0)).map (fun v =>
        { padding := e.1.info.grp == 0 || decide (e.1.info.keys ≤ v.2)
          allowed := e.1.info.grp != 0 && decide (v.2 < e.1.info.keys) && keyAllowed a row (e.1.info.key0 + v.2)
          score := v.1 }))).flatten
    softRow (val32 a.insn.w.imm32.toNat) (pick i) xs) n 0
  let stats := res.map (fun x => (code32 x.1.1, code32 x.1.2))
  let out := ropeTiles f a.insn.w.rtz a.insn.w.nosat (res.map Prod.snd) ts 0 ls.2.free
  let r := out.2.flag FLAG_NAN_SEEN (res.any (fun x => x.1.1.isNan || x.1.2.isNan))
  (r, bump (emit a (out.1.map (fun t => { t with stats := stats }))))

/-- vx.smax: a row tile is complete at its last column tile. -/
def unitSmax (r : Run) (a : Active) : UnitRes :=
  (takeA r a).map (fun (t, r, a) =>
    let ts := a.bufA ++ [t]
    if t.info.last || a.aEnd then
      let x := smaxTiles ts r a
      (x.1, { x.2 with bufA := [], fin := a.aEnd })
    else (r, { a with bufA := ts }))

/-! ### vx.merge (R186, R187) -/

/-- A partial triple (m, l, o). -/
structure Triple where
  m : FVal
  l : FVal
  o : List FVal
  deriving DecidableEq, Repr

/-- Two triples combined, each operation rounded in the order of R186. -/
def mergeTwo (x y : Triple) : Triple :=
  let m := fmax x.m y.m
  let a1 := fnExp (fsub x.m m)
  let a2 := fnExp (fsub y.m m)
  { m := m, l := fadd (fmul a1 x.l) (fmul a2 y.l)
    o := (x.o.zip y.o).map (fun e => fadd (fmul a1 e.1) (fmul a2 e.2)) }

/-- The triples of a tile with the batch row and query head of each, and its ROWMASK bit. -/
def triplesOf (nosat : Bool) (t : Tile) : List ((Nat × Nat) × Bool × Triple) :=
  ((t.info.pairs.zip (lanesOf t.hdr.format nosat t.rows).1).zip
    (t.stats.zip (tabulate (fun i => i) t.rows.length 0))).map (fun e =>
      (e.1.1, bitOf t.hdr.rowMask e.2.2, { m := val32 e.2.1.1, l := val32 e.2.1.2, o := e.1.2 }))

/-- The triple of a segment with no allowed key, which R186 leaves out. One whose allowed keys all score −∞ has an m of −∞ too, but
its l is NaN, and R187 makes the result NaN (log 67). -/
def emptyTriple (t : Triple) : Bool := t.m == fninf && !t.l.isNan

/-- The merged output of one batch row and query head: its values, its log-sum-exp code, and whether it is empty. -/
def mergeHead (w : Nat) (pick : Nat → Nat) (ts : List Triple) : List FVal × FVal × Bool :=
  match ts.filter (fun t => !emptyTriple t) with
  | [] => (List.replicate w fzero, fninf, true)
  | x :: xs =>
    let t := treeSum x mergeTwo pick (x :: xs)
    (t.o.map (fun v => fdiv v t.l), fadd t.m (fnLog false t.l), false)

/-- The output of vx.merge over every tile of its source. -/
def mergeAll (r : Run) (a : Active) : Run × Active :=
  let f := ofmtOf r a
  let nosat := a.insn.w.nosat
  let ts := a.bufA
  let all := ts.flatMap (triplesOf nosat)
  let heads := ts.foldl (fun m t => max m t.info.heads) 0
  let w := (ts.map tileCols).headD 0
  let rows := tabulate (fun i => i) r.st.rows.length 0
  let res := rows.map (fun i => tabulate (fun q =>
    mergeHead w (pickAt r.s.free ((i * heads + q) * 2 ^ 24))
      ((all.filter (fun e => e.1 == (i, q))).map (fun e => e.2.2))) heads 0)
  let vs := res.map (fun l => l.flatMap (fun x => if f = FMT_FP32 then x.1 ++ [x.2.1] else x.1))
  let o := lanesOut f a.insn.w.rtz nosat vs r
  let mask := bitsMask (rows.map (fun i =>
    match all.find? (fun e => e.1.1 == i) with
    | none => rowLive r i
    | some e => e.2.1))
  let r := o.2.flag FLAG_EMPTY_ROW (res.any (fun l => l.any (fun x => x.2.2)))
  let src := mkTile f [] ((ts.map (fun t => t.hdr.stamp)).headD 0) mask 0 1 false
  -- each piece carries the stamp of the source tile that holds its first batch row (R90)
  let cut := (cutBand r a.insn.w.so.toNat f o.1 src).map (fun t =>
    match ts.find? (fun x => x.info.pairs.any (fun q => q.1 == t.info.flat)) with
    | none => t
    | some x => { t with hdr := { t.hdr with stamp := x.hdr.stamp } })
  (r.free, bump (emit a cut))

/-- vx.merge: its source is read to the end, then merged. -/
def unitMerge (r : Run) (a : Active) : UnitRes :=
  (takeA r a).map (fun (t, r, a) =>
    let a := { a with bufA := a.bufA ++ [t] }
    if a.aEnd then
      let x := mergeAll r a
      (x.1, { x.2 with bufA := [], fin := true })
    else (r, a))

/-- One unit of a VX instruction. -/
def unitVx (r : Run) (a : Active) : UnitRes :=
  let op := a.insn.op
  if op = OP_EW1 then unitEw1 r a
  else if op = OP_EW2 then unitEw2 r a
  else if op = OP_ACT then unitAct r a
  else if op = OP_SMAX then unitSmax r a
  else if op = OP_MERGE then unitMerge r a
  else if op = OP_ROPE then unitRope r a
  else if op = OP_SILUMUL then unitSilumul r a
  else if op = OP_POOL then unitPool r a
  else unitRow r a

end Sys2Proof.Machine
end

