-- ==== Sys2Proof/Machine/Sched.lean ====
section
/-!
DEFINITION. The five stations of a partition at work (R75 to R77, R85 to R87): starting instructions in order, running
them unit by unit until every station waits, and issuing a station instruction (R112, R125, R126).
-/
namespace Sys2Proof.Machine

/-! ### Stations -/

/-- The instruction in progress at station `k`. -/
def actOf (r : Run) (k : Nat) : Option Active := mapGet none r.pt.act k

/-- Sets the instruction in progress at station `k`. -/
def setAct (k : Nat) (a : Option Active) (r : Run) : Run :=
  { r with pt := { r.pt with act := mapSet none r.pt.act k a } }

/-- The instructions that wait at station `k`. -/
def queueOf (pt : Part) (k : Nat) : List StInsn := mapGet [] pt.queues k

/-- An instruction as it starts. -/
def active (i : StInsn) : Active :=
  { insn := i, pos := 0, aPos := 0, bPos := 0, aEnd := false, bEnd := false, bufA := [], bufB := [], outq := []
    made := 0, par := [], mask := [], engines := [], cool := false, skip := [], fin := false, items := [], jobs := [], dealt := 0 }

/-- in.gather starts once its table may be read, by whole handle (R96). The tokens of a row map, which it also reads by whole
handle, are read then; an index tensor is read tile by tile as the rows are formed. -/
def startGather (r : Run) (a : Active) : UnitRes :=
  let i := a.insn
  let d := tdOf i.dA
  let b := tdOf i.dB
  if !sbWholeOk r i d then none
  else if b.dtype ≠ 2 then some (r, a)
  else if !sbWholeOk r i b then none
  else
    let x := readRows b 0 4 (tdDim b 1) 0 r
    let a := { a with par := x.1.map (fun z => z.codes.getD 1 0) }
    some (if b.handle = d.handle then x.2 else sbDone i.no (some b.handle) x.2, a)

/-- A station starts the instruction at the head of its queue, or waits. -/
def startInsn (r : Run) (i : StInsn) : UnitRes :=
  let a := active i
  if i.op = OP_GATHER then startGather r a
  else if opStation i.op = 1 then
    if i.op = OP_MM ∧ i.w.func.toNat % 2 = 0 ∧ !sbWholeOk r i (tdOf i.dA) then none
    else some (startMx r a)
  else if opStation i.op = 2 then startVx r a
  else if i.op = OP_KVG then
    if sbWholeOk r i (tdOf i.dB) then
      some (if (tdOf i.dB).handle = (tdOf i.dA).handle then r else sbDone i.no (some (tdOf i.dB).handle) r, a)
    else none
  else if i.op = OP_COMMIT then
    some ({ r with st := { r.st with commitAt := some i.w.imm32.toNat } }, a)
  else some (r, a)

/-- One unit of the instruction in progress. An out.commit waits for its Tc. -/
def unitOf (r : Run) (a : Active) : UnitRes :=
  let op := a.insn.op
  if op = OP_LOAD then unitLoad r a
  else if op = OP_WIN then unitWin r a
  else if op = OP_GATHER then unitGather r a
  else if op = OP_MM then unitMm r a
  else if op = OP_SCORE then unitScore r a
  else if op = OP_MIX then unitMix r a
  else if opStation op = 2 then unitVx r a
  else if op = OP_KVG then unitKvGather r a
  else if op = OP_KVA then unitAccept r a
  else if op = OP_STORE then unitStore r a
  else if op = OP_APPEND then unitAppend r a
  else none

/-- Every tile that the instruction will push is in its output queue, so that the last of them is known. -/
def lastKnown (a : Active) : Bool := if a.insn.op = OP_EW2 then a.aEnd else a.fin

/-- A tile is kept back until another follows it or it is known to be the last. -/
def holdsBack (a : Active) : Bool :=
  (a.insn.op == OP_SCORE || a.insn.op == OP_MIX) && !lastKnown a && decide (a.outq.length ≤ 1)

/-- The result of one unit at station `k`. -/
def afterUnit (k : Nat) (x : UnitRes) : Option Run := x.map (fun y => setAct k (some y.2) y.1)

/-- One move of station `k`: it starts an instruction, pushes a tile, does a unit or ends its instruction; none where it
waits. -/
def stationOnce (k : Nat) (r : Run) : Option Run :=
  match actOf r k with
  | none =>
    match queueOf r.pt k with
    | [] => none
    | i :: q => afterUnit k (startInsn { r with pt := { r.pt with queues := mapSet [] r.pt.queues k q }, insn := i.idx } i)
  | some a =>
    let r := { r with insn := a.insn.idx }
    match a.outq with
    | [] => if a.fin then some (sbDone a.insn.no none (setAct k none r)) else afterUnit k (unitOf r a)
    | t :: ts =>
      if holdsBack a then afterUnit k (unitOf r a)
      else if hasRoom r a then
        some (setAct k (some { a with outq := ts, made := a.made + 1 })
          (pushTile a t a.made (lastKnown a && ts.isEmpty) r))
      else none

/-- One move of each station, with whether any moved. -/
def stationPass (r : Run) : Run × Bool :=
  [4, 3, 2, 1, 0].foldl (fun (x : Run × Bool) k =>
    if x.1.fault.isSome then x
    else
      match stationOnce k x.1 with
      | none => x
      | some r => (r, true)) (r, false)

/-- The stations move until all wait or the step faults; `fuel` bounds the passes. -/
def runAll : Nat → Run → Run
  | 0, r => r
  | fuel + 1, r =>
    let x := stationPass r
    if x.2 && x.1.fault.isNone then runAll fuel x.1 else x.1

/-- The bound on passes: far above what any step needs. -/
def runFuel : Nat := 2 ^ 60

/-! ### Where a program goes on after a fault -/

/-- The opcode of word `i` of the program. -/
def opcodeAt (pt : Part) (i : Nat) : Nat := (pt.words.getD i 0).toNat / 2 ^ 120

/-- Past the first out.commit at or after word `i`, or the end of the program (R115; log 8). -/
def commitAfter (pt : Part) (i : Nat) : Nat :=
  match firstIdx (fun j => opcodeAt pt j == OP_COMMIT) (pt.words.length - i) i with
  | none => pt.words.length
  | some j => j + 1

/-- Where a resume goes on after the open step of partition `p` faults. -/
def resumeOf (pt : Part) : Nat :=
  match pt.step with
  | none => pt.pc + 1
  | some st =>
    match st.commitIdx with
    | none => commitAfter pt pt.pc
    | some i => i + 1

/-- The step that is open to the sequencer: from STEP to the issue of COMMIT (R101). -/
def seqStep (pt : Part) : Option StepSt :=
  match pt.step with
  | none => none
  | some st => if st.commitIdx.isSome then none else some st

/-- Some station of a partition holds an instruction. -/
def stationsHold (pt : Part) : Bool :=
  (tabulate (fun k => k) 5 0).any (fun k => (mapGet none pt.act k).isSome || !(queueOf pt k).isEmpty)

/-- Engines work on an MX instruction of the partition: an item of it has no result yet (R145, R147). -/
def enginesWork (pt : Part) : Bool :=
  match mapGet none pt.act 1 with
  | none => false
  | some a => a.items.any (fun x => x.res.isNone)

/-- The stations of a partition, which can move no further, are stalled on streams or on the scoreboard (R87): some hold
instructions, no engine works, and no out.commit waits for its Tc. -/
def stalled (pt : Part) : Bool :=
  (pt.step.bind StepSt.commitAt).isNone && pt.step.isSome && stationsHold pt && !enginesWork pt

/-- The stations of partition `p` run on; a fault that one meets ends the step. While the stacks are in self-refresh the
stations wait (R354; log 43). Where all are stalled, it is held since when (R87). -/
def runPart (p : Nat) (s : State) : State :=
  let pt := partOf s p
  match (if dramAsleep s then none else pt.step) with
  | none => s
  | some st =>
    let x := stationPass { s := s, p := p, pt := pt, st := st, insn := 0, fault := none }
    let r := if x.2 && x.1.fault.isNone then runAll runFuel x.1 else x.1
    let s := updPart p (fun pt => { pt with
      stuckAt := if stalled pt then (if x.2 then some r.s.cyc else pt.stuckAt.or (some r.s.cyc)) else none })
      (setPart p { r.pt with step := some r.st } r.s)
    match r.fault with
    | none => s
    | some c => faultStep p c r.insn (resumeOf (partOf s p)) s

/-! ### The sequencer around an instruction -/

/-- The conditions of a wait mask hold (R130). -/
def waitOver (pt : Part) (m : Nat) : Bool :=
  (tabulate (fun k => k) 5 0).all (fun k =>
    !bitOf m k || ((queueOf pt k).isEmpty && (mapGet none pt.act k).isNone))
    && (!bitOf m 5 || (pt.pub.isNone && (pt.step.bind StepSt.commitIdx).isNone))

/-- The sequencers of partition `p` take an instruction: a program runs, is not held at STEP, and no wait stalls it. -/
def seqRuns (s : State) (p : Nat) : Bool :=
  let pt := partOf s p
  pt.running && pt.held.isNone && (match pt.waitMask with
    | none => true
    | some m => waitOver pt m)

/-- The instruction word at the pc (R73, R108). -/
def wordAt (pt : Part) : Option (BitVec 128) := pt.words[pt.pc]?

/-- The word at the pc of partition `p` spells instruction `i` (R108 to R110, R124). -/
def stands (s : State) (p : Fin 8) (i : Instr) : Bool := (wordAt (partOf s p)).any (fun v => decide (insnOf p v = some i))

/-- The word at the pc of partition `p` spells none: an invalid unit or an undefined operation (R111). -/
def wordBad (s : State) (p : Fin 8) : Bool := (wordAt (partOf s p)).any (fun v => (insnOf p v).isNone)

/-- An instruction at the pc faults (R102, R126): the open step, or the program alone. -/
def seqFault (p code : Nat) (s : State) : State :=
  let pt := partOf s p
  if (seqStep pt).isSome then faultStep p code pt.pc (resumeOf pt) s else haltFault p code pt.pc (pt.pc + 1) s

/-- The sequencers of partition `p` come to instruction `i`, whose effect is `g`. Nothing happens while they take none, or where the
word at the pc spells another (log 8); a word that spells none faults (R111). -/
def seqTakes (i : Instr) (p : Fin 8) (g : State → State) (s : State) : State :=
  if !seqRuns s p then s
  else if wordBad s p then seqFault p ST_INSN_INVALID s
  else if stands s p i then g s
  else s

/-- The program halts; a resume goes on at `resume`. -/
def seqHalt (p resume : Nat) (s : State) : State :=
  updPart p (fun pt => { pt with running := false, resumePc := resume, waitMask := none }) s

/-- The pc becomes `i`, which breaks a deadlock in the making (R87). Past the last instruction the program halts, as if it had met halt (R127). -/
def seqGo (p i : Nat) (s : State) : State :=
  let s := updPart p (fun pt => { pt with pc := i, waitMask := none, stuckAt := pt.stuckAt.map (fun _ => s.cyc) }) s
  let pt := partOf s p
  if i < pt.words.length then s
  else if (seqStep pt).isSome then seqFault p ST_STEP_ORDER s
  else seqHalt p i s

/-- On to the next instruction. -/
def seqNext (p : Nat) (s : State) : State := seqGo p ((partOf s p).pc + 1) s

/-- Offers admission to partition `p`'s held STEP (R230); an admitted STEP at the end of its program runs past it. -/
def offerGo (p : Nat) (s : State) : State :=
  let t := offer p s
  if (partOf s p).held.isSome && (partOf t p).held.isNone then seqGo p (partOf t p).pc t else t

/-- The value of an instruction's predicate (R112): p0 reads 1. -/
def predOn (pt : Part) (neg : Bool) (i : Nat) : Bool := (i == 0 || pt.preg.getLsbD i) != neg

/-! ### Issue of a station instruction -/

/-- A descriptor's hint reaches its tensor (R99, R242, R243): the last hint stands. A PIN that cannot be honoured is declined at
once; what is kept in SRAM follows the hints at the next migration point (R241). -/
def takeHint (p : Nat) (d : TDesc) (s : State) : State :=
  match tensorOf s p d.handle with
  | none => s
  | some t =>
    if t.hint = d.hint then s
    else
      let s := updTensor d.handle (fun t => { t with hint := d.hint, reason := 0 }) s
      let c := if d.hint = 1 then pinCause s p d.handle { t with hint := d.hint, reason := 0 } else 0
      if c = 0 then s else declineHint p d.handle c s

/-- The tensor's hint stands declined. -/
def hintDeclined (s : State) (p : Nat) (d : TDesc) : Bool :=
  match tensorOf s p d.handle with
  | none => false
  | some t => t.reason != 0

/-- What a frame operand comes to at issue (R289, R290): no buffer, the handle to read with the buffer then held, or a
stable handle without a READY frame. -/
inductive FrameUse where
  | plain
  | hold (handle slot buf : Nat)
  | none
  deriving DecidableEq, Repr

/-- The frame that a descriptor's handle names. -/
def frameUse (s : State) (p : Nat) (st : StepSt) (h : Nat) : FrameUse :=
  match tensorOf s p h with
  | none => .plain
  | some t =>
    match t.slot with
    | none => .plain
    | some (i, k) =>
      if k < 16 then .hold h i (k % 8)
      else
        let found := match st.aliases.find? (fun x => x.1 == h) with
          | some x => (bufList (slotGet s i)).find? (fun (b : FrameBuf × Nat) => b.1.handle == x.2)
          | none => (newestReady (slotGet s i)).bind (fun k =>
              (bufList (slotGet s i)).find? (fun (b : FrameBuf × Nat) => b.2 == k))
        match found with
        | none => .none
        | some b => .hold b.1.handle i b.2

/-- The descriptor with its handle replaced. -/
def withHandle (d : BitVec 256) (h : Nat) : BitVec 256 := BitVec.ofNat 256 (fieldSet d.toNat 215 184 h)

/-- A frame operand is held, and a stable handle bound, for the step. -/
def holdFrame (h : Nat) (u : FrameUse) (st : StepSt) : StepSt :=
  match u with
  | .hold g i k =>
    { st with aliases := if g = h ∨ st.aliases.any (fun x => x.1 == h) then st.aliases else (h, g) :: st.aliases
              holds := if st.holds.contains (i, k) then st.holds else (i, k) :: st.holds }
  | _ => st

/-- The descriptor that an operand reads through. -/
def frameDesc (d : BitVec 256) (u : FrameUse) : BitVec 256 :=
  match u with
  | .hold g _ _ => withHandle d g
  | _ => d

/-- A station instruction that passed its checks enters its queue, with its operands captured (R76), and the stations
run on. -/
def enqueue (op p : Nat) (w : StaW) (a b : BitVec 256) (ua ub : FrameUse) (s : State) : State :=
  let pt := partOf s p
  let fn := w.func.toNat
  let isA := useDA op fn
  let isB := useDB op fn && op != OP_WIN
  let s := if isA then takeHint p (tdOf a) s else s
  let s := if isB then takeHint p (tdOf b) s else s
  let declined := (isA && hintDeclined s p (tdOf a)) || (isB && hintDeclined s p (tdOf b))
  match pt.step with
  | none => s
  | some st =>
    let i : StInsn :=
      { idx := pt.pc, op := op, w := w, dA := frameDesc a ua, dB := frameDesc b ub, no := st.nextNo }
    let st := holdFrame (tdOf b).handle ub (holdFrame (tdOf a).handle ua st)
    let st := { st with
      nextNo := st.nextNo + 1, sb := st.sb ++ sbOf i, flags := flagOr st.flags FLAG_HINT_IGNORED declined
      commitIdx := if op = OP_COMMIT then some pt.pc else st.commitIdx }
    let k := opStation op
    let slots := st.holds.map Prod.fst
    let s := updPart p (fun pt => { pt with
      step := some st, queues := mapSet [] pt.queues k (queueOf pt k ++ [i]) }) s
    let s := slots.foldl (fun s i => slotShow i s) s
    let s := runPart p (updPart p (fun pt => { pt with pc := pt.pc + 1, waitMask := none }) s)
    if (partOf s p).running then seqGo p (partOf s p).pc s else s

/-- The sequencer meets a station instruction of operation `op` (R112, R125). It stalls while the station's queue is full (R75). -/
def issueGo (op p : Nat) (w : StaW) (s : State) : State :=
  let pt := partOf s p
  if !predOn pt w.pneg w.pred.toNat then
    if fieldsOk op w && rangesOk op w then seqNext p s else seqFault p ST_INSN_INVALID s
  else if decide (32 ≤ (queueOf pt (opStation op)).length) then s
  else
    match issueCheck s p { pt with step := seqStep pt } op w with
    | some c => seqFault p c s
    | none =>
      match pt.step with
      | none => s
      | some st =>
        let fn := w.func.toNat
        let a := mapGet 0 pt.dreg w.da.toNat
        let b := mapGet 0 pt.dreg w.db.toNat
        let ua := if useDA op fn then frameUse s p st (tdOf a).handle else .plain
        let ub := if useDB op fn && op != OP_WIN then frameUse s p st (tdOf b).handle else .plain
        if ua = .none ∨ ub = .none then seqFault p ST_FRAME_NONE s
        else enqueue op p w a b ua ub s

/-- The sequencers of partition `p` come to station instruction `i`, of operation `op`. -/
def issueStation (op : Nat) (i : Instr) (p : Fin 8) (w : StaW) (s : State) : State := seqTakes i p (issueGo op p w) s

end Sys2Proof.Machine
end

