-- ==== Sys2Proof/Machine/Sequencer.lean ====
section
/-!
DEFINITION. The sequencer instructions (R110 to R114, R126 to R131). Each command carries the word that the partition's
sequencers meet at their program counter (log 8); it has no effect while they take none.
-/
namespace Sys2Proof.Machine

/-! ### Fields and registers -/

/-- The fields that a sequencer instruction uses (R127), and whether their values lie in the ranges that R127 and R128 give them. -/
structure SeqUse where
  sd : Bool := false
  ss1 : Bool := false
  ss2 : Bool := false
  pd : Bool := false
  dd : Bool := false
  ds : Bool := false
  cond : Bool := false
  papb : Bool := false
  imm : Bool := false
  range : Bool := true
  deriving DecidableEq, Repr

/-- Every unused field is 0, and the others lie in their ranges (R111). -/
def seqFieldsOk (u : SeqUse) (w : SeqW) : Bool :=
  w.rsv == 0 && (u.sd || w.sd == 0) && (u.ss1 || w.ss1 == 0) && (u.ss2 || w.ss2 == 0) && (u.pd || w.pd == 0)
    && (u.dd || w.dd == 0) && (u.ds || w.ds == 0) && (u.cond || w.cond == 0) && (u.papb || (w.pa == 0 && w.pb == 0))
    && (u.imm || w.imm == 0) && u.range

/-- Scalar register `i`; s0 reads 0 (R113). -/
def sGet (pt : Part) (i : BitVec 5) : BitVec 64 := if i = 0 then 0 else mapGet 0 pt.sreg i.toNat

/-- Writes scalar register `i`; a write of s0 is ignored (R113). -/
def sSet (p : Nat) (i : BitVec 5) (v : BitVec 64) (s : State) : State :=
  if i = 0 then s else updPart p (fun pt => { pt with sreg := mapSet 0 pt.sreg i.toNat v }) s

/-- Predicate register `i`; p0 reads 1 (R113). -/
def pGet (pt : Part) (i : BitVec 3) : Bool := i == 0 || pt.preg.getLsbD i.toNat

/-- Writes predicate register `i`; a write of p0 is ignored (R113). -/
def pSet (p : Nat) (i : BitVec 3) (v : Bool) (s : State) : State :=
  if i = 0 then s
  else updPart p (fun pt => { pt with preg := BitVec.ofNat 8 (setBit pt.preg.toNat i.toNat v) }) s

/-- Descriptor register `i`. -/
def dGet (pt : Part) (i : Nat) : BitVec 256 := mapGet 0 pt.dreg i

/-- Writes descriptor register `i`. -/
def dSet (p i : Nat) (v : BitVec 256) (s : State) : State :=
  updPart p (fun pt => { pt with dreg := mapSet 0 pt.dreg i v }) s

/-- Sequencer instruction `i` with word `w` and the fields `u`, once the sequencers come to it: ST_INSN_INVALID for a field that
must be 0 or is out of range, no effect under a false predicate (R111, R112), else its effect `f`. -/
def seqDo (i : Instr) (p : Fin 8) (u : SeqUse) (w : SeqW) (f : Part → State → State) (s : State) : State :=
  seqTakes i p (fun s =>
    if !seqFieldsOk u w then seqFault p ST_INSN_INVALID s
    else if !predOn (partOf s p) w.pneg w.pred.toNat then seqNext p s
    else f (partOf s p) s) s

/-- An instruction that writes SD, then goes on. -/
def seqWrite (i : Instr) (p : Fin 8) (u : SeqUse) (w : SeqW) (f : Part → BitVec 64) (s : State) : State :=
  seqDo i p { u with sd := true } w (fun pt s => seqNext p (sSet p w.sd (f pt) s)) s

/-- An operation of two scalar registers (R114). -/
def seqAlu (i : Instr) (p : Fin 8) (w : SeqW) (f : BitVec 64 → BitVec 64 → BitVec 64) (s : State) : State :=
  seqWrite i p { ss1 := true, ss2 := true } w (fun pt => f (sGet pt w.ss1) (sGet pt w.ss2)) s

/-! ### Scalar instructions -/

/-- nop. -/
def execSeqNop (p : Fin 8) (w : SeqW) (s : State) : Res := .next (seqDo (.seqNop p w) p {} w (fun _ s => seqNext p s) s)

/-- li SD, imm. -/
def execSeqLi (p : Fin 8) (w : SeqW) (s : State) : Res := .next (seqWrite (.seqLi p w) p { imm := true } w (fun _ => w.imm) s)

/-- add SD, SS1, SS2. -/
def execSeqAdd (p : Fin 8) (w : SeqW) (s : State) : Res := .next (seqAlu (.seqAdd p w) p w (fun a b => a + b) s)

/-- addi SD, SS1, imm. -/
def execSeqAddi (p : Fin 8) (w : SeqW) (s : State) : Res :=
  .next (seqWrite (.seqAddi p w) p { ss1 := true, imm := true } w (fun pt => sGet pt w.ss1 + w.imm) s)

/-- sub SD, SS1, SS2. -/
def execSeqSub (p : Fin 8) (w : SeqW) (s : State) : Res := .next (seqAlu (.seqSub p w) p w (fun a b => a - b) s)

/-- mul SD, SS1, SS2. -/
def execSeqMul (p : Fin 8) (w : SeqW) (s : State) : Res := .next (seqAlu (.seqMul p w) p w (fun a b => a * b) s)

/-- and SD, SS1, SS2. -/
def execSeqAnd (p : Fin 8) (w : SeqW) (s : State) : Res := .next (seqAlu (.seqAnd p w) p w (fun a b => a &&& b) s)

/-- or SD, SS1, SS2. -/
def execSeqOr (p : Fin 8) (w : SeqW) (s : State) : Res := .next (seqAlu (.seqOr p w) p w (fun a b => a ||| b) s)

/-- xor SD, SS1, SS2. -/
def execSeqXor (p : Fin 8) (w : SeqW) (s : State) : Res := .next (seqAlu (.seqXor p w) p w (fun a b => a ^^^ b) s)

/-- shl SD, SS1, SS2; the amount is taken modulo 64. -/
def execSeqShl (p : Fin 8) (w : SeqW) (s : State) : Res :=
  .next (seqAlu (.seqShl p w) p w (fun a b => a <<< (b.toNat % 64)) s)

/-- shr SD, SS1, SS2; fills with 0. -/
def execSeqShr (p : Fin 8) (w : SeqW) (s : State) : Res :=
  .next (seqAlu (.seqShr p w) p w (fun a b => a >>> (b.toNat % 64)) s)

/-- sra SD, SS1, SS2; fills with the sign. -/
def execSeqSra (p : Fin 8) (w : SeqW) (s : State) : Res :=
  .next (seqAlu (.seqSra p w) p w (fun a b => a.sshiftRight (b.toNat % 64)) s)

/-! ### Predicates -/

/-- The conditions of cmp; none for a code that R127 does not give. -/
def condHolds (c : Nat) (a b : BitVec 64) : Option Bool :=
  match c with
  | 0 => some (a == b)
  | 1 => some (a != b)
  | 2 => some (a.slt b)
  | 3 => some (a.sle b)
  | 4 => some (a.ult b)
  | 5 => some (a.ule b)
  | _ => none

/-- The operations of pset; none for a code that R127 does not give. -/
def psetValue (c : Nat) (a b : Bool) : Option Bool :=
  match c with
  | 0 => some (a && b)
  | 1 => some (a || b)
  | 2 => some (a != b)
  | 3 => some (a && !b)
  | 4 => some a
  | _ => none

/-- Writes PD, or faults where COND is outside its range. -/
def seqPred (p : Nat) (w : SeqW) (v : Option Bool) (s : State) : State :=
  match v with
  | none => seqFault p ST_INSN_INVALID s
  | some v => seqNext p (pSet p w.pd v s)

/-- cmp PD, SS1, SS2, COND. -/
def execSeqCmp (p : Fin 8) (w : SeqW) (s : State) : Res :=
  .next (seqDo (.seqCmp p w) p { pd := true, ss1 := true, ss2 := true, cond := true, range := decide (w.cond.toNat ≤ 5) } w
    (fun pt s => seqPred p w (condHolds w.cond.toNat (sGet pt w.ss1) (sGet pt w.ss2)) s) s)

/-- cmpi PD, SS1, imm, COND. -/
def execSeqCmpi (p : Fin 8) (w : SeqW) (s : State) : Res :=
  .next (seqDo (.seqCmpi p w) p { pd := true, ss1 := true, cond := true, imm := true, range := decide (w.cond.toNat ≤ 5) } w
    (fun pt s => seqPred p w (condHolds w.cond.toNat (sGet pt w.ss1) w.imm) s) s)

/-- pset PD, PA, PB, COND. -/
def execSeqPset (p : Fin 8) (w : SeqW) (s : State) : Res :=
  .next (seqDo (.seqPset p w) p { pd := true, papb := true, cond := true, range := decide (w.cond.toNat ≤ 4) } w
    (fun pt s => seqPred p w (psetValue w.cond.toNat (pGet pt w.pa) (pGet pt w.pb)) s) s)

/-! ### Descriptors -/

/-- Loads `n` descriptors from byte `o` of a table into registers `d` onward. A table that the host or a peer has written during the
open step reads as free values (R98). -/
def dldRow (p : Nat) (t : Tensor) (h o d n : Nat) (s : State) : State :=
  let st := ((partOf s p).step).getD stepNone
  let vs := tabulate (fun i => BitVec.ofNat 256 (if st.wild.contains h then Config.freeAt s.free i
    else ofLe (tabulate (tensorByte s st h t) 32 (o + 32 * i)))) n 0
  let s := noteRead t FMT_INT8 o (32 * n) s
  (vs.zip (tabulate (fun i => i) n d)).foldl (fun s v => dSet p v.2 v.1 s) s

/-- dld DD, DS, SS1 (R123, R127). -/
def execSeqDld (p : Fin 8) (w : SeqW) (s : State) : Res :=
  .next (seqDo (.seqDld p w) p { dd := true, ds := true, ss1 := true } w (fun pt s =>
    let d := dGet pt w.ds.toNat
    let t := tdOf d
    let row := (sGet pt w.ss1).toNat
    let n := tdDim t 0
    if !tdOk [4] d || !tdAgrees s p t then seqFault p ST_DESC_TYPE s
    else if tdDim t 1 ≤ row ∨ 255 < w.dd.toNat + n - 1 then seqFault p ST_DESC_RANGE s
    else
      match tensorOf s p t.handle with
      | none => seqFault p ST_HANDLE_INVALID s
      | some x =>
        let o := (t.view + row * n) * 32
        let y := readTensor p x FMT_INT8 false o (32 * n) s
        match y.2 with
        | some c => seqFault p c y.1
        | none => seqNext p (dldRow p x t.handle o w.dd.toNat n y.1)) s)

/-- dmov DD, DS. -/
def execSeqDmov (p : Fin 8) (w : SeqW) (s : State) : Res :=
  .next (seqDo (.seqDmov p w) p { dd := true, ds := true } w
    (fun pt s => seqNext p (dSet p w.dd.toNat (dGet pt w.ds.toNat) s)) s)

/-- The place l and width w that dset and dget name; none outside their ranges. -/
def dField (imm : BitVec 64) : Option (Nat × Nat) :=
  let l := fieldGet imm.toNat 7 0
  let w := fieldGet imm.toNat 15 8
  if 2 ^ 16 ≤ imm.toNat ∨ w = 0 ∨ 64 < w ∨ 256 < l + w then none else some (l, w)

/-- dset DD, SS1, imm. -/
def execSeqDset (p : Fin 8) (w : SeqW) (s : State) : Res :=
  .next (seqDo (.seqDset p w) p { dd := true, ss1 := true, imm := true, range := (dField w.imm).isSome } w (fun pt s =>
    match dField w.imm with
    | none => seqFault p ST_INSN_INVALID s
    | some (l, n) =>
      let v := fieldSet (dGet pt w.dd.toNat).toNat (l + n - 1) l (sGet pt w.ss1).toNat
      seqNext p (dSet p w.dd.toNat (BitVec.ofNat 256 v) s)) s)

/-- dget SD, DS, imm. -/
def execSeqDget (p : Fin 8) (w : SeqW) (s : State) : Res :=
  .next (seqDo (.seqDget p w) p { sd := true, ds := true, imm := true, range := (dField w.imm).isSome } w (fun pt s =>
    match dField w.imm with
    | none => seqFault p ST_INSN_INVALID s
    | some (l, n) =>
      seqNext p (sSet p w.sd (Word.ofNat (fieldGet (dGet pt w.ds.toNat).toNat (l + n - 1) l)) s)) s)

/-! ### Control flow (R128, R129) -/

/-- The bodies of the program's loops as (index of loop, index of endloop): body positions are above the first, up to the
second. -/
def loopBodies (pt : Part) : List (Nat × Nat) :=
  (pt.words.zip (tabulate (fun i => i) pt.words.length 0)).filterMap (fun x =>
    if x.1.toNat / 2 ^ 120 = 0xB4 then some (x.2, fieldGet x.1.toNat 51 32) else none)

/-- Position `i` lies in a body. -/
def inBody (b : Nat × Nat) (i : Nat) : Bool := decide (b.1 < i ∧ i ≤ b.2)

/-- The loop stack after a branch to `i`: open loops whose body does not hold it are popped. -/
def popLoops (i : Nat) : List LoopFrame → List LoopFrame
  | [] => []
  | f :: fs => if inBody (f.start, f.stop) i then f :: fs else popLoops i fs

/-- br imm. -/
def execSeqBr (p : Fin 8) (w : SeqW) (s : State) : Res :=
  .next (seqDo (.seqBr p w) p { imm := true } w (fun pt s =>
    let i := w.imm.toNat
    if pt.words.length ≤ i then seqFault p ST_BRANCH_TARGET s
    else if (loopBodies pt).any (fun b => inBody b i && !inBody b pt.pc) then seqFault p ST_LOOP_ORDER s
    else seqGo p i (updPart p (fun pt => { pt with loops := popLoops i pt.loops }) s)) s)

/-- loop SD, imm. SS1 is used only where the count field is 0. -/
def execSeqLoop (p : Fin 8) (w : SeqW) (s : State) : Res :=
  let field := fieldGet w.imm.toNat 31 0
  let e := fieldGet w.imm.toNat 51 32
  .next (seqDo (.seqLoop p w) p { sd := true, ss1 := field == 0, imm := true, range := decide (w.imm.toNat < 2 ^ 52) } w (fun pt s =>
    let count := if field = 0 then (sGet pt w.ss1).toNat else field
    if e ≤ pt.pc ∨ opcodeAt pt e ≠ 0xB5 then seqFault p ST_LOOP_ORDER s
    else if 2 ^ 32 ≤ count then seqFault p ST_INSN_INVALID s
    else if count = 0 then seqGo p (e + 1) s
    else if 4 ≤ pt.loops.length then seqFault p ST_LOOP_DEPTH s
    else
      let f : LoopFrame := { start := pt.pc, stop := e, count := count, ended := 0, sd := w.sd.toNat }
      seqNext p (sSet p w.sd 0 (updPart p (fun pt => { pt with loops := f :: pt.loops }) s))) s)

/-- What endloop does, whatever its predicate (R112, R128). -/
def endLoop (p : Nat) (s : State) : State :=
  let pt := partOf s p
  match pt.loops with
  | [] => seqFault p ST_LOOP_ORDER s
  | f :: fs =>
    if f.stop ≠ pt.pc then seqFault p ST_LOOP_ORDER s
    else if f.ended + 1 < f.count then
      let i := BitVec.ofNat 5 f.sd
      seqGo p (f.start + 1) (sSet p i (sGet pt i + 1)
        (updPart p (fun pt => { pt with loops := { f with ended := f.ended + 1 } :: fs }) s))
    else seqGo p (f.stop + 1) (updPart p (fun pt => { pt with loops := fs }) s)

/-- endloop. -/
def execSeqEndloop (p : Fin 8) (w : SeqW) (s : State) : Res :=
  .next (seqTakes (.seqEndloop p w) p (fun s =>
    if !seqFieldsOk {} w then seqFault p ST_INSN_INVALID s else endLoop p s) s)

/-! ### Steps, waiting, halting (R101, R130, R231) -/

/-- The largest estimate that fits a tick (R231). -/
def estBound (s : State) : Nat := (fget s TK_PERIOD_US - fget s TK_SLACK_BASE_US) * 500

/-- step DS, imm: its checks, then the sequencer is held at it and admission is offered at once (R230). A HALT of the
host takes effect here (R317). -/
def execSeqStep (p : Fin 8) (w : SeqW) (s : State) : Res :=
  .next (seqDo (.seqStep p w) p { ds := true, imm := true, range := decide (fieldGet w.imm.toNat 31 0 ≠ 0 ∧ w.imm.toNat < 2 ^ 32) } w (fun pt s =>
    let d := dGet pt w.ds.toNat
    let est := fieldGet w.imm.toNat 31 0
    if !tdOk [2] d || !tdAgrees s p (tdOf d) then seqFault p ST_DESC_TYPE s
    else if (seqStep pt).isSome then seqFault p ST_STEP_ORDER s
    else if (tensorOf s p (tdOf d).handle).isNone then seqFault p ST_HANDLE_INVALID s
    else if estBound s < est then seqFault p ST_ESTIMATE_RANGE s
    else if pt.haltNext then
      updPart p (fun pt => { pt with haltNext := false }) (seqHalt p pt.pc s)
    else
      offerGo p (fset (TK_PART_HELD p) 1
        (updPart p (fun pt => { pt with held := some { idx := pt.pc, desc := d, est := est }, waitMask := none }) s))) s)

/-- wait imm (R130). -/
def execSeqWait (p : Fin 8) (w : SeqW) (s : State) : Res :=
  .next (seqDo (.seqWait p w) p { imm := true, range := decide (w.imm.toNat < 64) } w (fun _ s =>
    let s := seqNext p s
    updPart p (fun pt => { pt with waitMask := if w.imm = 0 then none else some w.imm.toNat }) s) s)

/-- halt. -/
def execSeqHalt (p : Fin 8) (w : SeqW) (s : State) : Res :=
  .next (seqDo (.seqHalt p w) p {} w (fun pt s =>
    if (seqStep pt).isSome then seqFault p ST_STEP_ORDER s else seqHalt p (pt.pc + 1) s) s)

/-- The value of a sys selector (R131); an engine is usable when it is neither cool-only nor retired. -/
def sysValue (s : State) (p sel : Nat) : Option (BitVec 64) :=
  let cs := carriers s p
  match sel with
  | 0 => some (Word.ofNat (fget s TK_COUNT_COUNT))
  | 1 => some s.now
  | 2 => some (partOf s p).lastStatus
  | 3 => some (Word.ofNat cs.length)
  | 4 => some (Word.ofNat ((cs.flatMap (fun c => tabulate (fun e => e) 32 (32 * c))).filter
      (fun e => (healthOf s e).state == 0)).length)
  | 5 => some (Word.ofNat (fget s CLK_ACLK_CUR_MHZ))
  | _ => none

/-- sys SD, imm. -/
def execSeqSys (p : Fin 8) (w : SeqW) (s : State) : Res :=
  .next (seqDo (.seqSys p w) p { sd := true, imm := true, range := decide (w.imm.toNat < 6) } w (fun _ s =>
    match sysValue s p w.imm.toNat with
    | none => seqFault p ST_INSN_INVALID s
    | some v => seqNext p (sSet p w.sd v s)) s)

end Sys2Proof.Machine
end

