-- ==== Sys2Proof/Machine/HostCommands.lean ====
section
/-!
DEFINITION. Program and tensor commands of the rings: images (R71 to R73, R82, R83, R113, R251), RESUME and HALT (R115),
registered tensors (R94, R164, R257, R319, R421) and exports to the ACX (R27).
-/
namespace Sys2Proof.Machine

/-! ### Program images -/

/-- The program header of R72. -/
structure ImgHdr where
  magic : Nat
  ver : Nat
  descInit : Nat
  insns : Nat
  entry : Nat
  scratch : Nat
  rsv : Nat
  deriving DecidableEq, Repr

/-- The header of an image. -/
def imgHdr (bs : List Byte) : ImgHdr :=
  let f := fun (a n : Nat) => ofLe ((bs.drop a).take n)
  { magic := f 0 4, ver := f 4 2, descInit := f 6 2, insns := f 8 4, entry := f 12 4, scratch := f 16 8, rsv := f 24 40 }

/-- The stream table of an image. -/
def imgStreams (bs : List Byte) : List (BitVec 64) :=
  tabulate (fun i => BitVec.ofNat 64 (ofLe ((bs.drop (64 + 8 * i)).take 8))) 64 0

/-- A valid pair of producer and consumer (R83). -/
def pairOk (a b : Nat) : Bool :=
  (a == 0 && (b == 1 || b == 2 || b == 3 || b == 4)) || (a == 1 && (b == 2 || b == 4))
    || (a == 2 && (b == 1 || b == 2 || b == 3 || b == 4)) || (a == 3 && (b == 1 || b == 2))

/-- A stream-table entry keeps the rules of R82 and R83. -/
def streamOk (v : BitVec 64) : Bool :=
  let n := v.toNat
  let fmt := fieldGet n 51 44
  if bitOf n 63 then
    pairOk (fieldGet n 62 60) (fieldGet n 59 57) && decide (1 ≤ fieldGet n 56 52) && decide (fieldGet n 56 52 ≤ 16)
      && fmtOk fmt && (!fmtBlock fmt || (fieldGet n 37 28 + 1) % blockBytes fmt == 0) && fieldGet n 27 0 == 0
  else n == 0

/-- The slot space of a stream (R251). -/
def slotBytes (v : BitVec 64) : Nat :=
  let n := v.toNat
  if bitOf n 63 then
    let b := fieldGet n 56 52 * (fieldGet n 43 38 + 1) * (fieldGet n 37 28 + 1)
    b + ceilDiv b 32
  else 0

/-- The slot space of an image. -/
def imgSlots (bs : List Byte) : Nat := (imgStreams bs).foldl (fun n v => n + slotBytes v) 0

/-- The image is accepted for partition `p` (R72, R73, R251). -/
def imgOk (s : State) (p : Nat) (bs : List Byte) : Bool :=
  let h := imgHdr bs
  decide (64 + 512 ≤ bs.length) && h.magic == 0x41495052 && h.ver == 0x0100 && decide (h.descInit ≤ 256)
    && decide (1 ≤ h.insns) && decide (h.insns ≤ 1048576) && decide (h.entry < h.insns) && h.rsv == 0
    && bs.length == 64 + 512 + 32 * h.descInit + 16 * h.insns
    && (imgStreams bs).all streamOk && decide (imgSlots bs + h.scratch ≤ sramOf s p)

/-- Partition state with an image loaded (R113). The program starts at ENTRY at once (log 8). -/
def imgLoad (bs : List Byte) (pt : Part) : Part :=
  let h := imgHdr bs
  { pt with
    loaded := true, imageBytes := bs
    words := tabulate (fun i => BitVec.ofNat 128 (ofLe ((bs.drop (576 + 32 * h.descInit + 16 * i)).take 16))) h.insns 0
    streamTab := imgStreams bs, scratchBytes := h.scratch, slotSpace := imgSlots bs
    pc := h.entry, running := true, haltNext := false, resumePc := h.entry, sreg := [], preg := 1
    dreg := (tabulate (fun i => i) h.descInit 0).foldl (fun m i =>
      mapSet 0 m i (BitVec.ofNat 256 (ofLe ((bs.drop (576 + 32 * i)).take 32)))) []
    loops := [], held := none, waitMask := none, queues := [], act := [], streams := [] }

/-- The room for scratch that a loaded program asks for (R240): in SRAM beside the stream slots and the PIN tensors where it can be,
and in DRAM for the rest, where there is a place (log 13). -/
def scratchReserve (p : Nat) (s : State) : State :=
  let s := updPart p (fun pt => { pt with scratchSram := 0, scratchAt := none }) s
  let n := (partOf s p).scratchBytes
  let k := min n (sramRoom s p 0)
  let at_ := if n = k then none else (freeSpot s p (n - k) [0, 1, 2, 3, 4, 5]).map (fun a => (a, n - k))
  updPart p (fun pt => { pt with scratchSram := k, scratchAt := at_ }) s

/-- LOAD_IMAGE (R73, R319). -/
def execLoadImage (q : QCmd) (addr : BitVec 64) (len : BitVec 64) (dma : Dma) (s : State) : Res :=
  runCmd (.loadImage q addr len dma) q false (fun s =>
    let p := cmdPart q
    if (partOf s p).running then cmdFail ST_PROGRAM_BUSY s
    else if !dma.ok then cmdFail ST_DMA_FAULT s
    else if dma.data.length = len.toNat ∧ imgOk s p dma.data = true then
      cmdMoved q 0 (fset (TK_PART_HELD p) 0 (scratchReserve p (updPart p (imgLoad dma.data) s)))
    else cmdFail ST_PROGRAM_IMAGE s) s

/-- RESUME: a halted program goes on (R115). Without a program it completes with ST_CMD_INVALID (log 8). -/
def execProgramResume (q : QCmd) (s : State) : Res :=
  runCmd (.programResume q) q false (fun s =>
    let p := cmdPart q
    let pt := partOf s p
    if !pt.loaded then cmdFail ST_CMD_INVALID s
    else if pt.running then cmdOk 0 s
    else cmdOk 0 (seqGo p pt.resumePc (updPart p (fun pt => { pt with
      running := true, haltNext := false, loops := popLoops pt.resumePc pt.loops }) s))) s

/-- HALT: the program halts before its next STEP, or at the STEP where it is held (log 8). -/
def execProgramHalt (q : QCmd) (s : State) : Res :=
  runCmd (.programHalt q) q false (fun s =>
    let p := cmdPart q
    let pt := partOf s p
    if !pt.loaded then cmdFail ST_CMD_INVALID s
    else cmdOk 0 (haltSoon p s)) s

/-! ### Registration -/

/-- A tensor as registered; its origin stamp is an open value until it is written (log 6). -/
def tensorNew (p : Nat) (r : RegisterOps) (stamp : Nat) : Tensor :=
  let flask := r.cls == 0 && r.location == 1
  { part := p, cls := r.cls.toNat, size := r.size.toNat, writable := r.writable == 1, flask := flask
    object := if flask then r.object.toNat else 0, home := 0, stamp := BitVec.ofNat 64 stamp
    kvFormat := r.kvFormat.toNat, heads := r.kvHeads.toNat, width := r.kvWidth.toNat, hint := 0, reason := 0
    declines := 0, level := if flask then 3 else if r.cls == 1 then 0 else 2, access := 0, lost := false, slot := none
    blocks := [], lowArmed := true, digest := 0, holder := none, moved := 0, readers := 0 }

/-- REGISTER is refused before anything else (R319). -/
def registerBad (r : RegisterOps) : Bool :=
  decide (3 ≤ r.cls.toNat) || decide (1 < r.writable.toNat) || decide (1 < r.location.toNat) || r.pad != 0 || r.size == 0
    || (r.location == 0 && r.object != 0)
    || (r.cls != 2 && (r.kvFormat != 0 || r.kvHeads != 0 || r.kvWidth != 0))
    || (r.cls == 2 && r.location == 1)

/-- The refusals of a KV layer tensor (R164). -/
def kvRegisterBad (t : Tensor) : Option Nat :=
  if !(t.kvFormat == 0x13 || t.kvFormat == 0x10 || t.kvFormat == 0x22 || t.kvFormat == 0x20) then some ST_FORMAT_CODE
  else if t.heads = 0 ∨ 64 < t.heads ∨ !(t.width == 64 || t.width == 128 || t.width == 256) ∨ t.size < kvU t then
    some ST_CMD_INVALID
  else none

/-- The key slot that the header of a Flask object names, where the object is encrypted (R421; log 14). -/
def flaskKey (obj : Nat) : Option Nat :=
  let v := Config.freeAt (2 ^ 80) obj
  if v % 2 = 1 then some (v / 2 % 64) else none

/-- Tensors that partition `p` has registered from Flask (R421). -/
def flaskCount (s : State) (p : Nat) : Nat :=
  (s.tensors.filter (fun e => match e.2 with
    | some t => t.part == p && t.flask
    | none => false)).length

/-- The refusals of a tensor in Flask: the limit of R421, and a key that is not there (R418, R421). -/
def flaskBad (s : State) (p : Nat) (obj : Nat) : Option Nat :=
  if 255 ≤ flaskCount s p then some ST_FLASK_LIMIT
  else
    match flaskKey obj with
    | none => none
    | some k => if s.idReady && bitOf (regGet s SEC_KEYS) k then none else some ST_KEY_SLOT

/-- A tensor takes the next handle. -/
def tensorAdd (t : Tensor) (s : State) : State :=
  { s with tensors := mapSet none s.tensors s.nextHandle (some t), nextHandle := s.nextHandle + 1 }

/-- A Flask object loads: the SHA-512 of its plaintext stays with the handle (R421). -/
def flaskLoad (s : State) (t : Tensor) : Tensor := { t with digest := ofBe (sha512 (tabulate (flaskByte s t.object) t.size 0)) }

/-- The journal's record of a tensor registered in Flask (R436 type 0x0C). -/
def journalFlask (p h : Nat) (t : Tensor) (s : State) : State :=
  journal 0x0C (p * 65536 + h % 65536) false [h, p, t.size, b2n t.writable, t.object] s

/-- REGISTER (R94, R164, R257, R319). Without room for a home it completes with ST_CMD_INVALID (log 13). -/
def registerCmd (p : Nat) (r : RegisterOps) (s : State) : CmdOut :=
  let t := tensorNew p r (freeVal s 64)
  let h := s.nextHandle
  if registerBad r then cmdFail ST_CMD_INVALID s
  else
    match (if t.cls = 2 then kvRegisterBad t else none) with
    | some c => cmdFail c s
    | none =>
      if t.cls = 1 then cmdOk h (freeUse 1 (tensorAdd t s))
      else if t.flask then
        match flaskBad s p t.object with
        | some c => cmdFail c s
        | none => cmdOk h (freeUse 1 (journalFlask p h t (tensorAdd (flaskLoad s t) s)))
      else
        match freeSpot s p t.size [0, 1, 2, 3, 4, 5] with
        | none => cmdFail ST_CMD_INVALID s
        | some a => cmdOk h (freeUse 1 (kvSync p (tensorAdd { t with home := a } s)))

/-- REGISTER. -/
def execTensorRegister (q : QCmd) (r : RegisterOps) (s : State) : Res :=
  runCmd (.tensorRegister q r) q false (fun s => registerCmd (cmdPart q) r s) s

/-- The LIVE pages of a KV layer tensor whose handle is released become RELEASING; those that an open step has staged go at its end
(R188). -/
def kvDropTensor (h : Nat) (s : State) : State :=
  ((s.kvCtxs.map Prod.fst).filter (fun k => k / 4096 == h)).foldl (fun s k =>
    let c := ctxGet s (k % 4096) h
    ctxSet (k % 4096) h { c with cstate := 2 }
      (kvMark PG_RELEASING ((kvPages s c).filter (fun i => pgState (kvEntry s i) == PG_LIVE)) s)) s

/-- RELEASE. A frame tensor is the codec's, and its handle is not released so (log 34). -/
def execTensorRelease (q : QCmd) (h : BitVec 32) (s : State) : Res :=
  runCmd (.tensorRelease q h) q false (fun s =>
    let p := cmdPart q
    match tensorOf s p h.toNat with
    | none => cmdFail ST_HANDLE_INVALID s
    | some t =>
      if t.slot.isSome then cmdFail ST_HANDLE_INVALID s
      else
        let s := if t.cls = 2 then kvDropTensor h.toNat s else s
        let s := dropTensor h.toNat s
        let s := if t.flask then journal 0x0C (p * 65536 + h.toNat % 65536) true [] s else s
        cmdOk 0 (kvSettleNow p (kvSync p s))) s

/-! ### WRITE and READ -/

/-- Byte writes of `bs` at offset `o` of a Flask tensor's object. -/
def flaskPut (obj o : Nat) (bs : List Byte) (s : State) : State :=
  wildObject obj { s with flaskMem := mapUpd [] s.flaskMem obj (fun m =>
      (bs.zip (tabulate (fun i => i) bs.length o)).foldl (fun m b => mapSet none m b.2 (some b.1)) m) }

/-- A tensor that the host rewrites in full after its stack was lost takes a new home (R270; log 13). -/
def rehome (p h : Nat) (t : Tensor) (s : State) : State :=
  if t.lost ∧ onLostStack s t.home 1 = true then
    match freeSpot s p t.size [0, 1, 2, 3, 4, 5] with
    | none => s
    | some a => updTensor h (fun t => { t with home := a }) s
  else s

/-- Bytes written to a tensor's home and every copy (R257), where the partition's windows hold it (R408). -/
def tensorBytesPut (p : Nat) (t : Tensor) (o : Nat) (bs : List Byte) (s : State) : State :=
  if bs.isEmpty then s
  else if t.flask then flaskPut t.object o bs s
  else if inWins s p (t.home + o) bs.length then wildMark (t.home + o) bs.length (dramWrite (t.home + o) bs s)
  else windowViolation p (t.home + o) s

/-- Bytes [a, a + n) of DRAM, those of poisoned units open values (R268; log 28). -/
def unitsRead (s : State) (a n : Nat) : List Byte :=
  if poisoned s a n then
    tabulate (fun b => if mapGet false s.poison (b / 64) then BitVec.ofNat 8 (Config.freeAt s.free b) else dramByte s b) n a
  else dramRead s a n

/-- Bytes of a tensor's home; zeros outside the partition's windows (R408). -/
def tensorBytesGet (s : State) (p : Nat) (t : Tensor) (o n : Nat) : List Byte :=
  if t.flask then tabulate (flaskByte s t.object) n o
  else if inWins s p (t.home + o) n then unitsRead s (t.home + o) n
  else List.replicate n 0

/-- A complete WRITE makes the tensor valid: its origin stamp, and the end of a loss (R90, R270). -/
def tensorWritten (h o n : Nat) (s : State) : State :=
  updTensor h (fun t => { t with stamp := s.now, lost := t.lost && !(o == 0 && n == t.size) }) s

/-- The tensor that a command moves data of; the stable handle of a codec slot names no data of its own (R290). -/
def movable (s : State) (p h : Nat) : Option Tensor :=
  (tensorOf s p h).filter (fun t => t.slot.map Prod.snd != some 16)

/-- WRITE (R319). A scratch tensor has no home to move data to (log 34). -/
def execTensorWrite (q : QCmd) (h : BitVec 32) (pad : BitVec 32) (off : BitVec 64) (addr : BitVec 64)
    (len : BitVec 64) (dma : Dma) (s : State) : Res :=
  runCmd (.tensorWrite q h pad off addr len dma) q (pad != 0) (fun s =>
    let p := cmdPart q
    match movable s p h.toNat with
    | none => cmdFail ST_HANDLE_INVALID s
    | some t =>
      if t.cls = 1 ∨ t.size < off.toNat + len.toNat then cmdFail ST_CMD_INVALID s
      else
        let full := off.toNat == 0 && len.toNat == t.size && dma.ok
        let s := if full then rehome p h.toNat t s else s
        let t := (tensorOf s p h.toNat).getD t
        let s := tensorBytesPut p t off.toNat (dma.data.take len.toNat) s
        if dma.ok then cmdMoved q 0 (tensorWritten h.toNat off.toNat len.toNat s) else cmdFail ST_DMA_FAULT s) s

/-- READ (R319). -/
def execTensorRead (q : QCmd) (h : BitVec 32) (pad : BitVec 32) (off : BitVec 64) (addr : BitVec 64)
    (len : BitVec 64) (dma : Dma) (s : State) : Res :=
  runCmd (.tensorRead q h pad off addr len dma) q (pad != 0) (fun s =>
    let p := cmdPart q
    match movable s p h.toNat with
    | none => cmdFail ST_HANDLE_INVALID s
    | some t =>
      if t.cls = 1 ∨ t.size < off.toNat + len.toNat then cmdFail ST_CMD_INVALID s
      else if t.lost then cmdFail ST_STACK_LOST s
      else if !dma.ok then cmdFail ST_DMA_FAULT s
      else
        let bs := tensorBytesGet s p t off.toNat len.toNat
        let s := if t.flask ∨ len = 0 then s
          else if inWins s p (t.home + off.toNat) len.toNat = true then freeUse 1 (readMet p (t.home + off.toNat) len.toNat s).1
          else windowViolation p (t.home + off.toNat) s
        cmdMoved q 0 (hostWrite addr.toNat bs s)) s

/-- EXPORT: the ACX reaches the tensor by a handle of its own (R27). -/
def execTensorExport (q : QCmd) (h : BitVec 32) (ro : BitVec 8) (s : State) : Res :=
  runCmd (.tensorExport q h ro) q (decide (1 < ro.toNat)) (fun s =>
    let p := cmdPart q
    match movable s p h.toNat with
    | none => cmdFail ST_HANDLE_INVALID s
    | some t =>
      if t.cls = 1 then cmdFail ST_CMD_INVALID s
      else
        let n := s.nextHandle
        cmdOk n { s with acxHandles := mapSet none s.acxHandles n (some (h.toNat, ro == 1)), nextHandle := n + 1 }) s

end Sys2Proof.Machine
end

