-- ==== Sys2Proof/Machine/MemAcc.lean ====
section
/-!
DEFINITION. Memory accesses from outside the programs: BAR2 windows (R256, R306, R307), handles of the ACX (R27, R408), what
a stack in training holds back (R266), and what uncorrectable data answers (R269). Where no rule says what answers it is
log 37.
-/
namespace Sys2Proof.Machine

/-- Bytes of the PF's BAR2 (R302, R306). -/
def pfBar2 (s : State) : Nat := 2 ^ (34 + s.power.pfBar2)

/-- The device address of the PF's BAR2 offset 0: bits below the BAR size are ignored (R331). -/
def pfBase (s : State) : Nat := fget s NET_HL_BAR2_BASE_BASE / pfBar2 s * pfBar2 s

/-- Bytes of a VF's BAR2 (R307). -/
def vfBar2 (s : State) : Nat := 2 ^ (30 + s.power.vfBar2)

/-- The pieces (address, bytes) of the span [o, o + n) of windows that lie one behind the other. -/
def winPieces : List (Nat × Nat) → Nat → Nat → List (Nat × Nat)
  | [], _, _ => []
  | w :: ws, o, n =>
    if w.2 ≤ o then winPieces ws (o - w.2) n
    else
      let k := min n (w.2 - o)
      (w.1 + o, k) :: (if n = k then [] else winPieces ws 0 (n - k))

/-- Bytes of the windows of a partition. -/
def winTotal (s : State) (p : Nat) : Nat := (winsOf s p).foldl (fun n w => n + w.2) 0

/-- The stack of an address answers: it is one of the six, and in service or in training. -/
def addrMapped (a : Nat) : Bool := decide (a < dramEnd)

/-- An access to an unmapped address is logged (R256, R375 type 0x08). -/
def unmappedLog (a : Nat) (s : State) : State := rasLog { typ := 0x08, code := ST_ADDR_UNMAPPED, data := a } s

/-- The same byte of the firmware region in its other copy, where address `a` lies in a copy (R258). -/
def fwTwin (a : Nat) : Option Nat :=
  if fwCopy0 ≤ a ∧ a < fwCopy0 + 2 ^ 30 then some (a - fwCopy0 + fwCopy1)
  else if fwCopy1 ≤ a ∧ a < fwCopy1 + 2 ^ 30 then some (a - fwCopy1 + fwCopy0)
  else none

/-- The copy of the firmware region that a read of address `a` uses (R258, R266, R270): that in the half of the Steward that holds
the helm, the copy addressed while the helm is FREE (log 37), but never one on a stack that trains or is lost. -/
def fwPick (s : State) (a : Nat) : Nat :=
  match fwTwin a with
  | none => a
  | some b =>
    let up := fun (x : Nat) => fget s (MEM_STACK_STATE (stackOf x)) == 0
    let (x, y) := if fget s HLM_HELM_STATE = 0 ∨ stackHalf (stackOf a) + 1 = fget s HLM_HELM_STATE then (a, b) else (b, a)
    if up x || !up y then x else y

/-- A byte as an access from outside reads it: 0 where unmapped (R256), an open value on a stack out of service (log 37). -/
def outsideByte (s : State) (a : Nat) : Byte :=
  let a := fwPick s a
  if !addrMapped a then 0
  else if fget s (MEM_STACK_STATE (stackOf a)) = 2 then BitVec.ofNat 8 (Config.freeAt s.free a)
  else dramByte s a

/-- Reads the pieces of an access. -/
def readPieces (s : State) (l : List (Nat × Nat)) : List Byte := l.flatMap (fun x => tabulate (outsideByte s) x.2 x.1)

/-- What of the bytes `bs` written at `a` falls into the copy of the firmware region at `c` is written to the copy at `d` too
(R258). -/
def fwAlso (c d a : Nat) (bs : List Byte) (s : State) : State :=
  let lo := max a c
  let l := (bs.drop (lo - a)).take (c + 2 ^ 30 - lo)
  if c + 2 ^ 30 ≤ lo ∨ l.isEmpty ∨ fget s (MEM_STACK_STATE (stackOf d)) = 2 then s else dramWrite (d + (lo - c)) l s

/-- Writes bytes to one piece: what is unmapped or on a stack out of service is dropped, and the firmware region is written in both
copies (R258). -/
def writePiece (a : Nat) (bs : List Byte) (s : State) : State :=
  let s := if !addrMapped a || fget s (MEM_STACK_STATE (stackOf a)) == 2 then s
    else dramWrite a (bs.take (dramEnd - a)) s
  wildMark a bs.length (fwAlso fwCopy1 fwCopy0 a bs (fwAlso fwCopy0 fwCopy1 a bs s))

/-- Writes bytes to the pieces of an access. -/
def writePieces : List (Nat × Nat) → List Byte → State → State
  | [], _, s => s
  | x :: l, bs, s => writePieces l (bs.drop x.2) (writePiece x.1 (bs.take x.2) s)

/-- Some piece reaches beyond the stacks. -/
def anyUnmapped (l : List (Nat × Nat)) : Option Nat :=
  (l.find? (fun x => decide (dramEnd < x.1 + x.2))).map (fun x => max x.1 dramEnd)

/-- The stack that is in training (R264). -/
def trainingStack (s : State) : Option Nat :=
  [0, 1, 2, 3, 4, 5].find? (fun i => fget s (MEM_STACK_STATE i) == 1)

/-- The access reaches the stack in training, and neither a mirror nor the other copy of the firmware region serves it
(R266). -/
def mustHold (s : State) (l : List (Nat × Nat)) : Bool :=
  match trainingStack s with
  | none => false
  | some i => l.any (fun x => decide (x.1 < (i + 1) * stackBytes ∧ i * stackBytes < x.1 + x.2)
      && !(mirrorsOf s).any (fun m => m.built == m.len && decide (m.home ≤ x.1 ∧ x.1 + x.2 ≤ m.home + m.len))
      && !(decide ((fwCopy0 ≤ x.1 ∧ x.1 < fwCopy0 + 2 ^ 30) ∨ (fwCopy1 ≤ x.1 ∧ x.1 < fwCopy1 + 2 ^ 30))))

/-- Bytes that an access moves. -/
def accLen : MemAcc → Nat
  | .read n => n
  | .write bs => bs.length

/-- Performs an access, which meets the errors that wait in its units (R268, R269): `acx` is the core for one of the ACX, none for BAR2; `p` the partition where one is known. -/
def accDo (acx p : Option Nat) (l : List (Nat × Nat)) (acc : MemAcc) (s : State) : State :=
  let s := match anyUnmapped l with
    | none => s
    | some a => unmappedLog a s
  match acc with
  | .write bs => writePieces l bs s
  | .read _ =>
    let x := l.foldl (fun (x : State × List Nat) e =>
      let y := readMet (p.getD 0xFF) (fwPick x.1 e.1) e.2 x.1
      (y.1, x.2 ++ y.2)) (s, [])
    if x.2.isEmpty then freeUse 1 { x.1 with out := .readData (readPieces x.1 l) :: x.1.out }
    else
      let s := unitsEnd x.2 x.1
      match acx with
      | some c => { s with out := .acxFault c :: s.out }
      | none => { s with out := .poisoned :: s.out }

/-- Performs an access, or holds it while its stack trains, or while the stacks are in self-refresh (R266, R354). -/
def accGo (acx p : Option Nat) (l : List (Nat × Nat)) (acc : MemAcc) (s : State) : State :=
  if dramAsleep s || mustHold s l then { s with heldAccs := s.heldAccs ++ [{ acx := acx, part := p, pieces := l, acc := acc }] }
  else accDo acx p l acc s

/-- Every held access is performed (R266). -/
def accRelease (s : State) : State :=
  s.heldAccs.foldl (fun s h => accDo h.acx h.part h.pieces h.acc s) { s with heldAccs := [] }

/-- ACX_ACCESS: a load or store of an ACX core through an exported handle (R27, R257, R408). A handle that is not exported,
an offset beyond the tensor or a store through a read-only handle raises an access fault (log 37). -/
def acxGo (core h off : Nat) (acc : MemAcc) (s : State) : State :=
  let bad := { s with out := .acxFault core :: s.out }
  match mapGet none s.acxHandles h with
  | none => bad
  | some (th, ro) =>
    match mapGet none s.tensors th with
    | none => bad
    | some t =>
      let n := accLen acc
      let isRead := match acc with | .read _ => true | .write _ => false
      if t.size < off + n ∨ (isRead = false ∧ ro = true) ∨ (isRead = true ∧ t.lost = true) then bad
      else if t.flask then
        (match acc with
        | .read k => { s with out := .readData (tabulate (flaskByte s t.object) k off) :: s.out }
        | .write bs => flaskPut t.object off bs s)
      else if n = 0 ∨ inWins s t.part (t.home + off) n = true then
        accGo (some core) (some t.part) [(t.home + off, n)] acc s
      else
        let s := windowViolation t.part (t.home + off) s
        (match acc with
        | .read k => { s with out := .readData (List.replicate k 0) :: s.out }
        | .write _ => s)

end Sys2Proof.Machine
end

