-- ==== Sys2Proof/Machine/HostLink.lean ====
section
/-!
DEFINITION. The host link: training, resets, violations, BAR2, MSI-X, VF Enable and PTM (R302 to R307, R329, R339).
-/
namespace Sys2Proof.Machine

/-- HOST_LINK_UP (R303); the link trains once I/O self-test has ended (R479), in RECOVERY at up to 8 GT/s (R446). The
host sets the size of the PF's BAR2, 2^(34 + its code) bytes, as it brings the link up (R302, R306; log 37). -/
def execHostLinkUp (dt : Nat) (gen : BitVec 3) (width : LinkSet) (s : State) : Res :=
  let s := elapse dt s
  if !dieOn s || (mode s == MODE_BOOT && decide (s.power.phase < 2)) || gen == 0 || decide (5 < gen.toNat)
      || (mode s == MODE_RECOVERY && decide (3 < gen.toNat)) then .next s
  else
    let low := decide (gen.toNat < 5 ∨ width.lanes.toNat < 3)
    let s := fset NET_HL_STATUS_GEN gen.toNat (fset NET_HL_STATUS_WIDTH width.lanes.toNat s)
    let s := fset NET_STATUS_HL_UP 1 (fset NET_HL_STATUS_DEGRADED (b2n low) s)
    let s := { s with power := { s.power with pfBar2 := width.bar.val } }
    .next (if low then raise .hostLinkDegraded 0 s else s)

/-! ### Resets (R304) -/

/-- Every register of the queues, and every queue, takes its reset value. -/
def queuesReset (s : State) : State :=
  { s with regs := s.regs.filter (fun e => !(decide (0x2000000 ≤ e.1 ∧ e.1 < 0x2800000))), queues := [] }

/-- The state of the functions returns to reset: MSI-X, queues, the base of BAR2, VF Enable. -/
def functionsReset (s : State) : State :=
  let s := regSet NET_HL_BAR2_BASE 0 (queuesReset s)
  { s with msixOn := [], vecOpen := [], msixHeld := [], power := { s.power with vfEnabled := false, pfBar2 := 0 } }

/-- Every partition's program halts before its next STEP. -/
def haltAll (s : State) : State := (tabulate (fun p => p) 8 0).foldl (fun s p => haltSoon p s) s

/-- The host link is down until it has trained again. -/
def linkDown (s : State) : State :=
  fset NET_STATUS_HL_UP 0 (fset NET_HL_STATUS_GEN 0 (fset NET_HL_STATUS_WIDTH 0 (fset NET_HL_STATUS_DEGRADED 0 s)))

/-- What PERST# and hot reset do. -/
def hostReset (s : State) : State := haltAll (functionsReset (linkDown s))

/-- PERST: PERST# or hot reset. -/
def execPerst (dt : Nat) (s : State) : Res :=
  let s := elapse dt s
  if dieOn s then .next (hostReset s) else .next s

/-- PF_FLR. -/
def execPfFlr (s : State) : Res := if dieOn s then .next (haltAll (functionsReset s)) else .next s

/-- The queues of function `f` are disabled. -/
def queuesOff (f : Nat) (s : State) : State :=
  (s.queues.filter (fun e => e.2.func == f)).foldl (fun s e => queueOff e.1 s) s

/-- MSI-X of function `f` returns to reset. -/
def msixReset (f : Nat) (s : State) : State :=
  { s with msixOn := mapSet false s.msixOn f false
           vecOpen := s.vecOpen.filter (fun e => e.1 / 256 != f)
           msixHeld := s.msixHeld.filter (fun e => e.1 != f) }

/-- Every live request of partition `p` (R189) is cancelled under R198, with the page effects that CANCEL has. -/
def cancelLive (p : Nat) (s : State) : State :=
  kvSettleNow p ((reqsOf s p).foldl (fun s i =>
    if reqLive s p i = true ∧ rqCompanion (reqGet s i) = false then reqStop p RQ_CANCELLED ST_CANCELLED i s else s) s)

/-- VF_FLR of VF n + 1, which serves partition n. -/
def execVfFlr (n : Fin 8) (s : State) : Res :=
  if dieOn s && s.power.vfEnabled then
    .next (haltSoon n.val (cancelLive n.val (msixReset (n.val + 1) (queuesOff (n.val + 1) s))))
  else .next s

/-! ### Violations (R329) -/

/-- PCIE_TLP_VIOLATION: the answer of its class, and the capture. -/
def execPcieTlpViolation (v : TlpViolation) (s : State) : Res :=
  let c := v.cls.toNat
  if !dieOn s || c == 0 || decide (8 < c) then .next s
  else
    let s := violation c v.func.toNat v.hdr0.toNat v.hdr1.toNat s
    .next (if c = 1 ∨ c = 2 ∨ c = 3 ∨ c = 6 then { s with out := .aer c :: s.out }
      else if c = 4 then answerUr s
      else if c = 5 then (if v.isRead then answerCa s else s)
      else if c = 8 then statInc NET_STAT_DB_BAD s
      else s)

/-- COMPLETION_TIMEOUT: a device read has waited 50 ms. With `ring` it was the read of a ring entry, and the queue stops; else
the command that the queue executes ends with ST_DMA_FAULT. -/
def execCompletionTimeout (dt : Nat) (q : BitVec 10) (ring : Bool) (s : State) : Res :=
  let s := elapse dt s
  let n := q.toNat
  if !qReady s n then .next s
  else
    let s := violationFree 0x07 (qGet s n).func s
    if ring then .next (queueStop n ST_QUEUE_ERROR s)
    else
      let tag := entryBytes (qEntry s n) 4 4
      let s := qTake n s
      .next (qSkip 65536 n
        (cqOrder n { typ := 1, status := ST_DMA_FAULT, tag := tag, value := 0, stamp := s.now, payload := 0 } s))

/-! ### BAR2 (R306, R307) -/

/-- A VF's access beyond its partition's windows (R307, R329 class 0x04, R375 type 0x09). -/
def vfBeyond (p : Nat) (off : Nat) (s : State) : State :=
  answerUr (violationFree 0x04 (p + 1) (rasLog { typ := 0x09, part := p, code := ST_BAR_WINDOW, data := off } s))

/-- BAR2_ACCESS, with errors that its reads will meet (R268). -/
def execBar2Access (f : Func) (off : BitVec 64) (acc : OutAcc) (s : State) : Res :=
  let o := off.toNat
  let n := accLen acc.acc
  if !dieOn s then .next s
  else
    match f with
    | .pf =>
      if pfBar2 s < o + n then .next (answerUr (violationFree 0x04 0 s))
      else if !dramOn s then .next (answerUr s)
      else .next (accGo none none [(pfBase s + o, n)] acc.acc (errsCome acc.errs s))
    | .vf k =>
      let p := k.val
      if !s.power.vfEnabled || vfGone s p then .next (answerUr s)
      else if vfBar2 s < o + n then .next (answerUr (violationFree 0x04 (p + 1) s))
      else if winTotal s p < o + n then .next (vfBeyond p o s)
      else if !dramOn s then .next (answerUr s)
      else .next (accGo none (some p) (winPieces (winsOf s p) o n) acc.acc (errsCome acc.errs s))

/-! ### MSI-X, VF Enable, PTM -/

/-- The messages held that may go now are sent. -/
def msixSend (s : State) : State :=
  let go := s.msixHeld.filter (fun e => mapGet false s.msixOn e.1 && mapGet false s.vecOpen (e.1 * 256 + e.2))
  let s := { s with msixHeld := s.msixHeld.filter (fun e => !go.contains e) }
  go.foldl (fun s e => { s with out := .msix e.1 e.2 :: s.out }) s

/-- MSI_X_ENABLE: the host enables MSI-X of a function and masks or unmasks a vector (R339, R346). -/
def execMsixEnable (f : Func) (en : Bool) (vec : BitVec 8) (masked : Bool) (s : State) : Res :=
  let n := funcNum f
  if !dieOn s || decide (funcVecs n ≤ vec.toNat) || (n != 0 && !s.power.vfEnabled) then .next s
  else
    .next (msixSend { s with msixOn := mapSet false s.msixOn n en
                             vecOpen := mapSet false s.vecOpen (n * 256 + vec.toNat) (!masked) })

/-- VF_ENABLE: the VFs come up with the BAR2 size then in force (R331), or go, with their queues (log 37). -/
def execVfEnable (en : Bool) (s : State) : Res :=
  if !dieOn s then .next s
  else if en then
    .next { s with power := { s.power with
      vfEnabled := true, vfBar2 := if s.power.vfEnabled then s.power.vfBar2 else fget s NET_CTRL_VF_BAR2 } }
  else
    let s := (tabulate (fun f => f) 8 1).foldl (fun s f => msixReset f (queuesOff f s)) s
    .next { s with power := { s.power with vfEnabled := false } }

/-- PTM_REQUEST: answered with device time at the link (R302). -/
def execPtmRequest (dt : Nat) (s : State) : Res :=
  let s := elapse dt s
  if dieOn s && fbit s NET_STATUS_HL_UP then .next { s with out := .ptm s.now :: s.out } else .next s

end Sys2Proof.Machine
end

