-- ==== Sys2Proof/Machine/Lanes.lean ====
section
/-!
DEFINITION. The checksum lanes of an engine (R148, R149): what they predict for a work item, and when an item passes.
-/
namespace Sys2Proof.Machine

/-- What the lanes predict of one sum (R149): of an integer pair the exact sum, else the sum and the magnitude sum beside it. -/
inductive LanePred where
  | int (n : Int)
  | fp (pred mag : FVal)
  deriving DecidableEq, Repr

/-- The values of a row of a float format, as `g` gives them. -/
def laneVals (g : FVal → FVal) (f : Nat) (x : Row) : List FVal := (rowVals f x.codes []).map g

/-- Lane by lane sums of rows of FP32 values, `k` lanes, each in an order that `pick` chooses. -/
def laneSums (pick : Nat → Nat) (k : Nat) (rows : List (List FVal)) : List FVal :=
  tabulate (fun i => treeSum fzero fadd (fun j => pick (i * 2 ^ 20 + j)) (rows.map (fun l => l.getD i fzero))) k 0

/-- The sum of the products of two rows of values. -/
def laneDot (pick : Nat → Nat) (xs ys : List FVal) : FVal := treeSum fzero fadd pick ((xs.zip ys).map (fun e => fmul e.1 e.2))

/-- The sum of the scaled block products of rows with columns, their elements as `g` gives them (R52). -/
def laneBlocks (g : Int → Int) (pick : Nat → Nat) (fa fb : Nat) (xs ys : List Row) : FVal :=
  treeSum fzero fadd pick (xs.flatMap (fun x => ys.flatMap (fun y => blockTerms g fa fb x y)))

/-- The exact sum of the products of rows with columns of an integer pair. -/
def laneInts (fa fb : Nat) (xs ys : List Row) : Int :=
  xs.foldl (fun n x => ys.foldl (fun n y => (dotInts fa fb x y).foldl (fun n e => n + e.1) n) n) 0

/-- The sum that the checksum cells predict over the outputs of rows `xs` with columns `ys`: one row against the columns of a weight
block in the checksum column, the rows of the item against one column in the checksum row (R148). -/
def lanePredict (n o fa fb : Nat) (xs ys : List Row) : LanePred :=
  let pick := pickAt n o
  let k := (xs.map (fun x => x.codes.length)).foldl max 0
  let float := fun (g : FVal → FVal) => laneDot (fun j => pick (2 ^ 44 + j))
    (laneSums pick k (xs.map (laneVals g fa))) (laneSums (fun j => pick (2 ^ 43 + j)) k (ys.map (laneVals g fb)))
  if fmtInt fa then .int (laneInts fa fb xs ys)
  else if fmtBlock fa then
    .fp (laneBlocks id pick fa fb xs ys) (laneBlocks (fun (z : Int) => z.natAbs) pick fa fb xs ys)
  else .fp (float id) (float FVal.magnitude)

/-- The row predictions of an item: each activation row against each weight block of 64 columns, block by block. -/
def rowPreds (n : Nat) (x : WorkItem) : List LanePred :=
  let bs := chunks blockSide x.ys
  ((bs.flatMap (fun b => x.xs.map (fun r => (r, b)))).zip (tabulate (fun i => i) (bs.length * x.xs.length) 0)).map
    (fun e => lanePredict n (2 ^ 61 + e.2 * 2 ^ 45) x.fa x.fb [e.1.1] e.1.2)

/-- The column predictions of an item. -/
def colPreds (n : Nat) (x : WorkItem) : List LanePred :=
  (x.ys.zip (tabulate (fun i => i) x.ys.length 0)).map (fun e => lanePredict n (2 ^ 62 + e.2 * 2 ^ 45) x.fa x.fb x.xs [e.1])

/-- The tolerance of a pair family of R151 as a value (R149). -/
def laneEps (fam : Nat) : FVal := if fam = 0 then fzero else if fam = 3 then .fin false 1 (-12) else .fin false 1 (-14)

/-- A comparison of an observed sum passes (R149). The lanes of an integer pair are 48 bits wide; a float sum stands in the low 32. -/
def laneOk (fam : Nat) (obs : BitVec 48) : LanePred → Bool
  | .int x => unsigned 48 x == obs.toNat
  | .fp x m =>
    let d := (addExact (val32 (obs.toNat % 2 ^ 32)) x.negate).magnitude
    let t := addExact (mulExact (laneEps fam) m.magnitude) (.fin false 1 (-119))
    !(t.lt d)

/-- An item passes: every one of its sums is compared, and every comparison passes (R148). Where R58 calls its weights
unpredictable, so is what the lanes find. -/
def itemPasses (n fam : Nat) (x : WorkItem) (rows cols : List (BitVec 48)) : Bool :=
  if x.bad.isEmpty then
    (rows.zip (rowPreds n x)).all (fun e => laneOk fam e.1 e.2) && (cols.zip (colPreds n x)).all (fun e => laneOk fam e.1 e.2)
  else Config.freeAt n (2 ^ 63) % 2 == 0

/-- The sums that an engine observes at the end of an item: one for each row of each weight block, and one for each column. -/
def itemCounts (x : WorkItem) (rows cols : List (BitVec 48)) : Bool :=
  rows.length == x.xs.length * ceilDiv x.ys.length blockSide && cols.length == x.ys.length

end Sys2Proof.Machine
end

