-- ==== Sys2Proof/Machine/SelOps.lean ====
section
/-!
DEFINITION. The registers that latch what a selector names: KV contexts (R191), request entries (R216), health windows
(R401), engines and hints (R248); and the entry range of a partition (R215).
-/
namespace Sys2Proof.Machine

/-- Some partition has its publish window open. -/
def windowOpen (s : State) : Bool := s.parts.any (fun e => e.2.pub.isSome)

/-- The partition whose range of the request table holds entry `r`. -/
def partOfReq (s : State) (r : Nat) : Option Nat := [0, 1, 2, 3, 4, 5, 6, 7].find? (fun p => reqInRange s p r)

/-- A context exists for the pair: that of a terminal entry until its last page is free (R498). -/
def ctxExists (s : State) (r h : Nat) : Bool :=
  match partOfReq s r with
  | none => false
  | some p =>
    let st := rqState (reqGet s r)
    (kvTensors s p).any (fun e => e.1 == h)
      && (st == RQ_ADMITTED || st == RQ_ACTIVE || st == RQ_PAUSED || (st != RQ_FREE && (ctxGet s r h).cstate != 0))

/-- The snapshot of the context that KV_CTX_SEL names. -/
def ctxLatch (s : State) : State :=
  let r := fget s KV_CTX_SEL_REQ
  let h := fget s KV_CTX_SEL_HANDLE
  let s := fset KV_CTX_SEL_DONE 1 (fset KV_STATUS_CTX_BUSY 0 s)
  if ctxExists s r h then
    let w := ctxWord (ctxGet s r h) r h
    fset KV_CTX_SEL_ERR 0 (regSet (KV_CTX_DATA 0) (w % 2 ^ 64) (regSet (KV_CTX_DATA 1) (w / 2 ^ 64) s))
  else fset KV_CTX_SEL_ERR 1 s

/-- The snapshot of the entry that SRV_REQ_SEL names. -/
def reqLatch (s : State) : State :=
  let e := reqGet s (fget s SRV_REQ_SEL_INDEX)
  let s := fset SRV_REQ_SEL_DONE 1 (fset SRV_STATUS_SEL_BUSY 0 s)
  if rqState e = RQ_FREE then fset SRV_REQ_SEL_ERR 1 s
  else
    ([e.w0, e.w1, e.w2, e.w3, e.w4, e.w5, e.w6, e.w7].zip [0, 1, 2, 3, 4, 5, 6, 7]).foldl
      (fun s x => regSet (SRV_REQ_DATA x.2) x.1.toNat s) (fset SRV_REQ_SEL_ERR 0 s)

/-- A publish window has ended: the snapshots that wait for the end of every window are taken (R191, R216). -/
def selBoundary (s : State) : State :=
  if windowOpen s then s
  else
    let s := if fbit s KV_STATUS_CTX_BUSY then ctxLatch s else s
    if fbit s SRV_STATUS_SEL_BUSY then reqLatch s else s

/-- A write of KV_CTX_SEL. -/
def ctxSelWrite (v : Nat) (s : State) : State :=
  let s := fset KV_CTX_SEL_REQ (fieldGet v 43 32) (fset KV_CTX_SEL_HANDLE (fieldGet v 31 0) s)
  if bitOf v 63 then selBoundary (fset KV_STATUS_CTX_BUSY 1 (fset KV_CTX_SEL_DONE 0 s)) else s

/-- A write of SRV_REQ_SEL. -/
def reqSelWrite (v : Nat) (s : State) : State :=
  let s := fset SRV_REQ_SEL_INDEX (fieldGet v 11 0) s
  if bitOf v 63 then selBoundary (fset SRV_STATUS_SEL_BUSY 1 (fset SRV_REQ_SEL_DONE 0 s)) else s

/-- The bit mask of the bins of a window's reports (bin, class, signature). -/
def winBins (l : List (Nat × Nat × Nat)) : Nat := l.foldl (fun m r => m ||| 2 ^ r.1) 0

/-- A write of RAS_ENG_SEL: with GO the health and the window of an engine, or of a core's adders, are latched. -/
def rasEngSelWrite (v : Nat) (s : State) : State :=
  let u := fieldGet v 7 0
  let core := fieldGet v 61 61
  let s := fset RAS_ENG_SEL_CORE core (fset RAS_ENG_SEL_UNIT u s)
  if bitOf v 63 then
    let h := if core = 0 then healthOf s u else { state := 0, limit := 0, excluded := 0 }
    let w := mapGet none s.windows (256 * core + u)
    let rs := (w.map (fun w => w.reports)).getD []
    let s := fset RAS_ENG_DATA_STATE h.state (fset RAS_ENG_DATA_LIMIT_BIN h.limit
      (fset RAS_ENG_DATA_EXCLUDED h.excluded s))
    let s := fset RAS_ENG_DATA_COUNT (min 15 rs.length) (fset RAS_ENG_DATA_BINS (winBins rs) s)
    fset RAS_ENG_SEL_DONE 1 (regSet RAS_ENG_WIN ((w.map (fun w => w.openedAt.toNat)).getD 0) s)
  else s

/-- The hot spot of an engine (R237). -/
def spotOfEngine (e : Nat) : Nat := e / 8

/-- A write of PLC_ENG_SEL: with GO the health and forecast of an engine are latched. -/
def plcEngSelWrite (v : Nat) (s : State) : State :=
  let e := fieldGet v 7 0
  let s := fset PLC_ENG_SEL_ENGINE e s
  if bitOf v 63 then
    let h := healthOf s e
    let s := fset PLC_ENG_DATA_STATE h.state (fset PLC_ENG_DATA_LIMIT_BIN h.limit
      (fset PLC_ENG_DATA_EXCLUDED h.excluded s))
    fset PLC_ENG_SEL_DONE 1 (fset PLC_ENG_DATA_HOTSPOT (spotOfEngine e)
      (fset PLC_ENG_DATA_FORECAST (fget s (THM_FC_PEAK (spotOfEngine e))) s))
  else s

/-- A write of PLC_HINT_SEL: with GO what the PLC holds of a handle's hint is latched. -/
def plcHintSelWrite (v : Nat) (s : State) : State :=
  let p := fieldGet v 42 40
  let h := fieldGet v 31 0
  let s := fset PLC_HINT_SEL_PART p (fset PLC_HINT_SEL_HANDLE h s)
  if bitOf v 63 then
    let s := fset PLC_HINT_SEL_DONE 1 s
    match mapGet none s.tensors h with
    | none => fset PLC_HINT_SEL_ERR 1 s
    | some t =>
      if t.part = p then
        fset PLC_HINT_SEL_ERR 0 (fset PLC_HINT_DATA_DECLINES (min 65535 t.declines) (fset PLC_HINT_DATA_REASON t.reason
          (fset PLC_HINT_DATA_LEVEL t.level (fset PLC_HINT_DATA_HINT t.hint s))))
      else fset PLC_HINT_SEL_ERR 1 s
  else s

/-- The ranges of two partitions share an entry of the request table. -/
def rangeClash (s : State) (p base count : Nat) : Bool :=
  [0, 1, 2, 3, 4, 5, 6, 7].any (fun q =>
    q != p && decide (0 < count ∧ 0 < fget s (SRV_PART_COUNT q) ∧ fget s (SRV_PART_BASE q) < base + count
      ∧ base < fget s (SRV_PART_BASE q) + fget s (SRV_PART_COUNT q)))

/-- A write of SRV_PARTp (R215). -/
def srvPartWrite (p v : Nat) (s : State) : State :=
  let base := fieldGet v 11 0
  let count := fieldGet v 28 16
  if base + count ≤ 4096 ∧ rangeClash s p base count = false
      ∧ (reqsOf s p).all (fun i => decide (base ≤ i ∧ i < base + count)) = true then
    journalReg (SRV_PART p) (srvSync p (fset (SRV_PART_BASE p) base (fset (SRV_PART_COUNT p) count s)))
  else fset SRV_STATUS_CFG_REJECT 1 s

end Sys2Proof.Machine
end

