-- ==== Sys2Proof/Machine/HealthOps.lean ====
section
/-!
DEFINITION. Health of engines and cores: reports and their windows, the health test and its actions (R376 to R384), and the
clearing of health and sensor records (R360, R384).
-/
namespace Sys2Proof.Machine

/-- An engine with no finding. -/
def healthFresh : Health := { state := 0, limit := 0, excluded := 0 }

/-- Engines in a health state. -/
def healthCount (s : State) (st : Nat) : Nat := (s.health.filter (fun e => e.2.state == st)).length

/-- GEN_AVAIL's engine counts follow the health states; a change of them raises EV_CAPACITY_CHANGE (R37). -/
def healthShow (s : State) : State :=
  if fget s GEN_AVAIL_RETIRED = healthCount s 2 ∧ fget s GEN_AVAIL_COOL_ONLY = healthCount s 1 then s
  else availChanged (fset GEN_AVAIL_RETIRED (healthCount s 2) (fset GEN_AVAIL_COOL_ONLY (healthCount s 1) s))

/-- Sets the health of engine `e`. -/
def healthPut (e : Nat) (h : Health) (s : State) : State := { s with health := mapSet healthFresh s.health e h }

/-- Ruling temperature of hot spot `h`, signed, in 1/16 °C (R359). -/
def rulingOf (s : State) (h : Nat) : Int := signed 16 (fget s (THM_HS_RULING h))

/-- The temperature bin of core `c` now (R376, R237). -/
def coreBin (s : State) (c : Nat) : Nat := tempBin (rulingOf s (c / 2))

/-- The load signature of R377. -/
def loadSig (s : State) (busy hread : Nat) : Nat := (aclk s - 100) / 50 * 256 + busy * 64 + hread * 16

/-- All reports agree in `f`. -/
def allSame (f : Nat × Nat × Nat → Nat) : List (Nat × Nat × Nat) → Bool
  | [] => true
  | r :: rs => rs.all (fun x => f x == f r)

/-- The health that the test of R382 gives an engine for the reports (bin, class, signature). A retired engine stays
retired, and limits and exclusions only tighten (R384). -/
def healthTest (h : Health) (rs : List (Nat × Nat × Nat)) : Health :=
  if h.state = 2 then h
  else if allSame (fun r => r.1) rs then
    match rs with
    | [] => h
    | r :: _ =>
      if r.1 = 0 then { h with state := 2 }
      else { h with state := 1, limit := if h.state = 1 then min h.limit (r.1 - 1) else r.1 - 1 }
  else if allSame (fun r => r.2.1) rs || allSame (fun r => r.2.2) rs then
    { h with excluded := rs.foldl (fun m r => m ||| 2 ^ r.2.1) h.excluded }
  else { h with state := 2 }

/-- DATA of a TYPE 0x0A record (R378). -/
def healthData (h : Health) : Nat := h.state * 2 ^ 38 + h.limit * 2 ^ 35 + h.excluded % 2 ^ 32

/-- What STAT counters say of a change from `a` to `b`. -/
def healthStat (a b : Health) (s : State) : State :=
  let s := if b.state = 2 ∧ a.state ≠ 2 then statInc RAS_STAT_RETIRED s else s
  let s := if b.state = 1 ∧ b.excluded = a.excluded then statInc RAS_STAT_COOL_ONLY s else s
  let n := popCount 32 b.excluded - popCount 32 a.excluded
  if n = 0 then s else statAdd RAS_STAT_EXCLUDED n s

/-- Instructions that run keep their list; their retries skip an engine whose health has changed (R383). -/
def engineSkip (e : Nat) (s : State) : State :=
  { s with parts := s.parts.map (fun x => (x.1, { x.2 with
      act := x.2.act.map (fun a => (a.1, a.2.map (fun b => { b with skip := e :: b.skip }))) })) }

/-- A health action on engines `es`, journalled under `key`, with its record (R383). Without RAS_CTRL.AUTO the action is only
logged, with CHARGED set. -/
def healthAct (p key : Nat) (es : List Nat) (engine unit : Nat) (new : Nat → Health) (s : State) : State :=
  let h := (es.head?.map new).getD healthFresh
  let info : RasInfo := { typ := 0x0A, part := p, engine := engine, unit := unit, tbin := coreBin s unit, data := healthData h }
  if fbit s RAS_CTRL_AUTO then
    let s := journal 0x04 key false [h.state, h.limit, h.excluded] s
    let s := es.foldl (fun s e => engineSkip e (healthPut e (new e) (healthStat (healthOf s e) (new e) s))) s
    let s := healthShow (rasLog info s)
    raise .engineHealth key (fset RAS_STATUS_HEALTH_CHANGE 1 s)
  else rasLog { info with charged := true } s

/-- The health test of a window (R382): of an engine, or of core `key - 256`, whose four engines every pattern retires. -/
def healthRun (p key : Nat) (rs : List (Nat × Nat × Nat)) (s : State) : State :=
  if key < 256 then
    let h := healthTest (healthOf s key) rs
    healthAct p key [key] key (key / 4) (fun _ => h) s
  else
    let c := key - 256
    let old := s
    healthAct p key (tabulate (fun e => e) 4 (4 * c)) 0xFF c (fun e => { healthOf old e with state := 2 }) s

/-- A charged report enters its window (R381). The holder of the helm keeps the windows; while the latch is FREE nobody counts
(R25). -/
def windowCharge (p key : Nat) (r : Nat × Nat × Nat) (s : State) : State :=
  if !helmHeld s then s
  else
  let w := match mapGet none s.windows key with
    | some w => if since s w.openedAt ≤ fget s RAS_CTRL_WINDOW_S * 1000000000 then
          { w with reports := w.reports ++ [r] } else { openedAt := s.now, reports := [r] }
    | none => { openedAt := s.now, reports := [r] }
  if fget s RAS_CTRL_THRESH ≤ w.reports.length then
    healthRun p key w.reports { s with windows := mapSet none s.windows key none }
  else { s with windows := mapSet none s.windows key (some w) }

/-- A failure of engine `e` is a charged report: not so for a cool-only engine, placed from the fallback list, in a bin above its
limit bin (R380). -/
def engineCharged (s : State) (e bin : Nat) (cool : Bool) : Bool :=
  !(cool && (healthOf s e).state == 1 && decide ((healthOf s e).limit < bin))

/-- A TYPE 0x01 report (R375, R380). -/
def itemReport (p e cls : Nat) (cool : Bool) (i : CheckItem) (s : State) : State :=
  let bin := coreBin s (e / 4)
  let sig := loadSig s i.busy.toNat i.hread.toNat
  let ch := engineCharged s e bin cool
  let s := statInc RAS_STAT_ITEM_FAIL (rasLog
    { typ := 0x01, part := p, engine := e, unit := e / 4, tbin := bin, opclass := cls, sig := sig, charged := ch } s)
  if ch then windowCharge p e (bin, cls, sig) s else s

/-- A TYPE 0x02 report: three attempts have failed (R150). -/
def unresolvedReport (p e cls : Nat) (i : CheckItem) (s : State) : State :=
  let s := rasLog { typ := 0x02, part := p, engine := e, unit := e / 4, tbin := coreBin s (e / 4), opclass := cls
                    sig := loadSig s i.busy.toNat i.hread.toNat } s
  raise .checksumUnresolved p (fset RAS_STATUS_UNRESOLVED 1 (statInc RAS_STAT_UNRESOLVED s))

/-- A TYPE 0x03 report: the combining adders of core `c` disagreed (R152). -/
def adderReport (p c cls : Nat) (i : CheckItem) (s : State) : State :=
  let bin := coreBin s c
  let sig := loadSig s i.busy.toNat i.hread.toNat
  let s := statInc RAS_STAT_ADDER (rasLog
    { typ := 0x03, part := p, engine := 0xFF, unit := c, tbin := bin, opclass := cls, sig := sig, charged := true } s)
  windowCharge p (256 + c) (bin, cls, sig) s

/-- Of a list, the engine that R150 gives a retry: one in a core that no earlier attempt used where one exists, else one that no
earlier attempt used. -/
def retryPick (list used : List Nat) : Option Nat :=
  match list.find? (fun x => used.all (fun u => x / 4 != u / 4)) with
  | some x => some x
  | none => list.find? (fun x => !used.contains x)

/-- The engine of a retry of an item of `a`, and whether a fallback list gave it (R150, R238): from the instruction's list without
the engines whose health has changed (R383); with none left there, from the list that the PLC would form now (log 39). -/
def retryOf (s : State) (p cls : Nat) (a : Active) (used : List Nat) : Option (Nat × Bool) :=
  let keep := fun (l : List Nat) => l.filter (fun e => !a.skip.contains e)
  let now := engineSets s p cls
  match retryPick (keep a.engines) used with
  | some e => some (e, a.cool)
  | none =>
    match retryPick (keep now.1) used with
    | some e => some (e, false)
    | none => (retryPick (keep now.2) used).map (fun e => (e, true))

/-- A write of RAS_ENG_CLR (R384). -/
def rasEngClrWrite (v : Nat) (s : State) : State :=
  let e := fieldGet v 7 0
  if !bitOf v 31 then s
  else if mode s == MODE_MAINT && bitOf s.bist.passedLogic (e / 32) then
    healthShow (healthPut e healthFresh (journal 0x04 e false [0, 0, 0] s))
  else fset RAS_STATUS_CFG_REJECT 1 s

/-- The journal's record of the sensor marks of hot spot `h` (R359). -/
def journalSpot (h : Nat) (s : State) : State :=
  journal 0x06 h false [fget s (THM_HS_DIODE_SUSPECT h), fget s (THM_HS_RING_SUSPECT h), fget s (THM_HS_BOTH_BAD h)] s

/-- A write of THM_SENSOR_CLR: accepted only in MAINT once the sensors of the hot spot's cluster have passed calibration
(R360). -/
def sensorClrWrite (v : Nat) (s : State) : State :=
  let h := fieldGet v 4 0
  if bitOf v 31 && mode s == MODE_MAINT && bitOf s.bist.passedCalib (h / 4) then
    journalSpot h (fset (THM_HS_DIODE_SUSPECT h) 0 (fset (THM_HS_RING_SUSPECT h) 0 (fset (THM_HS_BOTH_BAD h) 0 s)))
  else s

end Sys2Proof.Machine
end

