-- ==== Sys2Proof/Machine/LogOps.lean ====
section
/-!
DEFINITION. The input log: records in their ring and in LU 3 (R465, R466), and LOG frames to the peers (R467).
-/
namespace Sys2Proof.Machine

/-- Bytes of a record in the ring and in LU 3. -/
def logSize (r : LogRec) : Nat := 64 + r.data.length

/-- The header bytes [59:0] of a record. -/
def logHead (r : LogRec) : List Byte :=
  leBytes 8 r.lsn.toNat ++ leBytes 8 r.origin.toNat ++ leBytes 8 r.stamp.toNat ++ leBytes 1 r.kind.toNat
    ++ leBytes 1 r.part.toNat ++ leBytes 2 r.req.toNat ++ leBytes 4 r.data.length ++ leBytes 8 r.step.toNat
    ++ List.replicate 20 0

/-- A record with its CRC (R465). -/
def logCrc (r : LogRec) : Nat := crc32c (logHead r ++ r.data)

/-- The bytes of a record. -/
def logBytes (r : LogRec) : List Byte := logHead r ++ leBytes 4 r.crc.toNat ++ r.data

/-- Bytes of a list of records. -/
def logTotal (l : List LogRec) : Nat := l.foldl (fun n r => n + logSize r) 0

/-- The records that must leave a store of `cap` bytes, oldest first, and those that stay. -/
def logTrim (cap : Nat) : List LogRec → List LogRec × List LogRec
  | [] => ([], [])
  | r :: rs =>
    if logTotal (r :: rs) ≤ cap then ([], r :: rs)
    else
      let x := logTrim cap rs
      (r :: x.1, x.2)

/-- Changes the helm's record. -/
def updHelm (f : HelmSt → HelmSt) (s : State) : State := { s with helm := f s.helm }

/-- Bytes of the ring (R465) and of LU 3 (R425). -/
def logRing (s : State) : Nat := s.helm.ringGib * 2 ^ 30
def lu3Bytes : Nat := 64 * 2 ^ 30

/-- A record lies within the retention (R466). -/
def logYoung (s : State) (r : LogRec) : Bool := decide (since s r.stamp ≤ fget s HLM_LOG_CTRL_RETAIN_S * 1000000000)

/-- Records written to LU 3; where it is full the oldest are overwritten, which leaves the log short where one of them lies within the
retention (R466). -/
def spill (rs : List LogRec) (s : State) : State :=
  if rs.isEmpty then s
  else
    let x := logTrim lu3Bytes (s.helm.lu3 ++ rs)
    let s := updHelm (fun h => { h with lu3 := x.2 }) s
    if !x.1.any (logYoung s) then s
    else raise .logShort 0 (fset HLM_LOG_STATUS_SHORT 1 s)

/-- This module's identity as ORIGIN (R465). -/
def moduleId (s : State) : BitVec 64 := BitVec.ofNat 64 (regGet s HLM_MODULE_ID)

/-- The oldest local record held is shown in HLM_LOG_OLDEST. -/
def logShow (s : State) : State :=
  let own := (s.helm.lu3 ++ s.helm.log).find? (fun r => r.origin == moduleId s)
  fset HLM_LOG_OLDEST_LSN ((own.map (fun r => r.lsn.toNat)).getD 0) s

/-- A record enters the ring (R465, R466). -/
def logStore (r : LogRec) (s : State) : State :=
  let wt := fbit s HLM_LOG_CTRL_WRITE_THROUGH
  let x := logTrim (logRing s) (s.helm.log ++ [r])
  let s := updHelm (fun h => { h with log := x.2 }) s
  let s := if wt then spill [r] s else spill x.1 s
  logShow s

/-- The frame of a Roll-call type with its EtherType, VERSION, TYPE and LENGTH (R459); `body` is the payload after byte 3.
LENGTH is taken as the bytes of the whole payload (log 31). -/
def rollFrame (typ : Nat) (body : List Byte) : List Byte :=
  [0x88, 0xB5] ++ leBytes 1 1 ++ leBytes 1 typ ++ leBytes 2 (4 + body.length) ++ body

/-- The fragments of a record as (offset, bytes), up to 9000 bytes each (R459). -/
def logFrags (bs : List Byte) : List (Nat × List Byte) :=
  let cs := chunks 9000 bs
  (cs.zip (tabulate (fun i => i) cs.length 0)).map (fun c => (9000 * c.2, c.1))

/-- Sends a record as LOG frames to a port and address. -/
def logSendTo (port : Nat) (mac : BitVec 48) (r : LogRec) (s : State) : State :=
  let bs := logBytes r
  (logFrags bs).foldl (fun s f =>
    sendFrame .rollcall port mac (rollFrame 5 (leBytes 8 r.lsn.toNat ++ leBytes 8 r.origin.toNat ++ leBytes 4 f.1
      ++ leBytes 4 bs.length ++ f.2)) s) s

/-- Sends a record to peer `n`. -/
def logSend (n : Nat) (r : LogRec) (s : State) : State :=
  logSendTo (fget s (HLM_LOG_PEER_PORT n)) (BitVec.ofNat 48 (fget s (HLM_LOG_PEER_MAC n))) r s

/-- The LAG bit of peer `n`. -/
def logLag (n : Nat) : Fld := if n = 0 then HLM_LOG_STATUS_PEER0_LAG else HLM_LOG_STATUS_PEER1_LAG

/-- A local record for its kind, partition, request and payload: it takes the next LSN, enters the ring, and goes to the
peers enabled; to one that lags, sending resumes when it answers (R465, R467). -/
def logAdd (kind part req : Nat) (data : List Byte) (s : State) : State :=
  let lsn := fget s HLM_LOG_STATUS_LSN + 1
  let r : LogRec :=
    { lsn := BitVec.ofNat 64 lsn, origin := moduleId s, stamp := s.now, kind := BitVec.ofNat 8 kind
      part := BitVec.ofNat 8 part, req := BitVec.ofNat 16 req, step := BitVec.ofNat 64 (fget s HLM_STEP_STEPS)
      data := data, crc := 0 }
  let r := { r with crc := BitVec.ofNat 32 (logCrc r) }
  let s := logStore r (fset HLM_LOG_STATUS_LSN lsn s)
  [0, 1].foldl (fun s n =>
    if fbit s (HLM_LOG_PEER_EN n) ∧ helmHeld s = true then
      let s := updHelm (fun h => { h with
        peers := mapUpd [] h.peers n (fun l => l ++ [{ lsn := lsn, firstAt := s.now, sentAt := s.now }]) }) s
      if fbit s (logLag n) then s else logSend n r s
    else s) s

/-- Partition `p` is logged. -/
def logged (s : State) (p : Nat) : Bool := bitOf (fget s HLM_LOG_CTRL_LOG_MASK) p

/-- The frame record of a codec slot of partition `p` is logged, its 32 bytes (R465). -/
def frameMark (p word : Nat) (s : State) : State :=
  if logged s p && fbit s HLM_LOG_CTRL_FRAMES then logAdd 2 p 0 (leBytes 32 word) s else s

/-- A sensor group of partition `p` is logged, the bytes of its tensor (R465). -/
def groupMark (p : Nat) (bs : List Byte) (s : State) : State :=
  if logged s p && fbit s HLM_LOG_CTRL_SENSORS then logAdd 3 p 0 bs s else s

/-- A step mark of partition `p` (R465), where it is logged. -/
def stepMark (p : Nat) (s : State) : State := if logged s p then logAdd 4 p 0 [] s else s

end Sys2Proof.Machine
end

