-- ==== Sys2Proof/Machine/HelmOps.lean ====
section
/-!
DEFINITION. The helm latch and the Stewards (R450 to R452), the fence and membership (R461 to R464, R468), and the duty
pair (R454 to R458).
-/
namespace Sys2Proof.Machine

/-! ### Stewards and the latch -/

/-- The code of a Steward in HLM_HELM.STATE. -/
def stewCode : Steward → Nat
  | .n => 1
  | .s => 2

/-- The other Steward. -/
def stewOther : Steward → Steward
  | .n => .s
  | .s => .n

/-- A Steward as the latch sees it. -/
def stewGet (s : State) : Steward → StewSt
  | .n => s.helm.n
  | .s => s.helm.s

/-- Changes a Steward. -/
def stewUpd (st : Steward) (f : StewSt → StewSt) (s : State) : State :=
  updHelm (fun h => match st with
    | .n => { h with n := f h.n }
    | .s => { h with s := f h.s }) s

def stewHeld : Steward → Fld
  | .n => HLM_HELM_N_HELD
  | .s => HLM_HELM_S_HELD

def stewMirror : Steward → Fld
  | .n => HLM_HELM_N_MIRROR_OK
  | .s => HLM_HELM_S_MIRROR_OK

/-- The Steward holds the helm. -/
def holds (s : State) (st : Steward) : Bool := fget s HLM_HELM_STATE == stewCode st

/-- Contests that a Steward lost in the last 10 s. -/
def recentContests (s : State) (st : Steward) : Nat :=
  ((stewGet s st).contests.filter (fun t => decide (since s t ≤ 10000000000))).length

/-- A Steward runs and does not hold the helm. -/
def follows (s : State) (st : Steward) : Bool := (stewGet s st).up && !holds s st

/-- HLM_HELM and HLM_STATUS show the contests and whether a Steward follows. -/
def helmShow (s : State) : State :=
  fset HLM_STATUS_NO_FOLLOWER (b2n (!follows s .n && !follows s .s))
    (fset HLM_HELM_N_CONTESTS (min 255 (recentContests s .n)) (fset HLM_HELM_S_CONTESTS (min 255 (recentContests s .s)) s))

/-- The latch takes STATE `v`. Sources routed to the helm's holder move with it, and their context notifies (R338, R339). -/
def latchPut (v : Nat) (s : State) : State := edcUpdate (edcElig s) (helmShow (fset HLM_HELM_STATE v s))

/-- The latch becomes FREE. -/
def helmFree (s : State) : State :=
  if helmHeld s then
    latchPut 0 (updHelm (fun h => { h with freeSince := some s.now, last := fget s HLM_HELM_STATE }) s)
  else s

/-- The marks that the pause policy sets: 1 pauses a request and 2 resumes it (R211). -/
def policyMark (m : Nat) : Nat := if m = 1 ∨ m = 2 then m else 0

/-- The state of the helm's holder that the follower mirrors at a boundary (R25, R226). -/
def mirrorOf (s : State) : HelmMirror :=
  { windows := s.windows
    marks := s.reqs.foldl (fun m e => mapSet 0 m e.1 (policyMark e.2.mark)) []
    calm := s.parts.foldl (fun m e => mapSet 0 m e.1 e.2.calm) []
    plans := s.parts.foldl (fun m e => mapSet none m e.1 (some { limit := e.2.limit, slots := e.2.slots + e.2.deferred, est := e.2.est })) [] }

/-- The follower's mirror is updated. -/
def mirrorTake (s : State) : State := updHelm (fun h => { h with mirror := mirrorOf s }) s

/-- A Steward that was follower goes on from its mirror: what changed since is lost, health windows, marks of the pause
policy and the count of calm boundaries. Of a plan, the slots deferred since stay deferred, as TK_PARTp shows (R452; log 29). -/
def mirrorUse (s : State) : State :=
  let m := s.helm.mirror
  let lost := fun (i : Nat) (e : ReqEnt) => policyMark e.mark != 0 && policyMark e.mark != mapGet 0 m.marks i
  { s with
    windows := m.windows
    reqs := s.reqs.map (fun e => (e.1, { e.2 with mark := if lost e.1 e.2 then mapGet 0 m.marks e.1 else e.2.mark }))
    parts := s.parts.map (fun e => (e.1, match mapGet none m.plans e.1 with
      | none => e.2
      | some x => { e.2 with calm := mapGet 0 m.calm e.1, limit := x.limit, slots := x.slots - e.2.deferred, est := x.est })) }

/-- A Steward stops: held in reset, under test, or reloaded. A holder that resets frees the latch at once (R450). -/
def stewDown (st : Steward) (s : State) : State :=
  let s := fset (stewMirror st) 0 (stewUpd st (fun x => { x with up := false }) s)
  helmShow (if holds s st then helmFree s else s)

/-- A Steward starts, as follower until it takes the helm. One that Lantern holds in reset stays there (R451). -/
def stewUp (st : Steward) (s : State) : State :=
  if fbit s (stewHeld st) then s else helmShow (stewUpd st (fun x => { x with up := true, beat := s.now }) s)

/-- Every held STEP is offered admission. -/
def offerAll (s : State) : State := [0, 1, 2, 3, 4, 5, 6, 7].foldl (fun s p => offerGo p s) s

/-- A Steward takes the helm. One that was follower goes on from its mirror (R452). It offers admission at once under the plan in
force. -/
def helmTake (st : Steward) (s : State) : State :=
  let s := if s.helm.last != 0 && s.helm.last != stewCode st then mirrorUse s else s
  let s := stewUpd st (fun x => { x with beat := s.now }) (updHelm (fun h => { h with freeSince := none }) s)
  offerAll (dutySync (latchPut (stewCode st) s))

/-- The helm moves from its holder to the other Steward in one cycle. -/
def helmMove (st : Steward) (s : State) : State :=
  dutySync (latchPut (stewCode st) (stewUpd st (fun x => { x with beat := s.now }) s))

/-- The holder's beat is older than HELM_TIMEOUT_MS. -/
def beatLate (s : State) : Bool :=
  let st := if holds s .n then Steward.n else Steward.s
  helmHeld s && decide (fget s HLM_CTRL_HELM_TIMEOUT_MS * 1000000 < since s (stewGet s st).beat)

/-- The latch becomes FREE on a lapsed beat. -/
def helmLapse (s : State) : State := raise .helmLapse 0 (fset HLM_STATUS_LAPSE 1 (helmFree s))

/-- A claim is refused: a contest against the claimant, who is held in reset at the third within 10 s (R450, R451). -/
def contest (st : Steward) (s : State) : State :=
  let s := stewUpd st (fun x => { x with
    contests := x.contests.filter (fun t => decide (since s t ≤ 10000000000)) ++ [s.now] }) s
  let s := raise .helmContest (stewCode st) (statInc HLM_STAT_CONTEST (fset HLM_STATUS_CONTEST 1 (helmShow s)))
  if 3 ≤ recentContests s st then raise .followerHeld (stewCode st) (stewDown st (fset (stewHeld st) 1 s)) else s

/-- A Steward claims the helm. -/
def helmClaim (st : Steward) (s : State) : State :=
  if !(stewGet s st).up || fbit s (stewHeld st) || holds s st then s
  else if helmHeld s then contest st s
  else helmTake st s

/-- A write of HLM_CTRL.RESTART_FOLLOWER: a Steward held in reset starts again as follower (R451). -/
def restartFollower (s : State) : State :=
  [Steward.n, Steward.s].foldl (fun s st =>
    if fbit s (stewHeld st) then
      stewUp st (fset (stewHeld st) 0 (stewUpd st (fun x => { x with contests := [] })
        { s with fw := match st with
          | .n => { s.fw with imgN := s.fw.running }
          | .s => { s.fw with imgS := s.fw.running } }))
    else s) s

/-! ### Journal records of the HLM block (R471) -/

/-- The record of TYPE 0x0F for a KEY; the managers' keys are journalled in wrapped form. -/
def journalHlm (key : Nat) (s : State) : State :=
  let mgrs := (tabulate (fun m => regGet s (HLM_MGR m)) 7 0)
    ++ tabulate (fun m => match mapGet none s.helm.keys m with
      | none => 0
      | some k => Config.keyWrap k.toNat) 7 0
  journal 0x0F key false
    (if key = 0 then [regGet s HLM_DUTY]
     else if key = 1 then [regGet s HLM_MEMBER, fget s HLM_JOB_JOB_EPOCH]
     else if key = 2 then [fget s HLM_QUORUM_FENCED, fget s HLM_QUORUM_EXPELLED, fget s HLM_QUORUM_FENCE_EPOCH]
     else if key = 3 then fget s HLM_QUORUM_Q :: mgrs
     else [regGet s HLM_LOG_CTRL, regGet s (HLM_LOG_PEER 0), regGet s (HLM_LOG_PEER 1)]) s

/-! ### Fence and membership (R463, R468) -/

/-- Flask is powered in this state (R31); in SAFE until the flush is complete. -/
def flaskOn (s : State) : Bool :=
  let m := mode s
  m == MODE_BOOT || m == MODE_READY || m == MODE_RUN || m == MODE_MAINT || m == MODE_FENCED || m == MODE_RECOVERY
    || (m == MODE_SAFE && s.power.flushBy.isSome)

/-- The fence latch sets (R463): EV_FENCED with its records, DUTY_OUT falls, and FENCED is entered where no step is open.
While Flask is off, or RECOVERY runs the ROM alone, the record waits for BOOT. -/
def fenceSet (s : State) : State :=
  let was := fbit s HLM_QUORUM_FENCED
  let s := dutySync (fset HLM_QUORUM_FENCED 1 (fset HLM_STATUS_FENCE_SEEN 1 s))
  let s := if flaskOn s && mode s != MODE_RECOVERY then journal 0x02 0 false [fget s HLM_QUORUM_FENCE_EPOCH] s
    else updHelm (fun h => { h with fenceHeld := true }) s
  let s := if was then s else postEventAll .fenced 0 (raise .fenced 0 s)
  fenceEntry s

/-- An accepted command acts (R463). -/
def commandAct (cmd : Nat) (s : State) : State :=
  if cmd = 1 then fenceSet (fset HLM_QUORUM_EXPELLED 0 s)
  else if cmd = 2 then fenceSet (journalHlm 1 (fset HLM_MEMBER_MEMBER 0 (fset HLM_QUORUM_EXPELLED 1 s)))
  else updHelm (fun h => { h with joinPending := true }) s

/-- At a tick boundary with no step open, an accepted JOIN takes MEMBER and clears the fence latch; FENCED is left for READY
(R468). -/
def joinBoundary (s : State) : State :=
  if s.helm.joinPending && !anyStepOpen s && decide (2 < mode s) && mode s != MODE_SAFE && mode s != MODE_RECOVERY then
    let s := updHelm (fun h => { h with joinPending := false }) s
    let s := fset HLM_MEMBER_MEMBER 1 (fset HLM_QUORUM_FENCED 0 (fset HLM_QUORUM_EXPELLED 0 s))
    let s := journal 0x02 0 true [] (journalHlm 2 (journalHlm 1 s))
    let s := if mode s = MODE_FENCED then setMode MODE_READY s else dutySync s
    raise .join 0 s
  else s

/-! ### Votes (R461, R462) -/

/-- The 32 payload bytes of a VOTE that AUTH covers (R459). `fill` holds [31:20] in its upper 96 bits and [7:6] below. -/
def votePayload (v : RcVote) : List Byte :=
  [0x01, 0x03] ++ leBytes 2 48 ++ leBytes 1 v.mgr.toNat ++ leBytes 1 v.cmd.toNat ++ leBytes 2 (v.fill.toNat % 65536)
    ++ leBytes 8 v.target.toNat ++ leBytes 4 v.epoch.toNat ++ leBytes 12 (v.fill.toNat / 65536)

/-- AUTH is right under the manager's key. -/
def voteAuth (s : State) (v : RcVote) : Bool :=
  match mapGet none s.helm.keys v.mgr.toNat with
  | none => false
  | some k => ofLe ((hmac256 (leBytes 32 k.toNat) (votePayload v)).take 16) == v.auth.toNat

/-- The VOTE is refused (R461); an unknown CMD is refused too (log 41). -/
def voteRefused (s : State) (v : RcVote) : Bool :=
  decide (6 < v.mgr.toNat) || !fbit s (HLM_MGR_EN v.mgr.toNat) || v.target != moduleId s
    || v.epoch.toNat != fget s HLM_QUORUM_FENCE_EPOCH || v.cmd == 0 || decide (3 < v.cmd.toNat) || !voteAuth s v

/-- HLM_QUORUM.OPEN shows the votes of the open windows. -/
def voteShow (s : State) : State :=
  fset HLM_QUORUM_OPEN (s.helm.windows.foldl (fun m e => match e.2 with
    | some w => m ||| w.mgrs
    | none => m) 0) s

/-- The window of a CMD, if one is open. -/
def voteWin (s : State) (cmd : Nat) : Option VoteWin :=
  match mapGet none s.helm.windows cmd with
  | none => none
  | some w => if since s w.openedAt < 2000000000 then some w else none

/-- A VOTE is counted; answers RESULT and the votes counted (R462). -/
def voteCount (v : RcVote) (s : State) : Nat × Nat × State :=
  let cmd := v.cmd.toNat
  let w := (voteWin s cmd).getD { openedAt := s.now, mgrs := 0 }
  if voteRefused s v then (2, popCount 7 ((voteWin s cmd).map VoteWin.mgrs |>.getD 0), statInc HLM_STAT_VOTE_BAD s)
  else if bitOf w.mgrs v.mgr.toNat then (1, popCount 7 w.mgrs, s)
  else
    let w := { w with mgrs := setBit w.mgrs v.mgr.toNat true }
    let n := popCount 7 w.mgrs
    let s := statInc HLM_STAT_VOTE_OK s
    if fget s HLM_QUORUM_Q ≤ n then
      let s := voteShow (updHelm (fun h => { h with windows := [] }) s)
      let s := fset HLM_QUORUM_FENCE_EPOCH (fget s HLM_QUORUM_FENCE_EPOCH + 1) s
      let s := commandAct cmd s
      (3, n, journalHlm 2 s)
    else (0, n, voteShow (updHelm (fun h => { h with windows := mapSet none h.windows cmd (some w) }) s))

/-! ### Roll-call (R459, R460) -/

/-- The HEALTH word (R460). -/
def healthWord (s : State) : Nat :=
  mode s * 2 ^ 28 + fget s HLM_HELM_STATE * 2 ^ 26
    + b2n ((follows s .n && fbit s HLM_HELM_N_MIRROR_OK) || (follows s .s && fbit s HLM_HELM_S_MIRROR_OK)) * 2 ^ 25
    + fget s HLM_DUTY_ROLE * 2 ^ 24 + fget s HLM_DUTY_DUTY_OUT * 2 ^ 23 + fget s HLM_DUTY_GRANT * 2 ^ 22
    + fget s HLM_QUORUM_FENCED * 2 ^ 21 + fget s HLM_MEMBER_MEMBER * 2 ^ 20 + b2n s.helm.holdInForce * 2 ^ 19
    + fget s THM_STATUS_THROTTLED * 2 ^ 18 + fget s THM_FLOW_STATUS_FLOW_LOST * 2 ^ 17
    + fget s HLM_LOG_STATUS_SHORT * 2 ^ 16 + fget s GEN_AVAIL_CLUSTERS_OK * 2 ^ 8 + fget s GEN_AVAIL_STACKS_OK * 2 ^ 2
    + b2n (!helmHeld s || !s.helm.seqDone) * 2

/-- Sends a Roll-call frame back to where one came from, on the same VLAN. -/
def rollSend (port typ : Nat) (mac : BitVec 48) (vlan : Option (BitVec 12)) (body : List Byte) (s : State) : State :=
  let tag := match vlan with
    | none => []
    | some v => [0x81, 0x00] ++ beBytes 2 v.toNat
  sendFrame .rollcall port mac (tag ++ rollFrame typ body) s

/-- A Roll-call frame is dropped and counted. -/
def rollDrop (s : State) : State := statInc HLM_STAT_FRAME_BAD s

/-- The port takes Roll-call frames now (R324, R459). -/
def rollOn (s : State) (port : Nat) : Bool := mode s != MODE_OFF && portUp s port && (!portZeroOnly s || port == 0)

/-! ### The duty pair (R455 to R458) -/

/-- Take-over completes (R458): a standby that has reached READY holds the grant and has its partner's log. -/
def dutyTakeover (s : State) : State :=
  if s.helm.takeover.isSome && fbit s HLM_DUTY_ROLE && fbit s HLM_DUTY_GRANT && (mode s == MODE_READY || mode s == MODE_RUN)
  then raise .dutyActive 0 (fset HLM_DUTY_ACTIVE 1 (updHelm (fun h => { h with takeover := none }) s))
  else s

/-- A level of DUTY_IN or DUTY_GRANT that stood shorter than 10 µs is a glitch (R457). -/
def dutyGlitch (stood : Nat) : Bool := decide (stood < 10000)

/-- The filtered grant changes (R456). -/
def grantSet (level : Bool) (s : State) : State :=
  if fbit s HLM_DUTY_GRANT = level then s
  else
    let s := raise .dutyChange (b2n level) (dutySync (fset HLM_DUTY_GRANT (b2n level) s))
    (tabulate (fun p => p) 8 0).foldl (fun s p =>
      if bitOf (fget s HLM_DUTY_SVC_MASK) p then postEvent p .dutyChange 0xFFF (b2n level) s else s) s

end Sys2Proof.Machine
end

