-- ==== Sys2Proof/Machine/ClockOps.lean ====
section
/-!
DEFINITION. ACLK and the power governor (R351, R357, R358), entry to SAFE (R365, R367, R478), and self-test (R393 to R398).
-/
namespace Sys2Proof.Machine

/-- Changes the thermal conditions. -/
def updTherm (f : ThermSt → ThermSt) (s : State) : State := { s with therm := f s.therm }

/-- The hottest ruling temperature, in 1/16 °C. -/
def hottest (s : State) : Int := (tabulate (rulingOf s) 32 0).foldl max (-32768)

/-- The hottest forecast peak, in 1/16 °C. -/
def hottestPeak (s : State) : Int := (tabulate (peakOf s) 32 0).foldl max (-32768)

/-- PLL `i` coasts (R353). -/
def coasts (s : State) (i : Nat) : Bool := bitOf (fget s CLK_STATUS_COAST) i

/-- Coolant flow is lost (R366). -/
def flowLost (s : State) : Bool := fbit s THM_FLOW_STATUS_FLOW_LOST

/-! ### Throttling (R358) -/

/-- A stack holds HOT_LIMIT (R263). -/
def anyHot (s : State) : Bool := [0, 1, 2, 3, 4, 5].any (fun i => fbit s (MEM_STACK_HOT_LIMIT i))

/-- THM_STATUS shows the reasons in force and THROTTLED; a change of THROTTLED raises EV_THROTTLE with its records. -/
def throttleSync (s : State) : State :=
  let s := fset THM_STATUS_R_COAST (b2n (coasts s 0)) (fset THM_STATUS_R_FLOW (b2n (flowLost s))
    (fset THM_STATUS_R_STACK (b2n (anyHot s)) (fset THM_STATUS_R_TEMP (b2n (decide (1520 ≤ hottest s))) s)))
  let th := decide (fget s CLK_ACLK_CUR_MHZ < fget s CLK_ACLK_MAX_MHZ) || anyHot s
  if fbit s THM_STATUS_THROTTLED = th then s
  else postEventAll .throttle (b2n th) (raise .throttle (b2n th) (fset THM_STATUS_THROTTLED (b2n th) s))

/-- ACLK takes the step `f` (R351): trace record, count, and the overrun check that a Steward makes (R233). -/
def setAclk (f : Nat) (s : State) : State :=
  let a := fget s CLK_ACLK_CUR_MHZ
  if a = f then throttleSync s
  else
    let s := traceRec 0x04 0xFF 8 (a * 2 ^ 16 + f) (statInc CLK_STAT_ACLK_CHANGE (fset CLK_ACLK_CUR_MHZ f s))
    let s := if a < f then updTherm (fun t => { t with lastRaise := s.now }) s else s
    throttleSync (overrunCheck s)

/-! ### The governor (R357) -/

/-- VDD_ACLK of a step in 10 mV (R351). -/
def vddOf (f : Nat) : Nat :=
  if f ≤ 250 then 65 else if f = 300 then 68 else if f = 350 then 71 else if f = 400 then 75 else if f = 450 then 80 else 85

/-- The steps of ACLK. -/
def aclkSteps : List Nat := [100, 150, 200, 250, 300, 350, 400, 450, 500]

/-- P_static in 0.1 W: as measured at the temperature of its measurement, and scaled away from there; how is an open value
(R357, log 18). -/
def pStatic (s : State) : Nat :=
  if hottest s = s.therm.pStaticAt then s.therm.pStatic else Config.staticScale s.therm.pStatic s.therm.pStaticAt (hottest s)

/-- Powers in 0.1 W times a·V(a)², with a the step in force: P_static, the predicted power of a step, and P_1ms. -/
def govUnit (s : State) : Int := (aclk s * vddOf (aclk s) ^ 2 : Nat)

/-- predict(f) in 0.1 W, times `govUnit`. -/
def predict (s : State) (p1 : Nat) (f : Nat) : Int :=
  pStatic s * govUnit s + ((p1 : Int) - pStatic s) * (f * vddOf f ^ 2 : Nat)

/-- The reserve that a running self-test takes off P_lim, in 0.1 W (R393). -/
def bistReserve (s : State) : Int := if s.bist.run.isSome then 10 * (fget s BIST_RESERVE_RESERVE_W : Int) else 0

/-- A power in 0.1 W times `govUnit` keeps within the configured cap. -/
def inCap (s : State) (p : Int) : Bool := decide (p ≤ (10 * (fget s THM_CAP_CFG_W : Int) - bistReserve s) * govUnit s)

/-- It keeps within (95 °C − T_inlet) / θ, with θ in 10^-12 K/W. -/
def inTheta (s : State) (p tin : Int) : Bool :=
  decide ((p + bistReserve s * govUnit s) * s.therm.theta ≤ (1520 - tin) * 625000000000 * govUnit s)

/-- P_lim in whole watts, rounded down, before the reserve (THM_CAP.EFF_W). -/
def effWatts (s : State) (tin : Int) : Nat :=
  min (fget s THM_CAP_CFG_W) (((1520 - tin) * 62500000000 / (max 1 s.therm.theta : Nat)).toNat)

/-- P_100ms is below a quarter of P_lim. -/
def lowPower (s : State) (p100 : Nat) (tin : Int) : Bool :=
  inCap s (4 * p100 * govUnit s + 3 * bistReserve s * govUnit s) && inTheta s (4 * p100 * govUnit s + 3 * bistReserve s * govUnit s) tin
    && decide ((4 * p100 : Int) < 10 * (fget s THM_CAP_CFG_W : Int) - bistReserve s)
    && decide ((4 * (p100 : Int) + bistReserve s) * s.therm.theta < (1520 - tin) * 625000000000)

/-- A raise keeps the slew limit. -/
def rampOk (s : State) (p1 : Nat) : Bool :=
  decide ((predict s p1 (aclk s + 50) - p1 * govUnit s) * 1000000000
    ≤ (since s s.therm.lastRaise : Int) * (10 * fget s THM_SLEW_UP_WPS) * govUnit s)

/-- The step that the governor calls for, with R_CAP, R_THETA and R_RAMP as (cap, θ, ramp). -/
def governor (s : State) (m : PowerMeas) : Nat × Bool × Bool × Bool :=
  let a := aclk s
  let floor := fget s THM_SLEW_RAMP_FLOOR
  let low := match s.therm.lowSince with
    | none => false
    | some t => decide (1000000000 ≤ since s t)
  let maxOk := aclkSteps.filter (fun f => decide (f ≤ fget s CLK_ACLK_MAX_MHZ))
  let cap := maxOk.filter (fun f => inCap s (predict s m.p1ms f))
  let fit := cap.filter (fun f => inTheta s (predict s m.p1ms f) m.inlet)
  let byCap := decide (cap.length < maxOk.length)
  let byTheta := (maxOk.filter (fun f => inTheta s (predict s m.p1ms f) m.inlet)).length < maxOk.length
  let target := fit.foldl max 100
  if low && decide (floor < a) then (floor, byCap, byTheta, true)
  else if 1520 ≤ hottest s then (max (a - 50) 100, byCap, byTheta, false)
  else if a < target then
    if 1472 < hottest s ∨ 1520 ≤ hottestPeak s ∨ rampOk s m.p1ms = false then (a, byCap, byTheta, true)
    else (a + 50, byCap, byTheta, false)
  else (target, byCap, byTheta, false)

/-! ### Self-test: results and aborts (R393, R394) -/

/-- Changes the self-test record. -/
def updBist (f : BistSt → BistSt) (s : State) : State := { s with bist := f s.bist }

/-- BIST_STATUS shows what runs and what waits (R402). -/
def bistShow (s : State) : State :=
  let s := fset BIST_STATUS_QUEUED (s.bist.queue.foldl (fun m x => m ||| 2 ^ x.1) 0) s
  match s.bist.run with
  | none => fset BIST_STATUS_BUSY 0 (fset BIST_STATUS_CUR 0 (fset BIST_STATUS_CUR_KIND 0 s))
  | some r => fset BIST_STATUS_BUSY 1 (fset BIST_STATUS_CUR (if r.block < 8 then r.block else 0)
      (fset BIST_STATUS_CUR_KIND r.kind s))

/-- Cluster `c`, or the shared blocks, under a mask bit. -/
def bistReset_ (c : Nat) (b : Bool) (s : State) : State :=
  fset BIST_STATUS_IN_RESET (setBit (fget s BIST_STATUS_IN_RESET) c b) s

/-- The tests of a KIND as (logic, memory, calibration). -/
def kindParts (k : Nat) : Bool × Bool × Bool := (k == 1 || k == 3, k == 2 || k == 3, k == 4)

/-- The results of cluster `c` for the tests of `k` (R402). -/
def bistResult (c k : Nat) (logic memory calib : Nat) (s : State) : State :=
  let x := kindParts k
  let s := if x.1 then fset (BIST_RESULT_LOGIC c) logic s else s
  let s := if x.2.1 then fset (BIST_RESULT_MEMORY c) memory s else s
  if x.2.2 then fset (BIST_RESULT_CALIB c) calib s else s

/-- A TYPE 0x0B record (R375, R378): a cluster, or 8 + i for shared block i. -/
def bistLog (block code : Nat) (s : State) : State :=
  rasLog { typ := 0x0B, unit := block, code := code
           data := if block < 8 then regGet s (BIST_RESULT block) else fget s BIST_SHARED_RESULTS } s

/-- The result of shared block `i`. -/
def sharedResult (i v : Nat) (s : State) : State :=
  fset BIST_SHARED_RESULTS (fieldSet (fget s BIST_SHARED_RESULTS) (2 * i + 1) (2 * i) v) s

/-- Scan conditions do not allow a test (R393). -/
def bistBarred (s : State) : Bool := fbit s THM_STATUS_R_FLOW || fbit s THM_STATUS_R_TEMP || fbit s THM_STATUS_R_COAST

/-- A test under way ends with result 3 when a reason of R393 appears; an aborted cluster stays in reset at the head of the
queue (R394). -/
def bistAbort (s : State) : State :=
  match s.bist.run with
  | none => s
  | some r =>
    if !bistBarred s then s
    else
      let s := fset BIST_STATUS_ABORTED 1 s
      let s := if r.block < 8 then
          regSet (BIST_STAMP r.block) s.now.toNat (bistResult r.block r.kind 3 3 3 (bistReset_ r.block true
            (updBist (fun b => { b with run := none, queue := (r.block, r.kind) :: b.queue }) s)))
        else sharedResult (r.block - 8) 3 (updBist (fun b => { b with run := none }) s)
      bistShow (bistLog r.block 0 s)

/-! ### SAFE (R365, R367, R417) -/

/-- The private keys and the seed are cleared (R417). -/
def keysClear (s : State) : State := fset SEC_STATUS_ID_READY 0 { s with idReady := false }

/-- Every open step ends with a code and publishes nothing, and every program halts (R102). -/
def stepsEnd (code : Nat) (s : State) : State :=
  [0, 1, 2, 3, 4, 5, 6, 7].foldl (fun s p =>
    let s := if (partOf s p).step.isSome then faultStep p code noInsn (resumeOf (partOf s p)) s else s
    updPart p (fun pt => { pt with running := false }) s) s

/-- The codec slots stop (R298). -/
def slotsStop (s : State) : State :=
  (s.slots.map Prod.fst).foldl (fun s i => fset (VCC_SLOT_CFG_STATE i) 0 s) s

/-- The journal's record of thermal cycles (R371). -/
def journalCycles (s : State) : State :=
  updTherm (fun t => { t with cyclesWrittenAt := s.now })
    (journal 0x07 0 false (regGet s THM_LIFE :: tabulate (fun i => fget s (THM_CYCLE_HALF_CYCLES i)) 8 0) s)

/-- The module enters SAFE: ACLK falls to 100 MHz, with its trace record while the ring in DRAM can still take one (R351), open
steps end with a code, stacks go to self-refresh, QPs to ERROR, slots
stop, an update ends (R443), and the journal is flushed within 200 ms. From OFF and STANDBY there is no way there. -/
def safeEnter (code : Nat) (s : State) : State :=
  if mode s = MODE_SAFE ∨ dieOn s = false then s
  else
    let s := keysClear (journalCycles (setMode MODE_SAFE (setAclk 100 s)))
    let s := { s with power := { s.power with flushBy := some (s.now + 200000000) } }
    let s := slotsStop (qpErrorAll (stepsEnd code s))
    throttleSync (fset FW_STATUS_UPDATING 0 { s with fw := { s.fw with update := 0 } })

/-- A junction trip (R365). -/
def thermalTrip (s : State) : State :=
  if mode s = MODE_SAFE ∨ dieOn s = false then s
  else
    let s := raise .thermalTrip 0 (statInc THM_STAT_TRIP (fset THM_STATUS_TRIP_SEEN 1 s))
    journalReg THM_STATUS (safeEnter ST_THERMAL_TRIP s)

/-! ### Self-test in READY, RUN and MAINT (R396 to R398) -/

/-- The partition that holds cluster `c`. -/
def ownerOf (s : State) (c : Nat) : Option Nat :=
  [0, 1, 2, 3, 4, 5, 6, 7].find? (fun p => bitOf (fget s (SEC_PART_CLUSTERS p)) c)

/-- The SRAM copies in a cluster are dropped when it is drained; the homes stay (R257, R396). -/
def copiesDrop (c : Nat) (s : State) : State :=
  s.tensors.foldl (fun s e => if e.2.any (fun t => t.holder == some c) then copyDrop e.1 s else s) s

/-- A test starts: a cluster that is drained and whose clears are complete, or a shared block once no cluster waits (R392, R393,
R398). The clear before the test leaves no poisoned word. A Steward under test hands the helm over first. -/
def bistStart (s : State) : State :=
  if s.bist.run.isSome || bistBarred s then s
  else
    let go := fun (b k : Nat) (s : State) => bistShow (updBist (fun x => { x with run := some ⟨b, k, s.now⟩ }) s)
    match s.bist.queue with
    | (c, k) :: rest =>
      if bitOf s.bist.drained c && !bitOf s.uncleared c then
        go c k (updBist (fun b => { b with queue := rest }) { s with sramPoison := poisonClear c s.sramPoison })
      else s
    | [] =>
      match s.bist.sharedQueue with
      | [] => s
      | i :: rest =>
        let s := updBist (fun b => { b with sharedQueue := rest }) s
        let test := fun (st : Steward) (s : State) =>
          let o := stewOther st
          let s := if holds s st && (stewGet s o).up && fbit s (stewMirror o) then helmMove o s else s
          go (8 + i) 1 (stewDown st s)
        if i = 6 then test .s s else if i = 7 then test .n s else go (8 + i) 1 s

/-- Order 2 of R226 for self-test: clusters that passed go back, and the next queued cluster is drained where no step of its
partition is open (R396). -/
def bistBoundary (s : State) : State :=
  let back := s.bist.returning
  let s := updBist (fun b => { b with returning := 0, drained := b.drained - (b.drained &&& back) }) s
  let s := ((tabulate (fun c => c) 8 0).filter (bitOf back)).foldl (fun s c => raise .bistDone c s) s
  match s.bist.queue with
  | [] => s
  | (c, _) :: _ =>
    if s.bist.run.isSome || bitOf s.bist.drained c then s
    else
      match ownerOf s c with
      | none => updBist (fun b => { b with drained := b.drained ||| 2 ^ c }) s
      | some p =>
        if (partOf s p).step.isSome || (partOf s p).pub.isSome then s
        else copiesDrop c (updBist (fun b => { b with drained := b.drained ||| 2 ^ c }) s)

/-- MAINT is left for READY once nothing runs and nothing waits. -/
def maintLeave (s : State) : State :=
  if s.bist.exitPending && s.bist.run.isNone && s.bist.queue.isEmpty && s.bist.sharedQueue.isEmpty && mode s == MODE_MAINT then
    setMode MODE_READY (updBist (fun b => { b with exitPending := false, noAdmit := false, enterPending := false }) s)
  else s

end Sys2Proof.Machine
end

