-- ==== Sys2Proof/Machine/Thermal.lean ====
section
/-!
DEFINITION. Sensors and ruling temperatures (R359 to R361), the forecast and θ (R362 to R364), coolant flow (R366 to R369)
and thermal cycles (R371). Temperatures are in 1/16 °C; log 18, log 42.
-/
namespace Sys2Proof.Machine

/-! ### Ruling temperatures -/

/-- The reading of the diode, the ring oscillator and the model of hot spot `h`. -/
def diodeOf (s : State) (h : Nat) : Int := signed 16 (fget s (THM_HS_DIODE h))
def ringOf (s : State) (h : Nat) : Int := signed 16 (fget s (THM_HS_RING h))
def modelOf (s : State) (h : Nat) : Int := signed 16 (fget s (THM_FC_MODEL h))

/-- A reading is further from the model than FC_TOL. -/
def farFrom (s : State) (a m : Int) : Bool := decide (16 * fget s THM_LIMITS_FC_TOL < (a - m).natAbs)

/-- The record of hot spot `h`. -/
def spotOf (s : State) (h : Nat) : HotSpot := mapGet { since := 0, diodeFar := 0, ringFar := 0 } s.spots h

/-- Changes the record of hot spot `h`. -/
def updSpot (h : Nat) (f : HotSpot → HotSpot) (s : State) : State :=
  { s with spots := mapUpd { since := 0, diodeFar := 0, ringFar := 0 } s.spots h f }

/-- Hot spot `h` takes a ruling temperature. -/
def putRuling (h : Nat) (t : Int) (s : State) : State := fset (THM_HS_RULING h) (unsigned 16 t) s

/-- Sixty seconds, and the trip limit (R359). -/
def sixtySec : Nat := 60000000000
def tripTemp : Int := 1760

/-- Both sensors of hot spot `h` are bad: its ruling temperature is the trip limit. -/
def bothBad (h : Nat) (s : State) : State :=
  raise .sensorSuspect h (journalSpot h (putRuling h tripTemp (fset (THM_HS_BOTH_BAD h) 1 s)))

/-- One sensor of hot spot `h` rules alone; the time since which it has been far from the model is held for it. -/
def rulingOne (h : Nat) (t : Int) (far : HotSpot → Stamp) (near : HotSpot → HotSpot) (s : State) : State :=
  if farFrom s t (modelOf s h) then
    if sixtySec < since s (far (spotOf s h)) then bothBad h s else putRuling h t s
  else putRuling h t (updSpot h near s)

/-- A sensor of hot spot `h` is marked suspect; the other rules alone from now on. -/
def markSuspect (h : Nat) (diode : Bool) (s : State) : State :=
  let s := fset (if diode then THM_HS_DIODE_SUSPECT h else THM_HS_RING_SUSPECT h) 1 (fset THM_STATUS_SUSPECT 1 s)
  let s := updSpot h (fun x => { x with diodeFar := s.now, ringFar := s.now }) s
  raise .sensorSuspect h (journalSpot h (putRuling h (if diode then ringOf s h else diodeOf s h) s))

/-- The ruling temperature of hot spot `h` (R359, R360). A BOTH_BAD recorded before this BOOT, and two suspect sensors, give
the model's estimate plus 10 °C. -/
def rulingStep (h : Nat) (s : State) : State :=
  let d := diodeOf s h
  let r := ringOf s h
  let ds := fbit s (THM_HS_DIODE_SUSPECT h)
  let rs := fbit s (THM_HS_RING_SUSPECT h)
  if fbit s (THM_HS_BOTH_BAD h) || (ds && rs) then
    putRuling h (if mode s == MODE_SAFE then tripTemp else modelOf s h + 160) s
  else if rs then rulingOne h d HotSpot.diodeFar (fun x => { x with diodeFar := s.now }) s
  else if ds then rulingOne h r HotSpot.ringFar (fun x => { x with ringFar := s.now }) s
  else if (d - r).natAbs ≤ 64 then putRuling h (max d r) (fset (THM_HS_DISAGREE h) 0 s)
  else if !fbit s (THM_HS_DISAGREE h) then
    let s := updSpot h (fun x => { x with since := s.now }) (fset (THM_HS_DISAGREE h) 1 (fset THM_STATUS_DISAGREE 1 s))
    let s := fset (THM_HS_DIS_COUNT h) (min 255 (fget s (THM_HS_DIS_COUNT h) + 1)) s
    raise .sensorDisagree h (statInc THM_STAT_DISAGREE (putRuling h (max d r) s))
  else if sixtySec < since s (spotOf s h).since then
    let m := modelOf s h
    if farFrom s d m && farFrom s r m then bothBad h s
    else markSuspect h (decide ((r - m).natAbs < (d - m).natAbs)) s
  else putRuling h (max d r) s

/-- The band of a temperature (THM_STATUS.BAND). -/
def bandOf (t : Int) : Nat := if t < 960 then 0 else if t < 1200 then 1 else if t < 1360 then 2 else if t < 1520 then 3 else 4

/-- After ruling temperatures changed: the band, the trip (R365), throttling, and a self-test that must stop. -/
def rulingAct (s : State) : State :=
  let s := fset THM_STATUS_BAND (bandOf (hottest s)) s
  bistAbort (throttleSync (if tripTemp ≤ hottest s then thermalTrip s else s))

/-- HOTSPOT_SENSOR_SAMPLE: diode and ring oscillator of each hot spot, lowest first. -/
def execHotspotSensorSample (dt : Nat) (r : List (BitVec 16 × BitVec 16)) (s : State) : Res :=
  let s := elapse dt s
  if !dieOn s then .next s
  else
    .next ((r.zip (tabulate (fun h => h) 32 0)).foldl (fun s x =>
      fset (THM_HS_DIODE x.2) x.1.1.toNat (fset (THM_HS_RING x.2) x.1.2.toNat s)) s)

/-- RULING_TEMPERATURE. -/
def execRulingTemperature (dt : Nat) (s : State) : Res :=
  let s := elapse dt s
  if dieOn s && helmHeld s then .next (rulingAct ((tabulate (fun h => h) 32 0).foldl (fun s h => rulingStep h s) s))
  else .next s

/-- SENSOR_DISAGREE_TIMEOUT: the ruling temperature of one hot spot is formed anew, once the sensors have disagreed, or the one
that rules has been far from the model, for 60 s. -/
def execSensorDisagreeTimeout (dt : Nat) (h : Fin 32) (s : State) : Res :=
  let s := elapse dt s
  if dieOn s && helmHeld s then .next (rulingAct (rulingStep h.val s)) else .next s

/-- DIS_WINDOW_RESTART. -/
def execDisWindowRestart (dt : Nat) (s : State) : Res :=
  let s := elapse dt s
  if dieOn s && decide (fget s THM_DIS_WINDOW_WINDOW_S * 1000000000 ≤ since s s.therm.disWindowAt) then
    .next (updTherm (fun t => { t with disWindowAt := s.now })
      ((tabulate (fun h => h) 32 0).foldl (fun s h => fset (THM_HS_DIS_COUNT h) 0 s) s))
  else .next s

/-- LANTERN_DIODE_CHECK: every diode without a suspect mark against 110 °C (R361). -/
def execLanternDiodeCheck (dt : Nat) (s : State) : Res :=
  let s := elapse dt s
  if dieOn s && (tabulate (fun h => h) 32 0).any (fun h =>
      !fbit s (THM_HS_DIODE_SUSPECT h) && decide (tripTemp ≤ diodeOf s h)) then
    .next (thermalTrip s)
  else .next s

/-! ### Forecast and θ -/

/-- THERMAL_FORECAST: the model's estimates of now and of the next 20 ms; each estimate is corrected toward the ruling
temperature by 1/16 of the difference, except where BOTH_BAD stands (R362). -/
def execThermalForecast (dt : Nat) (est : List (BitVec 16 × BitVec 16)) (s : State) : Res :=
  let s := elapse dt s
  if dieOn s && helmHeld s then
    .next ((est.zip (tabulate (fun h => h) 32 0)).foldl (fun s x =>
      let m := x.1.1.toInt
      let m := if fbit s (THM_HS_BOTH_BAD x.2) then m else m + (rulingOf s x.2 - m) / 16
      fset (THM_FC_MODEL x.2) (unsigned 16 m) (fset (THM_FC_PEAK x.2) x.1.2.toNat s)) s)
  else .next s

/-- θ takes a value, and THM_THETA.FILT shows it. -/
def setTheta (v : Nat) (s : State) : State :=
  fset THM_THETA_FILT (min 65535 (v / 100000000)) (updTherm (fun t => { t with theta := v }) s)

/-- θ is compared with BASE × (1 + RISE_PCT / 100) and, to arm again, with BASE × (1 + RISE_PCT / 200) (R364). -/
def thetaJudge (s : State) : State :=
  let b := fget s THM_THETA_BASE * 100000000
  let k := fget s THM_LIMITS_RISE_PCT
  let s := if s.therm.theta * 200 < b * (200 + k) then updTherm (fun t => { t with thetaArmed := true }) s else s
  if s.therm.thetaArmed && decide (b * (100 + k) < s.therm.theta * 100) then
    raise .thetaRise 0 (fset THM_STATUS_THETA_RISE 1 (updTherm (fun t => { t with thetaArmed := false }) s))
  else s

/-- THETA_UPDATE (R363). -/
def execThetaUpdate (dt : Nat) (s : State) : Res :=
  let s := elapse dt s
  let p := fget s THM_POWER_P_1MS
  if dieOn s && helmHeld s && decide (1000 ≤ p) then
    let th : Int := s.therm.theta
    let sample : Int := (hottest s - signed 16 (fget s THM_COOLANT_INLET)) * 625000000000 / (p : Int)
    .next (thetaJudge (setTheta (th + (sample - th) / 10000).toNat s))
  else .next s

/-! ### Coolant flow -/

/-- The coolant's temperature difference times 15 · CP: it stands in the same unit as 4 times the power (R366). -/
def flowDelta (s : State) (d : Int) : Int := 15 * d * fget s THM_FLOW_CP

/-- A reading of power and coolant enters the second tests of R366 and R368. -/
def flowNote (m : PowerMeas) (s : State) : State :=
  let x := flowDelta s (m.outlet - m.inlet)
  let low := decide (1000 < m.p100ms ∧ x < 4 * (m.p100ms : Int))
  let good := decide (8 * (m.p100ms : Int) ≤ x)
  let keep := fun (on : Bool) (t : Option Stamp) => if on then some (t.getD s.now) else none
  updTherm (fun t => { t with deltaLowSince := keep low t.deltaLowSince, deltaGoodSince := keep good t.deltaGoodSince }) s

/-- 200 ms and 500 ms. -/
def ms200 : Nat := 200000000
def ms500 : Nat := 500000000

/-- A condition has stood for `n` ns. -/
def stoodFor (s : State) (n : Nat) (t : Option Stamp) : Bool :=
  match t with
  | none => false
  | some t => decide (n ≤ since s t)

/-- No flow has been seen for 200 ms (R366). -/
def flowGone (s : State) : Bool :=
  (fget s THM_FLOW_SRC == 0 && decide (ms200 ≤ since s s.therm.lastPulse)) || stoodFor s ms200 s.therm.deltaLowSince

/-- Pulses of the last 500 ms. -/
def pulses500 (s : State) : Nat := (s.therm.pulseRun.filter (fun t => decide (since s t ≤ ms500))).length

/-- Flow shows for 500 ms (R368). -/
def flowShown (s : State) : Bool :=
  if fget s THM_FLOW_SRC = 0 then
    decide (since s s.therm.lastPulse < ms200) && stoodFor s ms500 s.therm.pulseRun.getLast?
      && decide (fget s THM_FLOW_K ≤ 120 * pulses500 s)
  else stoodFor s ms500 s.therm.deltaGoodSince

/-- FLOW_PULSE: an edge after the contact was low for `low` ns; one under 20 µs is discarded (R483). RATE follows the pulses
of the last 500 ms (log 42). -/
def execFlowPulse (dt low : Nat) (s : State) : Res :=
  let s := elapse dt s
  if mode s == MODE_OFF || decide (low < 20000) then .next s
  else
    let s := updTherm (fun t => { t with
      pulseRun := if ms200 ≤ since s t.lastPulse then [s.now] else s.now :: t.pulseRun.filter (fun x => decide (since s x ≤ 2 * ms500))
      lastPulse := s.now }) s
    .next (fset THM_FLOW_STATUS_PULSE_OK 1
      (fset THM_FLOW_STATUS_RATE (min 65535 (120000 * pulses500 s / max 1 (fget s THM_FLOW_K))) s))

/-- Flow is lost (R367). -/
def flowLose (s : State) : State :=
  let s := fset THM_FLOW_STATUS_FLOW_LOST 1 (fset THM_STATUS_FLOW_LOST_SEEN 1 s)
  let s := if ms200 ≤ since s s.therm.lastPulse then fset THM_FLOW_STATUS_PULSE_OK 0 (fset THM_FLOW_STATUS_RATE 0 s) else s
  let s := updTherm (fun t => { t with lostAt := some s.now }) s
  bistAbort (setAclk 100 (raise .flowLost 0 (statInc THM_STAT_FLOW_LOST s)))

/-- FLOW_LOST. -/
def execFlowLost (dt : Nat) (s : State) : Res :=
  let s := elapse dt s
  if dieOn s && !flowLost s && flowGone s then .next (flowLose s) else .next s

/-- FLOW_RESTORED (R368). -/
def execFlowRestored (dt : Nat) (s : State) : Res :=
  let s := elapse dt s
  if dieOn s && flowLost s && flowShown s then
    let s := updTherm (fun t => { t with lostAt := none }) (fset THM_FLOW_STATUS_FLOW_LOST 0 s)
    .next (bistShow (bistStart (throttleSync (raise .flowRestored 0 s))))
  else .next s

/-- FLOW_LOSS_SAFE: 2 s after the detection without flow (R367). -/
def execFlowLossSafe (dt : Nat) (s : State) : Res :=
  let s := elapse dt s
  if flowLost s && stoodFor s 2000000000 s.therm.lostAt then .next (safeEnter ST_FLOW_LOST s) else .next s

/-! ### Thermal cycles -/

/-- The bin of a range (R371); none below 5 °C. -/
def cycleBin (r : Nat) : Option Nat :=
  if r < 80 then none else if r < 160 then some 0 else if r < 320 then some 1 else if r < 480 then some 2
  else if r < 640 then some 3 else if r < 800 then some 4 else if r < 960 then some 5 else if r < 1280 then some 6
  else some 7

/-- A sample joins the turning points, newest first. -/
def turnPush (x : Int) : List Int → List Int
  | a :: b :: l => if (b ≤ a ∧ a ≤ x) ∨ (x ≤ a ∧ a ≤ b) then x :: b :: l else x :: a :: b :: l
  | l => if l.head? = some x then l else x :: l

/-- Ranges that rainflow counting closes, with the half cycles each counts, and the turning points left. `fuel` bounds it. -/
def rainClose : Nat → List Int → List (Nat × Nat) × List Int
  | 0, l => ([], l)
  | fuel + 1, a :: b :: c :: rest =>
    let x := (a - b).natAbs
    let y := (b - c).natAbs
    if x < y then ([], a :: b :: c :: rest)
    else
      match rest with
      | [] => ([(y, 1)], [a, b])
      | _ =>
        let r := rainClose fuel (a :: rest)
        ((y, 2) :: r.1, r.2)
  | _ + 1, l => ([], l)

/-- The allowable counts N_i. -/
def cycleN : List Nat := [7110000, 1780000, 640000, 327000, 198000, 132000, 81600, 49400]

/-- LIFE_PPM: the floor of 10^6 · Σ (HALF_CYCLES_i / 2) / N_i. -/
def lifePpm (s : State) : Nat :=
  let all := cycleN.foldl (fun n x => n * x) 1
  let sum := (cycleN.zip [0, 1, 2, 3, 4, 5, 6, 7]).foldl (fun n x => n + fget s (THM_CYCLE_HALF_CYCLES x.2) * (all / x.1)) 0
  1000000 * sum / (2 * all)

/-- How many of the marks of R371 a LIFE_PPM has passed. -/
def lifeMarks (v : Nat) : Nat := ([500000, 800000, 1000000].filter (fun m => decide (m ≤ v))).length

/-- LIFE_PPM follows the counts; EV_THERMAL_LIFE is raised at each mark that it crosses. -/
def lifeShow (s : State) : State :=
  let v := lifePpm s
  let s := fset THM_LIFE_LIFE_PPM (min (2 ^ 32 - 1) v) s
  if s.therm.lifeMark < lifeMarks v then raise .thermalLife v (updTherm (fun t => { t with lifeMark := lifeMarks v }) s)
  else s

/-- Half cycles are counted in their bin. -/
def cycleCount (s : State) (x : Nat × Nat) : State :=
  match cycleBin x.1 with
  | none => s
  | some i => fset (THM_CYCLE_HALF_CYCLES i) (min (2 ^ 32 - 1) (fget s (THM_CYCLE_HALF_CYCLES i) + x.2)) s

/-- THERMAL_CYCLE_SAMPLE: the hottest ruling temperature, or the hottest diode while no Steward answers. -/
def execThermalCycleSample (dt : Nat) (s : State) : Res :=
  let s := elapse dt s
  if !dieOn s then .next s
  else
    let x := if helmHeld s then hottest s else (tabulate (diodeOf s) 32 0).foldl max (-32768)
    let l := turnPush x s.therm.turns
    let r := rainClose l.length l
    .next (lifeShow (r.1.foldl cycleCount (updTherm (fun t => { t with turns := r.2 }) s)))

/-- THERMAL_CYCLE_JOURNAL: every hour. -/
def execThermalCycleJournal (dt : Nat) (s : State) : Res :=
  let s := elapse dt s
  if flaskOn s && decide (3600000000000 ≤ since s s.therm.cyclesWrittenAt) then .next (journalCycles s) else .next s

end Sys2Proof.Machine
end

