-- ==== Sys2Proof/Machine/Timebase.lean ====
section
/-!
DEFINITION. The timebase's discipline (R219 to R223, R328): samples, steps and slews, 1PPS_IN edges and PTP. `dt` counts device
time, so a slew shows as TB_FREQ_ADJ (log 21); the PTP clock is log 22.
-/
namespace Sys2Proof.Machine

/-- Changes the timebase. -/
def updTime (f : TimeSt → TimeSt) (s : State) : State := { s with time := f s.time }

/-- LOCK is gained or lost, with EV_TB_LOCK. -/
def setLock (b : Bool) (s : State) : State :=
  if fbit s TB_STATUS_LOCK = b then s else raise .tbLock (b2n b) (fset TB_STATUS_LOCK (b2n b) s)

/-- Holdover begins: LOCK clears, and the last frequency adjustment stays (R222). -/
def holdover (s : State) : State :=
  let s := setLock false (updTime (fun t => { t with inWindow := 0 }) s)
  if fbit s TB_STATUS_HOLDOVER then s else raise .tbHoldover 0 (fset TB_STATUS_HOLDOVER 1 s)

/-- An offset is stepped, and not slewed (R221). -/
def tbSteps (s : State) (off : Int) : Bool :=
  decide (1000 * fget s TB_STEP_THRESH_US < off.natAbs)
    && (mode s == MODE_BOOT || mode s == MODE_READY || mode s == MODE_MAINT || mode s == MODE_SAFE || mode s == MODE_FENCED)
    && !stepIsOpen s

/-- Device time steps by −`off`; the timebase's own stamps move with it. After a step back the next boundary is the first one
after the new time; a step forward past boundaries leaves one of them due (R224). -/
def tbStep (off : Int) (s : State) : State :=
  let d := BitVec.ofInt 64 off
  let s := { s with now := s.now - d }
  let s := regSet TK_NEXT (min (regGet s TK_NEXT) (boundaryAfter s)) s
  let s := updTime (fun t => { t with
    ptpEst := t.ptpEst.map (fun e => e - off), lastSample := t.lastSample - d, lastEdge := t.lastEdge.map (fun e => e - d)
    base := s.now.toNat / 1000000000, edges := 0
    ptp := { t.ptp with sync := none, req := none, resp := none, diff := t.ptp.diff.map (fun x => x - off) } }) s
  raise .tbStep 0 (traceRec 0x09 0xFF 10 d.toNat (fset TB_FREQ_ADJ_ADJ 0 (fset TB_STATUS_STEPPED 1 s)))

/-- The rate, in 0.001 ppm, at which an offset is slewed: what removes it in one second, within SLEW_PPM (log 21). -/
def tbSlew (off : Int) (s : State) : State :=
  let m : Int := 1000 * fget s TB_CTRL_SLEW_PPM
  fset TB_FREQ_ADJ_ADJ (unsigned 32 (clampInt (-m) m (-off))) s

/-- An offset sample of device time from its source (R221, R222). -/
def tbSample (off : Int) (s : State) : State :=
  let s := fset TB_OFFSET_OFFSET (unsigned 64 off) (fset TB_STATUS_HOLDOVER 0 s)
  let near := decide (off.natAbs ≤ fget s TB_LOCK_NS)
  let s := updTime (fun t => { t with inWindow := if near then min 16 (t.inWindow + 1) else 0 }) s
  let s := if s.time.inWindow = 16 then setLock true s else s
  if tbSteps s off then tbStep off s else tbSlew off s

/-- The time of day in ns that an edge at `now` marks (R220): under SRC 1 the count of edges since the last step, from the second
that device time had then; under SRC 3 the whole second nearest to PTP's time (log 21). -/
def edgeMarks (s : State) (src : Nat) : Int :=
  if src = 1 then ((s.time.base + s.time.edges : Nat) : Int) * 1000000000
  else ((s.now.toNat : Int) - s.time.ptpEst.getD 0 + 500000000) / 1000000000 * 1000000000

/-- An edge that comes less than 900 ms after the last accepted one (R223). -/
def edgeEarly (s : State) : Bool := s.time.lastEdge.any (fun e => decide (since s e < 900000000))

/-- PPS_EDGE: a rising edge of 1PPS_IN (R223). -/
def execPpsEdge (dt : Nat) (s : State) : Res :=
  let s := elapse dt s
  if mode s == MODE_OFF then .next s
  else if edgeEarly s then .next (statInc TB_STAT_PPS_GLITCH (fset TB_STATUS_PPS_GLITCH 1 s))
  else
    let s := updTime (fun t => { t with lastEdge := some s.now, edges := t.edges + 1 }) s
    let s := fset TB_STATUS_PPS_OK 1 (regSet TB_PPS_STAMP s.now.toNat s)
    let src := fget s TB_CTRL_SRC
    .next (if src = 1 ∨ src = 3 then tbSample (s.now.toNat - edgeMarks s src) s else s)

/-! ### PTP (R328, R330) -/

/-- The anomalies of R330, as the low byte of the trace record names them. The spec gives no codes: DESIGN CHOICE; log 22. -/
def anomSeq : Nat := 0
def anomMaster : Nat := 1
def anomStamp : Nat := 2
def anomOutlier : Nat := 3

/-- An anomaly of PTP is traced and counted (R330). The other bits of DATA are an open value. -/
def ptpAnomaly (kind : Nat) (s : State) : State :=
  statInc NET_STAT_PTP_ANOM (fset NET_STATUS_PTP_ANOMALY 1
    (freeUse 1 (traceRec 0x16 0xFF 9 (freeVal s 120 * 256 + kind) s)))

/-- A PTP offset sample under SRC 3: an outlier is discarded, after eight in a row the next becomes the estimate (R223). -/
def ptpEstimate (off : Int) (s : State) : State :=
  let take := updTime (fun t => { t with ptpEst := some off, outliers := 0 }) s
  match s.time.ptpEst with
  | none => take
  | some e =>
    if (off - e).natAbs ≤ 1000000 ∨ s.time.outliers = 8 then take
    else statInc TB_STAT_PTP_OUTLIER (ptpAnomaly anomOutlier (updTime (fun t => { t with outliers := t.outliers + 1 }) s))

/-- The port in slave state has supplied an offset sample (R220, R328). -/
def ptpSample (off : Int) (s : State) : State :=
  let s := updTime (fun t => { t with lastSample := s.now }) (fset TB_STATUS_PTP_OK 1 s)
  if fget s TB_CTRL_SRC = 2 then tbSample off s
  else if fget s TB_CTRL_SRC = 3 then ptpEstimate off s
  else s

/-- Changes the PTP clock. -/
def updPtp (f : PtpSt → PtpSt) (s : State) : State := updTime (fun t => { t with ptp := f t.ptp }) s

/-- PTP runs on port `p`: enabled, with its link up. -/
def ptpOn (s : State) (p : Nat) : Bool := portUp s p && bitOf (fget s NET_PTP_PORT_EN) p

/-- The port in slave state is `p`, or none with 7. A new master's times say nothing of the old one's. -/
def slavePut (p : Nat) (s : State) : State :=
  if fget s NET_PTP_SLAVE_PORT = p then s
  else fset NET_PTP_SLAVE_PORT p (updPtp (fun x => { ptpReset with masters := x.masters, nextSeq := x.nextSeq }) s)

/-- The best master clock algorithm: of the ports where PTP runs, the one at which the best master was announced is in slave
state (R328). -/
def bestMaster (s : State) : State :=
  let l := [0, 1, 2, 3].filterMap (fun p => if ptpOn s p then (mapGet none s.time.ptp.masters p).map (fun r => (r, p)) else none)
  slavePut ((l.foldl (fun (b : Option (BitVec 112 × Nat)) x =>
    match b with
    | none => some x
    | some y => if x.1 < y.1 then some x else some y) none).elim 7 Prod.snd) s

/-- PTP answers or asks on port `p`. Event messages of the module's own bear NET_PTP's domain and transport. -/
def ptpSend (p : Nat) (seq : BitVec 16) (b : PtpBody) (s : State) : State :=
  { s with out := .ptp p { domain := BitVec.ofNat 8 (fget s NET_PTP_DOMAIN), l2 := fbit s NET_PTP_L2, seq := seq
                           stamped := true, body := b } :: s.out }

/-- A delay request leaves the slave port: Delay_Req, or Pdelay_Req in the peer-to-peer profile; t3, or t1 of the pair, is its
stamp at the port. -/
def ptpAsk (p : Nat) (s : State) : State :=
  let n := s.time.ptp.nextSeq
  let s := updPtp (fun x => { x with req := some (n, s.now), resp := none, nextSeq := n + 1 }) s
  ptpSend p n (if fbit s NET_PTP_P2P then .pdelayReq else .delayReq) s

/-- A Sync is complete: t2 − t1 less the delay measured is an offset sample, and the delay is measured anew. -/
def syncDone (p : Nat) (t1 : BitVec 64) (t2 : Stamp) (s : State) : State :=
  let d : Int := t2.toNat - t1.toNat
  let s := updPtp (fun x => { x with sync := none, diff := some d }) s
  let s := match s.time.ptp.delay with
    | none => s
    | some y => ptpSample (d - y) s
  ptpAsk p s

/-- An announce at port `p`. One of a second master is an anomaly; the better one counts (R330). -/
def ptpAnnounce (p : Nat) (r : BitVec 112) (s : State) : State :=
  let put := updPtp (fun x => { x with masters := mapSet none x.masters p (some r) })
  match mapGet none s.time.ptp.masters p with
  | none => bestMaster (put s)
  | some o =>
    if o.truncate 64 = (r.truncate 64 : BitVec 64) then bestMaster (put s)
    else bestMaster (if r < o then put (ptpAnomaly anomMaster s) else ptpAnomaly anomMaster s)

/-- A Sync at the slave port. A sequence number that does not follow the last is an anomaly, and the Sync counts (R330). -/
def ptpSync (p : Nat) (seq : BitVec 16) (t1 : Option (BitVec 64)) (s : State) : State :=
  let odd := s.time.ptp.lastSync.any (fun n => n + 1 != seq)
  let s := if odd then ptpAnomaly anomSeq s else s
  let s := updPtp (fun x => { x with lastSync := some seq, sync := none }) s
  match t1 with
  | none => updPtp (fun x => { x with sync := some (seq, s.now) }) s
  | some t => syncDone p t s.now s

/-- A delay has been measured. -/
def delayTake (d : Int) (s : State) : State := updPtp (fun x => { x with req := none, resp := none, delay := some d }) s

/-- A message that nothing on its way calls for is ignored (R330). -/
def ptpStray (s : State) : State := ptpAnomaly anomSeq s

/-- A message that a master answered a request of the slave port with. -/
def ptpReply (p : Nat) (seq : BitVec 16) (b : PtpBody) (s : State) : State :=
  let x := s.time.ptp
  match b with
  | .followUp t1 =>
    match x.sync with
    | some (n, t2) => if n = seq then syncDone p t1 t2 s else ptpStray s
    | none => ptpStray s
  | .delayResp t4 =>
    match x.req, x.diff with
    | some (n, t3), some d =>
      if n = seq ∧ fbit s NET_PTP_P2P = false then delayTake ((d + ((t4.toNat : Int) - t3.toNat)) / 2) s else ptpStray s
    | _, _ => ptpStray s
  | .pdelayResp t2 t3 =>
    match x.req with
    | some (n, t1) =>
      if n = seq ∧ fbit s NET_PTP_P2P = true then
        match t3 with
        | some t3 => delayTake (((s.now.toNat : Int) - t1.toNat - ((t3.toNat : Int) - t2.toNat)) / 2) s
        | none => updPtp (fun x => { x with resp := some (n, t2.toNat, s.now) }) s
      else ptpStray s
    | none => ptpStray s
  | .pdelayFollowUp t3 =>
    match x.req, x.resp with
    | some (_, t1), some (n, t2, t4) =>
      if n = seq then delayTake (((t4.toNat : Int) - t1.toNat - ((t3.toNat : Int) - t2)) / 2) s else ptpStray s
    | _, _ => ptpStray s
  | _ => s

/-- A peer's request is answered: with the delay response of a master port, or with the peer delay response, in one step or
two. -/
def ptpAnswer (p : Nat) (seq : BitVec 16) (b : PtpBody) (s : State) : State :=
  let p2p := fbit s NET_PTP_P2P
  match b with
  | .delayReq => if p2p || fget s NET_PTP_SLAVE_PORT == p then s else ptpSend p seq (.delayResp s.now) s
  | .pdelayReq =>
    if !p2p then s
    else if fbit s NET_PTP_ONE_STEP then ptpSend p seq (.pdelayResp s.now (some s.now)) s
    else ptpSend p seq (.pdelayFollowUp s.now) (ptpSend p seq (.pdelayResp s.now none) s)
  | _ => s

/-- A message whose meaning rests on its stamp at the port (an event message). -/
def ptpEvent : PtpBody → Bool
  | .sync _ => true
  | .delayReq => true
  | .pdelayReq => true
  | .pdelayResp _ _ => true
  | _ => false

/-- A message of the module's domain and transport, on port `p`. -/
def ptpTake (p : Nat) (m : PtpMsg) (s : State) : State :=
  if ptpEvent m.body && !m.stamped then ptpAnomaly anomStamp s
  else
    match m.body with
    | .announce r => ptpAnnounce p r s
    | .delayReq => ptpAnswer p m.seq .delayReq s
    | .pdelayReq => ptpAnswer p m.seq .pdelayReq s
    | .sync t1 => if fget s NET_PTP_SLAVE_PORT = p then ptpSync p m.seq t1 s else s
    | b => if fget s NET_PTP_SLAVE_PORT = p then ptpReply p m.seq b s else s

/-- PTP_MESSAGE: a message on an enabled port that is up (log 22). -/
def execPtpMessage (dt : Nat) (port : Fin 4) (m : PtpMsg) (s : State) : Res :=
  let s := elapse dt s
  if mode s == MODE_OFF || portZeroOnly s || !ptpOn s port.val || m.domain.toNat != fget s NET_PTP_DOMAIN
    || m.l2 != fbit s NET_PTP_L2 then .next s
  else .next (ptpTake port.val m (bestMaster s))

/-! ### Holdover -/

/-- PTP samples no longer arrive: after 3 s no port is in slave state (log 22). -/
def ptpLost (s : State) : State :=
  if 3000000000 ≤ since s s.time.lastSample then
    slavePut 7 (updPtp (fun _ => ptpReset) (fset TB_STATUS_PTP_OK 0 s))
  else s

/-- Two expected edges have passed without one. -/
def edgesMissed (s : State) : Bool := decide (2000000000 < since s (s.time.lastEdge.getD 0))

/-- TB_HOLDOVER: no PTP sample for 3 s under SRC 2, or two expected edges missed under SRC 1 or 3 (R222). PTP_OK and PPS_OK fall
under any SRC (R246). -/
def execTbHoldover (dt : Nat) (s : State) : Res :=
  let s := elapse dt s
  let src := fget s TB_CTRL_SRC
  if mode s == MODE_OFF then .next s
  else
    let late := decide (3000000000 ≤ since s s.time.lastSample)
    let miss := edgesMissed s
    let s := if miss then fset TB_STATUS_PPS_OK 0 s else s
    let s := ptpLost s
    .next (if (src = 2 ∧ late = true) ∨ ((src = 1 ∨ src = 3) ∧ miss = true) then holdover s else s)

end Sys2Proof.Machine
end

