-- ==== Sys2Proof/Machine/Clocks.lean ====
section
/-!
DEFINITION. Loss and return of the clock references (R353, R354) and the power governor (R351, R357, R358).
-/
namespace Sys2Proof.Machine

/-- The PLLs that a reference feeds (R349), in the bit order of R372. -/
def pllsOf : ClkRef → Nat
  | .xo => 0xDF
  | .refclk => 0x20

/-- The PLLs of a reference coast, with the event, once (R353; log 43). -/
def coastGo (m : Nat) (s : State) : State :=
  let s := fset CLK_STATUS_COAST (fget s CLK_STATUS_COAST ||| m) (fset CLK_STATUS_COAST_SEEN 1 s)
  let s := fset CLK_STATUS_LOCK (fget s CLK_STATUS_LOCK - (fget s CLK_STATUS_LOCK &&& m)) s
  raise .clkCoast m (statInc CLK_STAT_COAST s)

/-- Every Ethernet link drops. -/
def portsDown (s : State) : State :=
  bestMaster ([0, 1, 2, 3].foldl (fun s p =>
    if portUp s p then raise .portLink p (fset (NET_PORT_STATUS_LINK p) 0 (fset (NET_PORT_STATUS_MODE_UP p) 0 s)) else s) s)

/-- REFERENCE_LOSS (R354). In STANDBY only the timebase and port 0 run. -/
def execReferenceLoss (dt : Nat) (r : ClkRef) (s : State) : Res :=
  let s := elapse dt s
  if mode s == MODE_OFF then .next s
  else
    match r with
    | .xo =>
      if s.therm.xoLost then .next s
      else
        let s := portsDown (holdover (updTherm (fun t => { t with xoLost := true }) s))
        if dieOn s then .next (bistAbort (setAclk 100 (fset CLK_FCLK_CUR_MHZ 800 (coastGo (pllsOf .xo) s)))) else .next s
    | .refclk =>
      if s.therm.refLost then .next s
      else
        let s := updTherm (fun t => { t with refLost := true }) s
        if dieOn s then .next (linkDown (coastGo (pllsOf .refclk) s)) else .next s

/-- PLL_RELOCK: the reference has been sound for `sound` ns. -/
def execPllRelock (dt : Nat) (r : ClkRef) (sound : Nat) (s : State) : Res :=
  let s := elapse dt s
  if mode s == MODE_OFF || decide (sound < 10000000) then .next s
  else
    let m := pllsOf r
    let back := fun (s : State) =>
      fset CLK_STATUS_LOCK (fget s CLK_STATUS_LOCK ||| m)
        (fset CLK_STATUS_COAST (fget s CLK_STATUS_COAST - (fget s CLK_STATUS_COAST &&& m)) s)
    match r with
    | .xo =>
      if !s.therm.xoLost then .next s
      else
        let s := updTherm (fun t => { t with xoLost := false }) s
        if !dieOn s then .next s
        else
          let s := throttleSync (fset CLK_FCLK_CUR_MHZ (fget s CLK_FCLK_SET_MHZ) (back s))
          let s := accRelease s
          .next (bistStart ([0, 1, 2, 3, 4, 5, 6, 7].foldl (fun s p => runPart p s) s))
    | .refclk =>
      if !s.therm.refLost then .next s
      else
        let s := updTherm (fun t => { t with refLost := false }) s
        if dieOn s then .next (hostReset (back s)) else .next s

/-- The readings of the power stage and the thermistors are shown (R356, R373). -/
def powerShow (m : PowerMeas) (s : State) : State :=
  let s := fset THM_POWER_P_1MS (min 65535 m.p1ms) (fset THM_POWER_P_100MS (min 65535 m.p100ms) s)
  let s := fset THM_COOLANT_INLET (unsigned 16 m.inlet) (fset THM_COOLANT_OUTLET (unsigned 16 m.outlet) s)
  let s := if 720 < m.inlet then fset THM_STATUS_INLET_HIGH 1 s else s
  if m.inlet < 80 then fset THM_STATUS_INLET_LOW 1 s else s

/-- The governor acts on its readings (R357). P_static is measured at the first reading after an entry to READY (log 18). -/
def governorGo (m : PowerMeas) (s : State) : State :=
  if flowLost s || mode s == MODE_SAFE then s
  else if coasts s 0 then setAclk 100 s
  else
    let s := if s.therm.measure && mode s == MODE_READY then
        updTherm (fun t => { t with pStatic := m.p1ms, pStaticAt := hottest s, measure := false }) s
      else s
    let low := lowPower s m.p100ms m.inlet
    let s := updTherm (fun t => { t with lowSince := if low then some (t.lowSince.getD s.now) else none }) s
    let g := governor s m
    let s := fset THM_CAP_EFF_W (effWatts s m.inlet) s
    let s := fset THM_STATUS_R_CAP (b2n g.2.1) (fset THM_STATUS_R_THETA (b2n g.2.2.1) (fset THM_STATUS_R_RAMP (b2n g.2.2.2) s))
    setAclk g.1 s

/-- Cluster `c`'s clock runs (R352): CLK_CTRL.GATE_DIS keeps it running, or the cluster holds work, a test or instructions of the
partition it carries; in SAFE every one is gated (R31). -/
def clusterRuns (s : State) (c : Nat) : Bool :=
  mode s != MODE_SAFE && (fbit s CLK_CTRL_GATE_DIS || s.bist.run.any (fun r => r.block == c)
    || [0, 1, 2, 3, 4, 5, 6, 7].any (fun p => (partOf s p).step.isSome && (carriers s p).contains c))

/-- A millisecond's sample of the cluster clocks; CLK_ACTIVE shows the last 100 (R352, R372; log 43). -/
def clockSample (s : State) : State :=
  let now := [0, 1, 2, 3, 4, 5, 6, 7].foldl (fun (m : BitVec 8) c => if clusterRuns s c then m ||| 1#8 <<< c else m) 0
  let s := updTherm (fun t => { t with clocked := (now :: t.clocked).take 100 }) s
  regSet CLK_ACTIVE ([0, 1, 2, 3, 4, 5, 6, 7].foldl (fun n c =>
    n + (s.therm.clocked.filter (fun m => m.getLsbD c)).length * 2 ^ (8 * c)) 0) s

/-- POWER_GOVERNOR: every 1 ms. Lantern shows the readings and watches the coolant in any case; the governor is the Steward's
that holds the helm. -/
def execPowerGovernor (dt : Nat) (m : PowerMeas) (s : State) : Res :=
  let s := elapse dt s
  if !dieOn s then .next s
  else
    let s := flowNote m (powerShow m (clockSample s))
    let s := if helmHeld s then governorGo m s else s
    let s := if fbit s THM_STATUS_THROTTLED then statInc THM_STAT_THROTTLE_MS s else s
    .next (bistStart (bistAbort s))

end Sys2Proof.Machine
end

