-- ==== Sys2Proof/Machine/CodecOps.lean ====
section
/-!
DEFINITION. Codec slots: enabling (R274 to R279, R299), the order of packets and frames (R284, R285, R297), capture stamps
(R286), and what a frame or group commits (R287 to R295, R297). Where the rules leave a choice it is log 36.
-/
namespace Sys2Proof.Machine

def KIND_DECODE : Nat := 0
def KIND_ENCODE : Nat := 1
def KIND_SENSOR : Nat := 2

/-- The codec slots of this module state run (R298). -/
def slotsLive (s : State) : Bool :=
  mode s == MODE_READY || mode s == MODE_RUN || mode s == MODE_MAINT || mode s == MODE_FENCED

/-- Slot `i` runs as a slot of kind `k`. -/
def slotRuns (s : State) (i k : Nat) : Bool :=
  slotsLive s && fbit s (VCC_SLOT_CFG_EN i) && fget s (VCC_SLOT_CFG_STATE i) != 0 && fget s (VCC_SLOT_CFG_KIND i) == k

/-- The partition that owns slot `i`. -/
def slotPart (s : State) (i : Nat) : Nat := fget s (VCC_SLOT_CFG_PART i)

/-- Width and height of the output of slot `i` (R287). -/
def outDims (s : State) (i : Nat) : Nat × Nat :=
  let d := 2 ^ fget s (VCC_SLOT_OUT_SCALE i)
  (fget s (VCC_SLOT_GEOM_WIDTH i) / d, fget s (VCC_SLOT_GEOM_HEIGHT i) / d)

/-- `n` rounded up to a multiple of 32. -/
def up32 (n : Nat) : Nat := ceilDiv n 32 * 32

/-- Bytes of a frame of `w` × `h` in format `f` (R288). -/
def frameSize (f w h : Nat) : Nat :=
  if f = FMT_BS8 then 3 * h * (up32 w + up32 w / 32) else 3 * w * h * (fmtBits f / 8)

/-- Bytes of a record of sensor slot `i` (R297). -/
def recordSize (s : State) (i : Nat) : Nat :=
  fget s (VCC_SLOT_GEOM_WIDTH i) * (fmtBits (fget s (VCC_SLOT_OUT_FORMAT i)) / 8)

/-! ### Memory of a slot (R276) -/

/-- Bytes of one reference picture. -/
def refBytes (s : State) (i : Nat) : Nat :=
  fget s (VCC_SLOT_GEOM_WIDTH i) * fget s (VCC_SLOT_GEOM_HEIGHT i) * 3
    / (if fget s (VCC_SLOT_CFG_PROFILE i) = 1 then 1 else 2)

/-- Reference pictures of a slot: as set for an encode slot; as level 5.1 allows for the picture size for a decode slot
(R277; PRESUMED the standards' own limits, log 36). -/
def refCount (s : State) (i : Nat) : Nat :=
  let n := fget s (VCC_SLOT_GEOM_WIDTH i) * fget s (VCC_SLOT_GEOM_HEIGHT i)
  if fget s (VCC_SLOT_CFG_KIND i) = KIND_SENSOR then 0
  else if fget s (VCC_SLOT_CFG_KIND i) = KIND_ENCODE then fget s (VCC_SLOT_ENC_REFS_M1 i) + 1
  else if fget s (VCC_SLOT_CFG_PROFILE i) ≤ 1 then
    (if n * 4 ≤ 8912896 then 16 else if n * 2 ≤ 8912896 then 12 else if n * 4 ≤ 3 * 8912896 then 8 else 6)
  else min 16 (184320 / max 1 (n / 256))

/-- Bytes of an output buffer and of its error map, each rounded up to 1 KiB. -/
def bufBytes (s : State) (i : Nat) : Nat × Nat :=
  if fget s (VCC_SLOT_CFG_KIND i) = KIND_SENSOR then
    (alignKib (recordSize s i * fget s (VCC_SLOT_GEOM_HEIGHT i)), 0)
  else
    (alignKib (frameSize (fget s (VCC_SLOT_OUT_FORMAT i)) (outDims s i).1 (outDims s i).2)
    , alignKib (ceilDiv (fget s (VCC_SLOT_GEOM_HEIGHT i)) 16))

/-- Output buffers of a slot (R289). -/
def bufCount (s : State) (i : Nat) : Nat :=
  if fget s (VCC_SLOT_CFG_KIND i) = KIND_ENCODE then 0 else fget s (VCC_SLOT_CFG_NBUF_M1 i) + 1

/-- The pieces of memory that slot `i` takes: its reference pictures, and then each buffer followed by its error map. -/
def slotPieces (s : State) (i : Nat) : List Nat :=
  List.replicate (refCount s i) (alignKib (refBytes s i))
    ++ (List.replicate (bufCount s i) [(bufBytes s i).1, (bufBytes s i).2]).flatten

/-- Row and column of a stack and of a cluster on the mesh (R21), and the stops between two. -/
def stackStop (i : Nat) : Nat × Nat := if i < 3 then (0, i) else (3, i - 3)
def clusterStop (c : Nat) : Nat × Nat := (1 + c / 4, c % 4)
def stopsApart (a b : Nat × Nat) : Nat := ((a.1 : Int) - b.1).natAbs + ((a.2 : Int) - b.2).natAbs

/-- The stacks in the order in which the PLC places a buffer of partition `p`: nearest its clusters first (R288; log 36). -/
def nearStacks (s : State) (p : Nat) : List Nat :=
  let far := fun (i : Nat) => (clustersOf s p).foldl (fun n c => n + stopsApart (stackStop i) (clusterStop c)) 0
  sortBy (fun a b => decide (far a < far b)) [0, 1, 2, 3, 4, 5]

/-- Places for pieces of memory, each on its own, in the partition's windows; none where one finds no place (R275, R276). -/
def placePieces (s : State) (p : Nat) (l : List Nat) : List Nat → List (Nat × Nat) → Option (List (Nat × Nat))
  | [], got => some got
  | n :: ns, got =>
    if n = 0 then placePieces s p l ns (got ++ [(0, 0)])
    else
      match spotBeside s (usedSpans s ++ got) p n l with
      | none => none
      | some a => placePieces s p l ns (got ++ [(a, n)])

/-- The memory of slot `i`, piece by piece. -/
def slotPlaces (s : State) (i : Nat) : Option (List (Nat × Nat)) :=
  placePieces s (slotPart s i) (nearStacks s (slotPart s i)) (slotPieces s i) []

/-! ### Enabling (R274, R275, R277 to R279, R288, R299) -/

/-- The load of slot `i` (R274). -/
def slotLu (s : State) (i : Nat) : Nat :=
  if fget s (VCC_SLOT_CFG_KIND i) = KIND_SENSOR then 0
  else ceilDiv (16 * fget s (VCC_SLOT_GEOM_WIDTH i) * fget s (VCC_SLOT_GEOM_HEIGHT i) * fget s (VCC_SLOT_GEOM_FPS i)) 62208000

/-- The picture size keeps R277. -/
def geomOk (s : State) (i : Nat) : Bool :=
  let w := fget s (VCC_SLOT_GEOM_WIDTH i)
  let h := fget s (VCC_SLOT_GEOM_HEIGHT i)
  decide (1 ≤ w) && decide (1 ≤ h) && decide (w ≤ 8192) && decide (h ≤ 8192) && decide (w * h ≤ 8912896) && w % 8 == 0
    && h % 8 == 0 && decide (1 ≤ fget s (VCC_SLOT_GEOM_FPS i)) && decide (fget s (VCC_SLOT_GEOM_FPS i) ≤ 120)

/-- TIME holds values of its ranges. -/
def timeOk (s : State) (i : Nat) : Bool :=
  decide (fget s (VCC_SLOT_TIME_MAP i) ≤ 1) && fget s (VCC_SLOT_TIME_CLK_HZ i) != 0
    && fget s (VCC_SLOT_TIME_REANCHOR_MS i) != 0 && fget s (VCC_SLOT_TIME_REORDER_MS i) != 0

/-- The encoder's settings are of their ranges and name no tool that R278 leaves out. -/
def encOk (s : State) (i : Nat) : Bool :=
  decide (fget s (VCC_SLOT_ENC_RC i) ≤ 2) && decide (fget s (VCC_SLOT_ENC_QP i) ≤ 51) && fget s (VCC_SLOT_ENC_KBPS i) != 0
    && fget s (VCC_SLOT_ENC_IRAP_INTERVAL i) != 0
    && fget s (VCC_SLOT_ENC_SLICE_BYTES_64 i) != 0
    && !(fget s (VCC_SLOT_CFG_PROFILE i) == 2 && fbit s (VCC_SLOT_ENC_BFRAMES i))

/-- Division and core mask agree: tiles and wavefront are H.265's; a single core for DIV 0. -/
def divOk (s : State) (i : Nat) : Bool :=
  let d := fget s (VCC_SLOT_CFG_DIV i)
  let m := fget s (VCC_SLOT_CFG_CORES i)
  decide (d ≤ 4) && !((d == 1 || d == 3) && decide (2 ≤ fget s (VCC_SLOT_CFG_PROFILE i)))
    && !(d == 0 && m != 0 && popCount 4 m != 1)

/-- Geometry, profile, network and timing of slot `i` are valid for its kind. -/
def configOk (s : State) (i : Nat) : Bool :=
  let k := fget s (VCC_SLOT_CFG_KIND i)
  fget s (VCC_SLOT_CFG_EVT_SRC i) != 1023 &&
  (if k = KIND_SENSOR then
    decide (1 ≤ fget s (VCC_SLOT_GEOM_WIDTH i)) && decide (fget s (VCC_SLOT_GEOM_WIDTH i) ≤ 8192)
      && fget s (VCC_SLOT_GEOM_HEIGHT i) != 0 && timeOk s i && fget s (VCC_SLOT_CFG_NBUF_M1 i) != 0
      && decide (1 ≤ fget s (VCC_SLOT_OUT_GROUP_MS i)) && decide (fget s (VCC_SLOT_OUT_GROUP_MS i) ≤ 1000)
  else if k = KIND_DECODE then
    geomOk s i && decide (fget s (VCC_SLOT_CFG_PROFILE i) ≤ 4) && divOk s i && timeOk s i
      && fget s (VCC_SLOT_CFG_NBUF_M1 i) != 0 && fget s (VCC_SLOT_OUT_SCALE i) != 3
  else if k = KIND_ENCODE then
    geomOk s i && decide (fget s (VCC_SLOT_CFG_PROFILE i) ≤ 4) && divOk s i && timeOk s i && encOk s i
  else false)

/-- The output format is one of the kind (R288, R297). -/
def formatOk (s : State) (i : Nat) : Bool :=
  let k := fget s (VCC_SLOT_CFG_KIND i)
  let f := fget s (VCC_SLOT_OUT_FORMAT i)
  if k = KIND_SENSOR then f == FMT_INT8 || f == FMT_INT32 || f == FMT_FP16 || f == FMT_BF16 || f == FMT_FP32
  else if k = KIND_DECODE then f == FMT_INT8 || f == FMT_BF16 || (f == FMT_BS8 && fbit s (VCC_SLOT_OUT_CHW i))
  else true

/-- The cores with room for `n` LU, in order. -/
def coresFor (s : State) (n : Nat) : List Nat :=
  [0, 1, 2, 3].filter (fun c => decide (fget s (VCC_CORE_LOAD c) + n ≤ 256))

/-- The cores that slot `i` is assigned to (R275). With a mask of 0 a stream that is divided takes the fewest cores, two or
more, that have room (log 36). -/
def coresPick (s : State) (i : Nat) : Option (List Nat) :=
  let lu := slotLu s i
  let m := fget s (VCC_SLOT_CFG_CORES i)
  if fget s (VCC_SLOT_CFG_KIND i) = KIND_SENSOR then some []
  else if m ≠ 0 then
    let l := [0, 1, 2, 3].filter (bitOf m)
    if l.all (fun c => (coresFor s (ceilDiv lu l.length)).contains c) then some l else none
  else
    let ks := if fget s (VCC_SLOT_CFG_DIV i) = 0 then [1] else [2, 3, 4]
    (ks.find? (fun k => decide (k ≤ (coresFor s (ceilDiv lu k)).length))).map (fun k => (coresFor s (ceilDiv lu k)).take k)

/-- The reason that an enable of slot `i` is refused for, if any (R275, R299). -/
def enableRefused (s : State) (i : Nat) : Option Nat :=
  if fget s (SEC_PART_STATE (slotPart s i)) = PART_FREE then some 5
  else if !configOk s i then some 3
  else if !formatOk s i then some 4
  else if (coresPick s i).isNone then some 1
  else if (slotGet s i).disabling ∨ (slotPlaces s i).isNone = true then some 2
  else none

/-- The stable handle of slot `i`, or a tensor of one of its buffers, with no bytes written yet. -/
def frameTensor (s : State) (i code size home : Nat) (stamp : Stamp) : Tensor :=
  { part := slotPart s i, cls := 3, size := size, writable := false, flask := false, object := 0, home := home
    stamp := stamp, kvFormat := 0, heads := 0, width := 0, hint := 0, reason := 0, declines := 0
    level := if ((slotGet s i).bufs[code % 8]?).any (fun b => b.sram != 0) && decide (code < 8) then 1 else 2
    access := 0, lost := false, slot := some (i, code)
    blocks := [], lowArmed := true, digest := 0, holder := none, moved := 0, readers := 0 }

/-- The buffers of a slot whose pieces lie at `l`: with DEST_SRAM as many as `room` bytes of SRAM take, the first first (R288). -/
def bufsAt (size room : Nat) : List (Nat × Nat) → List FrameBuf
  | a :: b :: l =>
    let fits := size != 0 && decide (size ≤ room)
    { state := BUF_FREE, handle := 0, mapHandle := 0, seq := 0, home := a.1, mapHome := b.1, sram := if fits then size else 0 }
      :: bufsAt size (if fits then room - size else room) l
  | _ => []

/-- Slot `i` takes its memory and is ARMED. -/
def slotArm (i : Nat) (places : List (Nat × Nat)) (cores : List Nat) (s : State) : State :=
  let lu := slotLu s i
  let n := ceilDiv lu (max 1 cores.length)
  let k := refCount s i
  let b := bufBytes s i
  let room := if fbit s (VCC_SLOT_OUT_DEST_SRAM i) then sramRoom s (slotPart s i) 0 else 0
  let h := s.nextHandle
  let s := tensorAdd (frameTensor s i 16 b.1 0 0) s
  let s := cores.foldl (fun s c =>
    fset (VCC_CORE_SLOTS c) (fget s (VCC_CORE_SLOTS c) + 1) (fset (VCC_CORE_LOAD c) (fget s (VCC_CORE_LOAD c) + n) s)) s
  let s := fset (VCC_SLOT_CFG_CORES_USED i) (cores.foldl (fun m c => setBit m c true) 0) (fset (VCC_SLOT_CFG_LOAD i) lu s)
  let s := fset (VCC_SLOT_CFG_STATE i) 1 (fset (VCC_SLOT_CFG_EN i) 1 s)
  let s := if fget s (VCC_SLOT_CFG_KIND i) = KIND_ENCODE then
      freeUse 1 (fset (VCC_SLOT_NET_SSRC i) (freeVal s 32) s) else fset (VCC_SLOT_NET_SSRC i) 0 s
  let s := fset (VCC_SLOT_LATEST_ALIAS i) h (regSet (VCC_SLOT_STATUS i) 0 s)
  slotUpd i (fun _ => { slotReset with
    bufs := bufsAt b.1 room (places.drop k), latest := h, refs := (places.take k).map Prod.fst
    mem := places.filter (fun m => m.2 != 0) }) s

/-- The journal's record of slot `i` (R436 type 0x0B). -/
def journalSlot (i : Nat) (s : State) : State :=
  journal 0x0B i false [regGet s (VCC_SLOT_CFG i), regGet s (VCC_SLOT_GEOM i), regGet s (VCC_SLOT_OUT i)
    , regGet s (VCC_SLOT_NORM i 0), regGet s (VCC_SLOT_NORM i 1), regGet s (VCC_SLOT_NORM i 2)
    , regGet s (VCC_SLOT_NET i), regGet s (VCC_SLOT_TIME i), regGet s (VCC_SLOT_ENC i)] s

/-- The enable of slot `i` from its registers, without the journal (also at the end of BOOT, R298). -/
def slotTry (i : Nat) (s : State) : State :=
  match enableRefused s i, coresPick s i, slotPlaces s i with
  | none, some cores, some places => slotArm i places cores s
  | r, _, _ => fset VCC_STATUS_CFG_REJECT 1 (fset VCC_STATUS_REJECT_REASON (r.getD 2)
      (fset (VCC_SLOT_CFG_STATE i) 0 (fset (VCC_SLOT_CFG_EN i) 0 s)))

/-- A write of VCC_SLOTn_CFG (R275, R298, R299). -/
def slotCfgWrite (i v : Nat) (s : State) : State :=
  if fbit s (VCC_SLOT_CFG_EN i) then (if bitOf v 60 then s else journalSlot i (slotStop i s))
  else
    let mask := 2 ^ 60 - 2 ^ 45 + (2 ^ 43 - 2 ^ 28)
    let s := regSet (VCC_SLOT_CFG i) (mergeBits (regGet s (VCC_SLOT_CFG i)) mask v) s
    if bitOf v 60 then journalSlot i (slotTry i s) else journalSlot i s

/-! ### Timestamps and stamps (R284, R286) -/

/-- The extension of RTP timestamp `ts` after `last`, and whether it is a restart. -/
def extendTs (last : Option Nat) (ts : Nat) : Nat × Bool :=
  match last with
  | none => (2 ^ 40 + ts, false)
  | some l =>
    let d := (ts + 2 ^ 32 - l % 2 ^ 32) % 2 ^ 32
    if d < 2 ^ 31 then (l + d, false) else if d = 2 ^ 31 then (l + d, true) else (l + d - 2 ^ 32, false)

/-- Arrival of a frame's first packet less LAT_US, as an integer. -/
def arrivalOf (s : State) (i : Nat) (f : FrameAsm) : Int := (f.firstAt.toNat : Int) - fget s (VCC_SLOT_TIME_LAT_US i) * 1000

/-- The mapped stamp of a frame, the anchor it leaves, and whether it re-anchors (MAP 0): on a frame of a new timeline, which a
restart or a new SSRC began, and on one whose stamp strays. -/
def mapArrival (s : State) (i : Nat) (f : FrameAsm) : Int × (Nat × Nat × Nat) × Bool :=
  let a := arrivalOf s i f
  let fresh : Nat × Nat × Nat := (f.epoch, f.ext, unsigned 64 a)
  match (slotGet s i).anchor with
  | none => (a, fresh, decide (f.epoch ≠ 0))
  | some an =>
    let m := signed 64 an.2.2 + ((f.ext : Int) - an.2.1) * 1000000000 / (max 1 (fget s (VCC_SLOT_TIME_CLK_HZ i)) : Nat)
    if an.1 ≠ f.epoch ∨ (fget s (VCC_SLOT_TIME_REANCHOR_MS i) * 1000000 : Nat) < (m - a).natAbs then (a, fresh, true)
    else (m, an, false)

/-- The stamp by the latest sender report (MAP 1), where one of the frame's timeline is in force. -/
def mapReport (s : State) (i : Nat) (f : FrameAsm) : Option Int :=
  match (slotGet s i).sr with
  | none => none
  | some (ep, ntp, rtp, at_) =>
    if fget s (VCC_SLOT_TIME_MAP i) = 1 ∧ ep = f.epoch ∧ since s at_ < 15000000000 then
      some ((ntp : Int) + signed 64 (regGet s VCC_NTP_OFS)
        + ((f.ext : Int) - rtp) * 1000000000 / (max 1 (fget s (VCC_SLOT_TIME_CLK_HZ i)) : Nat))
    else none

/-- The capture stamp of frame `f` of slot `i`, whether it was clamped, whether the slot re-anchored, and the state left. -/
def captureOf (i : Nat) (f : FrameAsm) (s : State) : Stamp × Bool × Bool × State :=
  let sr := mapReport s i f
  let s := fset (VCC_SLOT_STATUS_SR_LOCK i) (b2n sr.isSome) s
  let a := mapArrival s i f
  let again := sr.isNone && a.2.2
  let s := if again then raise .vccReanchor i (statInc VCC_STAT_REANCHOR s) else s
  let s := slotUpd i (fun x => { x with anchor := if sr.isNone then some a.2.1 else x.anchor }) s
  let m := sr.getD a.1
  let clamp := decide ((f.firstAt.toNat : Int) < m)
  (if clamp then f.firstAt else BitVec.ofInt 64 m, clamp, again, s)

/-! ### Parameter sets that a stream brings (R277, R278) -/

/-- The units of an aggregation packet, each behind its size; `fuel` bounds them. -/
def aggUnits : Nat → List Byte → List (List Byte)
  | 0, _ => []
  | fuel + 1, l =>
    let n := ofLe (l.take 2).reverse
    if n = 0 then [] else (l.drop 2).take n :: aggUnits fuel (l.drop (2 + n))

/-- The NAL units that an RTP payload holds whole: one, or those of an aggregation packet; of a fragmentation unit none (RFC 6184,
RFC 7798; PRESUMED, log 17). -/
def nalsOf (h265 : Bool) (bs : List Byte) : List (List Byte) :=
  let hdr := if h265 then 2 else 1
  let typ := if h265 then bs.headD 0 / 2 % 64 else bs.headD 0 % 32
  if typ = (if h265 then 48 else 24) then aggUnits bs.length (bs.drop hdr)
  else if typ = (if h265 then 49 else 28) then []
  else [bs]

/-- The payload is of the interleaved packetisation mode, which is not supported (R278). -/
def interleaved (h265 : Bool) (bs : List Byte) : Bool :=
  !h265 && [25, 26, 27, 29].contains ((bs.headD 0).toNat % 32)

/-- What a sequence parameter set says of profile, tier and level: none where the unit is no such set, else whether R277 supports
it (the places of the fields are the standards'; PRESUMED, log 17). -/
def setValid (h265 : Bool) (nal : List Byte) : Option Bool :=
  let b := fun (i : Nat) => (nal.getD i 0).toNat
  if h265 then
    if b 0 / 2 % 64 = 33 then some ((b 3 % 32 == 1 || b 3 % 32 == 2) && b 3 / 32 == 0 && decide (b 14 ≤ 153)) else none
  else if b 0 % 32 = 7 then
    some (((b 1 == 66 && bitOf (b 2) 6) || b 1 == 77 || b 1 == 100) && decide (b 3 ≤ 51))
  else none

/-- What a payload says of parameter sets: the last set that it holds, and an unsupported packetisation as an invalid one. -/
def setIn (h265 : Bool) (bs : List Byte) : Option Bool :=
  if interleaved h265 bs then some false
  else (nalsOf h265 bs).foldl (fun r n => (setValid h265 n).or r) none

/-! ### Packets into frames (R284, R285) -/

/-- A frame of extended timestamp `e`. -/
def asmNew (e epoch : Nat) (at_ : Stamp) (head : Bool) : FrameAsm :=
  { ext := e, epoch := epoch, firstAt := at_, laterAt := none, head := head, marker := none, gap := false, starts := false
    done := false, timeout := false, set := none, pkts := [] }

/-- A packet takes its place in a frame. -/
def asmAdd (h265 : Bool) (x : RtpPkt) (f : FrameAsm) : FrameAsm :=
  if f.pkts.any (fun e => e.1 == x.seq.toNat) then f
  else { f with pkts := f.pkts ++ [(x.seq.toNat, x.data)], starts := f.starts || x.starts
                set := (setIn h265 x.data).or f.set, marker := if x.marker then some x.seq.toNat else f.marker }

/-- The earliest sequence number of a frame, and its last. -/
def asmFirst (f : FrameAsm) : Nat := f.pkts.foldl (fun m e => if serialBefore 16 e.1 m then e.1 else m) ((f.pkts.map Prod.fst).headD 0)
def asmLast (f : FrameAsm) : Nat :=
  f.marker.getD (f.pkts.foldl (fun m e => if serialBefore 16 m e.1 then e.1 else m) ((f.pkts.map Prod.fst).headD 0))

/-- Sequence number `q` has arrived: in a frame of the slot, or as the last of one that has committed. -/
def seqSeen (x : Slot) (q : Nat) : Bool :=
  x.ends.any (fun e => e.2 == q) || x.frames.any (fun f => f.pkts.any (fun e => e.1 == q))

/-- The marker packet of a frame has arrived and no sequence number before it is missing (R285). -/
def asmWhole (x : Slot) (f : FrameAsm) : Bool :=
  match f.marker with
  | none => false
  | some m =>
    let n := (m + 65536 - asmFirst f) % 65536
    (f.pkts.filter (fun e => decide ((e.1 + 65536 - asmFirst f) % 65536 ≤ n))).length == n + 1
      && (f.head || seqSeen x ((asmFirst f + 65535) % 65536))

/-- Frames that are whole are complete. -/
def asmSettle (x : Slot) : Slot :=
  { x with frames := x.frames.map (fun f => if !f.done && asmWhole x f then { f with done := true } else f) }

/-- The frames of a slot in decoding order: by their first sequence numbers. -/
def inOrder (x : Slot) : List FrameAsm := sortBy (fun a b => serialBefore 16 (asmFirst a) (asmFirst b)) x.frames

/-- The frames that may commit: complete, with every frame before them in decoding order complete (R284, R285). -/
def committable (x : Slot) : List FrameAsm := (inOrder x).takeWhile (fun f => f.done)

/-- A frame leaves the slot: it has committed or been discarded. -/
def asmDrop (f : FrameAsm) (x : Slot) : Slot :=
  { x with frames := x.frames.filter (fun g => g.ext != f.ext), ends := ((f.ext, asmLast f) :: x.ends).take 64 }

/-- A packet of extended timestamp `e` reaches a decode slot; the flag tells that its frame has committed (R284). A frame of an
earlier timestamp than one that has come, as B pictures have, is a frame like another. -/
def videoPut (now : Stamp) (h265 : Bool) (e : Nat) (p : RtpPkt) (x : Slot) : Slot × Bool :=
  if x.ends.any (fun y => y.1 == e) then (x, true)
  else
    let later := x.frames.any (fun f => decide (e < f.ext)) || x.ends.any (fun y => decide (e < y.1))
    let f0 : FrameAsm :=
      { asmNew e x.epoch now (x.ends.isEmpty && x.frames.all (fun f => f.epoch != x.epoch)) with
        laterAt := if later then some now else none }
    let fs := if x.frames.any (fun f => f.ext == e) then x.frames else x.frames ++ [f0]
    (asmSettle { x with frames := fs.map (fun f =>
      if f.ext = e then asmAdd h265 p f
      else if f.ext < e then { f with laterAt := some (f.laterAt.getD now) }
      else f) }, false)

/-! ### Sensor records (R297) -/

/-- Bytes in a group. -/
def groupBytes (f : FrameAsm) : Nat := f.pkts.foldl (fun n e => n + e.2.length) 0

/-- The group being gathered closes. -/
def groupClose (x : Slot) : Slot :=
  match x.group with
  | none => x
  | some f => { x with group := none, ready := x.ready ++ [f] }

/-- Records of a payload enter groups of up to `cap` bytes; `fuel` bounds the groups. -/
def groupFill (cap : Nat) (gap marker : Bool) (seq e : Nat) (at_ : Stamp) : Nat → List Byte → Slot → Slot
  | 0, _, x => x
  | fuel + 1, bs, x =>
    let f := x.group.getD (asmNew e x.epoch at_ false)
    let n := cap - groupBytes f
    let f := { f with pkts := f.pkts ++ [(seq, bs.take n)], gap := f.gap || gap }
    let rest := bs.drop n
    let x := { x with group := some f }
    let x := if groupBytes f = cap ∨ (marker ∧ rest = []) then groupClose x else x
    if rest.isEmpty then x else groupFill cap false marker seq e at_ fuel rest x

/-- A payload enters the group (R297): after GROUP_MS since its first record, `span` ns, that group has ended. A payload of no
record begins no group; its marker ends one. -/
def groupPut (span cap : Nat) (gap marker : Bool) (seq e : Nat) (at_ : Stamp) (bs : List Byte) (x : Slot) : Slot :=
  let x := if x.group.any (fun f => decide (span ≤ (at_ - f.firstAt).toNat)) then groupClose x else x
  if bs.isEmpty then
    let x := { x with group := x.group.map (fun f => { f with gap := f.gap || gap }) }
    if marker then groupClose x else x
  else groupFill cap gap marker seq e at_ (bs.length + 1) bs x

/-- Packets in their order enter the group: the next sequence number, or the earliest waiting that has waited REORDER_MS;
`fuel` bounds them. -/
def sensorSettle (now : Stamp) (reorder span cap : Nat) : Nat → Slot → Slot
  | 0, x => x
  | fuel + 1, x =>
    match x.waiting with
    | [] => x
    | w :: ws =>
      let y := ws.foldl (fun m y => if serialBefore 16 y.1.seq.toNat m.1.seq.toNat then y else m) w
      let next := match x.nextSeq with
        | none => true
        | some n => n == y.1.seq.toNat
      if next || decide (reorder ≤ (now - y.2.2).toNat) then
        let x := { x with waiting := x.waiting.filter (fun z => z.1.seq != y.1.seq), nextSeq := some ((y.1.seq.toNat + 1) % 65536) }
        sensorSettle now reorder span cap fuel (groupPut span cap (!next) y.1.marker y.1.seq.toNat y.2.1 y.2.2 y.1.data x)
      else x

/-- A packet reaches a sensor slot; the flag tells that it is late. -/
def sensorPut (now : Stamp) (reorder span cap e : Nat) (p : RtpPkt) (x : Slot) : Slot × Bool :=
  if (match x.nextSeq with | none => false | some n => serialBefore 16 p.seq.toNat n) then (x, true)
  else if x.waiting.any (fun w => w.1.seq == p.seq) then (x, false)
  else (sensorSettle now reorder span cap (x.waiting.length + 1) { x with waiting := x.waiting ++ [(p, e, now)] }, false)

/-- REORDER_MS of slot `i` in ns. -/
def reorderNs (s : State) (i : Nat) : Nat := fget s (VCC_SLOT_TIME_REORDER_MS i) * 1000000

/-- GROUP_MS of slot `i` in ns. -/
def groupNs (s : State) (i : Nat) : Nat := fget s (VCC_SLOT_OUT_GROUP_MS i) * 1000000

/-- Bytes of a whole group of slot `i`. -/
def groupCap (s : State) (i : Nat) : Nat := recordSize s i * fget s (VCC_SLOT_GEOM_HEIGHT i)

/-! ### What a frame becomes (R287, R288, R294, R295) -/

/-- Bits of an error-map byte that make a row concealed. -/
def concealBits (b : Nat) : Bool := bitOf b 1 || bitOf b 2 || bitOf b 4 || bitOf b 5 || bitOf b 6

/-- Luma rows of a CTU row of slot `i` in a stream of CTB code `ctb`: a macroblock row's in H.264 (R279, R295). -/
def ctbOf (s : State) (i : Nat) (ctb : BitVec 2) : Nat :=
  if 2 ≤ fget s (VCC_SLOT_CFG_PROFILE i) then 16 else min 64 (16 * 2 ^ ctb.toNat)

/-- CTU rows of the coded picture (R295). -/
def mapRows (s : State) (i : Nat) (ctb : BitVec 2) : Nat := ceilDiv (fget s (VCC_SLOT_GEOM_HEIGHT i)) (ctbOf s i ctb)

/-- A parameter error covers the picture (R294): one of the stream's syntax, an invalid or unsupported set in the frame, or one
before it that no valid set followed by an IRAP picture has cleared. -/
def paramBad (x : Slot) (f : FrameAsm) (d : Decoded) : Bool :=
  d.rows.any (fun b => b.getLsbD 6) || f.set == some false
    || (x.param && !((x.setOk || f.set == some true) && d.irap))

/-- The error map of a decoded picture (R294, R295). A row that no data came for is missing where packets are, unfinished where
the frame timed out, and else an error of the stream's syntax; `poisoned` are the rows that read poisoned data. -/
def errorMap (n : Nat) (x : Slot) (f : FrameAsm) (d : Decoded) (poisoned : List Nat) : List Nat :=
  let par := paramBad x f d
  tabulate (fun r =>
    let b := (d.rows.getD r 1).toNat
    let absent := bitOf b 0
    let m := setBit 0 1 (absent && f.gap)
    let m := setBit m 2 (bitOf b 2 || (absent && !f.gap && !f.timeout))
    let m := setBit m 3 (bitOf b 3 && x.refDamaged && !d.irap)
    let m := setBit m 4 (absent && f.timeout)
    let m := setBit (setBit m 5 (poisoned.contains r)) 6 par
    setBit m 0 (concealBits m)) n 0

/-- The plane `now` of rows of `w` samples, with concealed rows from `old`, or of samples `grey` without one: CTU rows have `ctb` of
its rows (R294). -/
def concealPlane (w ctb h : Nat) (map : List Nat) (grey : BitVec 10) (old : Option (List (BitVec 10))) (now : List (BitVec 10)) :
    List (BitVec 10) :=
  tabulate (fun j => if bitOf (map.getD (j / max 1 w / max 1 ctb) 0) 0 then (old.map (fun l => l.getD j grey)).getD grey
    else now.getD j 0) (w * h) 0

/-- The picture that is shown and kept for reference: concealed rows come from the previous output picture, or are mid-grey. -/
def conceal (s : State) (i : Nat) (d : Decoded) (map : List Nat) : Picture :=
  let w := fget s (VCC_SLOT_GEOM_WIDTH i)
  let h := fget s (VCC_SLOT_GEOM_HEIGHT i)
  let ctb := ctbOf s i d.ctb
  let grey : BitVec 10 := if fget s (VCC_SLOT_CFG_PROFILE i) = 1 then 512 else 128
  let prev := (slotGet s i).prev
  { luma := concealPlane w ctb h map grey (prev.map Picture.luma) d.luma
    cb := concealPlane (w / 2) (ctb / 2) (h / 2) map grey (prev.map Picture.cb) d.cb
    cr := concealPlane (w / 2) (ctb / 2) (h / 2) map grey (prev.map Picture.cr) d.cr }

/-! ### Steps 1 to 3 of R287 -/

/-- A chroma sample at luma place (x, y), times 2^16. Bilinear interpolation gives a value from the least to the greatest of the
samples around; where they differ it is an open value, as the siting and the rounding are not stated (log 36). -/
def chromaAt (free w h : Nat) (plane : List (BitVec 10)) (x y : Nat) : Nat :=
  let cw := max 1 (w / 2)
  let ch := max 1 (h / 2)
  let other := fun (a n : Nat) => if a % 2 = 0 then a / 2 - 1 else min (n - 1) (a / 2 + 1)
  let v := fun (a b : Nat) => (plane.getD (min (ch - 1) b * cw + min (cw - 1) a) 0).toNat
  let l := [v (x / 2) (y / 2), v (other x cw) (y / 2), v (x / 2) (other y ch), v (other x cw) (other y ch)]
  let lo := l.foldl min (v (x / 2) (y / 2))
  let hi := l.foldl max lo
  if lo = hi then lo * 2 ^ 16 else lo * 2 ^ 16 + Config.freeAt free (y * w + x) % ((hi - lo) * 2 ^ 16 + 1)

/-- Kr, Kg and Kb of a colour matrix, times 10 000: BT.709, BT.601, or of the VUI, BT.709 where it names none (R299; the
coefficients are the standards', PRESUMED). -/
def lumaCoef (color : Nat) (matrix : BitVec 8) : Int × Int × Int :=
  let m := if color = 1 then 1 else if color = 2 then 6 else matrix.toNat
  if m = 5 ∨ m = 6 then (2990, 5870, 1140) else if m = 9 then (2627, 6780, 593) else (2126, 7152, 722)

/-- The components of a pixel in units of 1/den: Y, Cb and Cr as they are, or R, G and B by the matrix and the range, from samples
times `one`. Each is clamped to 0 to 255. -/
def pixelComps (color : Nat) (full : Bool) (matrix : BitVec 8) (one : Nat) (y cb cr : Int) : List Int × Nat :=
  let clamp := fun (den : Nat) (v : Int) => clampInt 0 (255 * one * den : Nat) v
  if color = 0 then ([y, cb, cr].map (clamp 1), one)
  else
    let k := lumaCoef color matrix
    let ay : Int := if full then 219 * 224 else 255 * 224
    let ac : Int := if full then 219 * 224 else 255 * 219
    let yy := y - (if full then 0 else 16 * one)
    let b := cb - 128 * one
    let r := cr - 128 * one
    let den := 219 * 224 * 10000 * k.2.1.toNat
    let base := ay * 10000 * k.2.1 * yy
    let out := [ base + ac * 2 * (10000 - k.1) * k.2.1 * r
      , base - ac * 2 * (k.2.2 * (10000 - k.2.2) * b + k.1 * (10000 - k.1) * r)
      , base + ac * 2 * (10000 - k.2.2) * k.2.1 * b ]
    (out.map (clamp den), one * den)

/-- An exact quotient, rounded once to FP32. -/
def ratio32 (n : Int) (d : Nat) : FVal := fdiv (.fin (decide (n < 0)) n.natAbs 0) (.fin false d 0)

/-- Component `ch` of the output picture at (x, y): the box average of SCALE over the components of the picture's pixels. -/
def outComp (s : State) (i : Nat) (d : Decoded) (pic : Picture) (ch x y : Nat) : FVal :=
  let w := fget s (VCC_SLOT_GEOM_WIDTH i)
  let h := fget s (VCC_SLOT_GEOM_HEIGHT i)
  let k := 2 ^ fget s (VCC_SLOT_OUT_SCALE i)
  let one := if fget s (VCC_SLOT_CFG_PROFILE i) = 1 then 2 ^ 18 else 2 ^ 16
  let px := (tabulate (fun j => (k * x + j % k, k * y + j / k)) (k * k) 0).map (fun (q : Nat × Nat) =>
    pixelComps (fget s (VCC_SLOT_OUT_COLOR i)) d.full d.matrix one
      ((pic.luma.getD (q.2 * w + q.1) 0).toNat * 2 ^ 16 : Nat) (chromaAt s.free w h pic.cb q.1 q.2)
      (chromaAt (s.free + 1) w h pic.cr q.1 q.2))
  ratio32 (px.foldl (fun n (e : List Int × Nat) => n + e.1.getD ch 0) 0) (k * k * (px.headD ([], 1)).2)

/-- The components of the output picture in the order of the frame tensor (R287, R288). -/
def outComps (s : State) (i : Nat) (d : Decoded) (pic : Picture) : List FVal :=
  let w := (outDims s i).1
  let h := (outDims s i).2
  tabulate (fun j =>
    if fbit s (VCC_SLOT_OUT_CHW i) then outComp s i d pic (j / (w * h)) (j % w) (j / w % h)
    else outComp s i d pic (j % 3) (j / 3 % w) (j / (3 * w))) (3 * w * h) 0

/-- Steps 4 and 5 of R287: the codes of a picture, and CLAMP. -/
def frameRow (s : State) (i : Nat) (pic : List FVal) : Row × Bool :=
  let w := (outDims s i).1
  let h := (outDims s i).2
  let chw := fbit s (VCC_SLOT_OUT_CHW i)
  let f := fget s (VCC_SLOT_OUT_FORMAT i)
  let vs := (pic.zip (tabulate (fun j => j) pic.length 0)).map (fun e =>
    let ch := if chw then e.2 / max 1 (w * h) else e.2 % 3
    fmul (fsub e.1 (val32 (fget s (VCC_SLOT_NORM_OFF i ch)))) (val32 (fget s (VCC_SLOT_NORM_SC i ch))))
  let rs := (if f = FMT_BS8 then chunks w vs else [vs]).map (rowEncode f false false)
  ({ codes := rs.flatMap (fun r => r.1.codes), scales := rs.flatMap (fun r => r.1.scales) }, rs.any Prod.snd)

/-! ### Buffers and records (R289, R291, R292) -/

/-- The buffer that is being written, or else a FREE one that may be. -/
def bufOpen (s : State) (i : Nat) : Option Nat :=
  let l := bufList (slotGet s i)
  ((l.find? (fun b => b.1.state == BUF_WRITING)).or
    (l.find? (fun b => b.1.state == BUF_FREE && !bufHeld s i b.2))).map Prod.snd

/-- While a frame that may commit, or a group, is being written, a buffer of the slot is WRITING, where one is FREE; else none is
(R289; log 36). -/
def bufAhead (i : Nat) (s : State) : State :=
  let x := slotGet s i
  if !(committable x).isEmpty || x.group.isSome || !x.ready.isEmpty then
    match bufOpen s i with
    | none => s
    | some k => slotShow i (slotUpd i (bufUpd k (fun b => { b with state := BUF_WRITING })) s)
  else if x.bufs.any (fun b => b.state == BUF_WRITING) then
    slotShow i (slotUpd i (fun y => { y with bufs := y.bufs.map (fun b =>
      if b.state = BUF_WRITING then { b with state := BUF_FREE } else b) }) s)
  else s

/-- The buffer that a new frame takes, and whether a READY one is recycled (R291). -/
def bufPick (s : State) (i : Nat) : Option (Nat × Bool) :=
  let x := slotGet s i
  match bufOpen s i with
  | some k => some (k, false)
  | none =>
    if fbit s (VCC_SLOT_CFG_DROP_OLDEST i) then
      ((bufList x).foldl (fun (m : Option (Nat × Nat)) b =>
        if b.1.state = BUF_READY ∧ bufHeld s i b.2 = false then
          match m with
          | none => some (b.1.seq, b.2)
          | some (q, k) => if serialBefore 24 b.1.seq q then some (b.1.seq, b.2) else some (q, k)
        else m) none).map (fun m => (m.2, true))
    else none

/-- The fields of a frame record (R292). -/
structure FrameRec where
  capture : Stamp
  commit : Stamp
  handle : Nat
  map : Nat
  seq : Nat
  slot : Nat
  kind : Nat
  rows : Nat
  flags : Nat
  deriving DecidableEq, Repr

/-- The frame record as a number. -/
def frameWord (r : FrameRec) : Nat :=
  r.capture.toNat * 2 ^ 192 + r.commit.toNat * 2 ^ 128 + r.handle % 2 ^ 32 * 2 ^ 96 + r.map % 2 ^ 32 * 2 ^ 64
    + r.seq % 2 ^ 24 * 2 ^ 40 + r.slot * 2 ^ 34 + r.kind * 2 ^ 32 + r.rows % 2 ^ 16 * 2 ^ 16 + r.flags % 2 ^ 10

/-- Orders 4 and 5 of R292, with the slot's status, its trace record (R244), its record in the input
log (R465) and the next frame number. -/
def framePost (i : Nat) (r : FrameRec) (s : State) : State :=
  let p := slotPart s i
  let s := slotUpd i (fun x => { x with seq := (x.seq + 1) % 2 ^ 24 }) s
  let s := fset (VCC_SLOT_STATUS_SEQ i) r.seq (fset (VCC_SLOT_STATUS_FLAGS i) (frameWord r % 2 ^ 16) s)
  let s := postAsync p { typ := 4, status := 0, tag := 0, value := 0, stamp := s.now, payload := frameWord r } (traceFree 0x15 p 9 s)
  let s := frameMark p (frameWord r) s
  let src := fget s (VCC_SLOT_CFG_EVT_SRC i)
  if src = 0 then s else edcRing 4 (some p) false src s

/-- Buffer `k` of slot `i` is registered with fresh handles: a frame of `size` bytes, and a map of `rows` bytes, none for a group
(R289). Its previous handles are retired. -/
def bufRegister (i k size rows : Nat) (cap : Stamp) (s : State) : State :=
  match (slotGet s i).bufs[k]? with
  | none => s
  | some b =>
    let s := dropTensor b.mapHandle (dropTensor b.handle s)
    let h := s.nextHandle
    let s := tensorAdd (frameTensor s i k size b.home cap) s
    let m := s.nextHandle
    let s := tensorAdd (frameTensor s i (8 + k) rows b.mapHome cap) s
    let seq := (slotGet s i).seq
    slotUpd i (bufUpd k (fun b => { b with state := BUF_READY, handle := h, mapHandle := m, seq := seq })) s

/-- The drop of a frame, or the recycling of a buffer (R291, R301). -/
def frameDropped (i : Nat) (s : State) : State := raise .vccDrop i s

/-- Commits what `write` puts into a buffer's memory for frame record `r` (R292): the buffer that R291 gives, its write,
its handles, the record and the signal. -/
def frameFinish (i size rows : Nat) (r : FrameRec) (write : Nat → Nat → State → State) (s : State) : State :=
  match bufPick s i with
  | none => framePost i { r with flags := setBit r.flags 3 true } (frameDropped i (statInc VCC_STAT_DROPPED s))
  | some (k, again) =>
    let s := if again then frameDropped i s else s
    match (slotGet s i).bufs[k]? with
    | none => s
    | some b =>
      let s := bufRegister i k size rows r.capture (write b.home b.mapHome s)
      let nb := ((slotGet s i).bufs[k]?).getD b
      let s := autoRelease i (statInc VCC_STAT_FRAMES s)
      framePost i { r with handle := nb.handle, map := nb.mapHandle } s

end Sys2Proof.Machine
end

