-- ==== Sys2Proof/Machine/Journal.lean ====
section
/-!
DEFINITION. The journal: writing, committing, flushing and compacting (R436 to R440, R444; log 45).
-/
namespace Sys2Proof.Machine

/-- Bytes of a record in its area with padding, trailer and commit mark (R437). A payload takes 8 bytes a value (log 45). -/
def jrecBytes (r : JRec) : Nat := 32 + ceilDiv (8 * r.data.length) 16 * 16 + 16 + 16

/-- A record that stands later supersedes `r`: one of the same TYPE, KEY and FMT, or a DELETE of the item (R439). -/
def jLater (r x : JRec) : Bool := r.typ == x.typ && r.key == x.key && (r.fmt == x.fmt || x.del)

/-- What R439 keeps of records in the order of their SEQ: the latest of each TYPE, KEY and FMT; a DELETE removes its item. -/
def jKept : List JRec → List JRec
  | [] => []
  | r :: l => if r.del || l.any (jLater r) then jKept l else r :: jKept l

/-- Journal area 0 (A) or 1 (B). -/
def jArea (s : State) (a : Nat) : JArea := if a = 0 then s.jArea0 else s.jArea1

/-- Replaces a journal area. -/
def jPut (a : Nat) (x : JArea) (s : State) : State := if a = 0 then { s with jArea0 := x } else { s with jArea1 := x }

/-- Fill of an area of 2 GiB in percent, rounded down. -/
def jFill (x : JArea) : Nat := x.recs.foldl (fun n r => n + jrecBytes r) 0 * 100 / 2 ^ 31

/-- FW_JOURNAL shows the epoch, the fill and the active area (R448). -/
def journalShow (s : State) : State :=
  fset FW_JOURNAL_JRN_EPOCH s.fw.jrnEpoch (fset FW_JOURNAL_FILL_PCT (jFill (jArea s s.jActive)) (fset FW_JOURNAL_AREA s.jActive s))

/-- Changes the firmware's record. -/
def updFw (f : FwSt → FwSt) (s : State) : State := { s with fw := f s.fw }

/-- A write of the replay-protected block that does `f`; one that the device refuses records ST_RPMB_FAIL (R426). -/
def rpmbWrite (f : State → State) (s : State) : State :=
  if Config.rpmbRefuses s.free then journalCode ST_RPMB_FAIL (freeUse 1 s) else f (freeUse 1 s)

/-- Step 4 of R440: JRN_EPOCH takes the epoch of the active area, and the other area is unmapped. -/
def journalStep4 (s : State) : State :=
  rpmbWrite (fun s => jPut (1 - s.jActive) { recs := [], epoch := none }
    (updFw (fun w => { w with jrnEpoch := ((jArea s s.jActive).epoch).getD w.jrnEpoch }) s)) s

/-- The records of a checkpoint: those kept, in fresh SEQ order. After CONFIRM, records in a format that the running bundle
does not read are dropped (R444, R445). -/
def checkpoint (s : State) : List JRec :=
  let l := (jKept (jArea s s.jActive).recs).filter (fun r => r.typ != 0x10 && (s.fw.oldFmt.isSome || decide (r.fmt ≤ s.fw.jfmt)))
  (l.zip (tabulate (fun i => i) l.length s.jSeq)).map (fun x => { x.1 with seq := x.2 })

/-- Compaction (R440): the checkpoint and its mark in the other area, then step 4. A step 4 that is still due comes first. -/
def journalCompact (s : State) : State :=
  if (jArea s s.jActive).epoch = some (s.fw.jrnEpoch + 1) then journalStep4 s
  else
    let e := s.fw.jrnEpoch + 1
    let l := checkpoint s
    let mark : JRec := { typ := 0x10, fmt := s.fw.jfmt, key := e, del := false, seq := s.jSeq + l.length, stamp := s.now, data := [] }
    let s := jPut (1 - s.jActive) { recs := l ++ [mark], epoch := some e } { s with jSeq := s.jSeq + l.length + 1 }
    journalStep4 (statInc FW_STAT_COMPACTIONS { s with jActive := 1 - s.jActive })

/-- Records are committed: their commit marks stand (R438); at 75 % the area is compacted. In SAFE the flush is complete, and
Flask loses power, once nothing is pending (R31, R365). -/
def journalCommitted (l : List JRec) (s : State) : State :=
  let a := jArea s s.jActive
  let s := jPut s.jActive { a with recs := a.recs ++ l } s
  let s := if l.isEmpty then s else statAdd FW_STAT_RECORDS l.length s
  let s := if 75 ≤ jFill (jArea s s.jActive) then journalCompact s else s
  let s := journalShow s
  if mode s = MODE_SAFE ∧ s.jGathered = [] ∧ s.jWritten = [] then { s with power := { s.power with flushBy := none } } else s

/-- A flush commits every record still pending (R438). -/
def journalFlush (s : State) : State :=
  let l := s.jWritten ++ s.jGathered
  journalCommitted l { s with jWritten := [], jGathered := [] }

/-- Records that are not committed are lost with Flask's power (R476). -/
def journalDrop (s : State) : State := { s with jGathered := [], jWritten := [] }

/-- Steward firmware runs. -/
def stewardUp (s : State) : Bool := s.helm.n.up || s.helm.s.up

/-- JOURNAL_WRITE: the records gathered in 1 ms go to Flask in one write (R438; log 7). -/
def execJournalWrite (dt : Nat) (s : State) : Res :=
  let s := elapse dt s
  if flaskOn s && stewardUp s then .next { s with jWritten := s.jWritten ++ s.jGathered, jGathered := [] } else .next s

/-- JOURNAL_COMMIT: that write has completed, and its commit marks are written (R438). -/
def execJournalCommit (dt : Nat) (s : State) : Res :=
  let s := elapse dt s
  if flaskOn s && stewardUp s then .next (journalCommitted s.jWritten { s with jWritten := [] }) else .next s

end Sys2Proof.Machine
end

