-- ==== Sys2Proof/Machine/FwOps.lean ====
section
/-!
DEFINITION. Firmware bundles (R427, R428), boot records (R429), and what the FW block shows (R448; log 16).
-/
namespace Sys2Proof.Machine

/-! ### Bundles -/

/-- Image region 0 (A) or 1 (B). -/
def fwRegion (s : State) (r : Nat) : Region := if r = 0 then s.fw.regionA else s.fw.regionB

/-- Byte `o` of the bundle area of a region, from the bundle's first byte on. -/
def regionByte (s : State) (r o : Nat) : Byte :=
  match mapGet none (fwRegion s r).bytes o with
  | some b => b
  | none => if (fwRegion s r).shipped then BitVec.ofNat 8 (Config.shipped o) else 0

/-- Replaces a region. -/
def regionPut (r : Nat) (x : Region) (s : State) : State :=
  updFw (fun w => if r = 0 then { w with regionA := x } else { w with regionB := x }) s

/-- Bytes written to a region from offset `o` on. -/
def regionWrite (r o : Nat) (bs : List Byte) (s : State) : State :=
  let x := fwRegion s r
  regionPut r { x with bytes := (bs.zip (tabulate (fun i => i) bs.length o)).foldl (fun m b => mapSet none m b.2 (some b.1)) x.bytes } s

/-- Bytes [a, a + n) of a bundle. -/
def bundleBytes (g : Nat → Byte) (a n : Nat) : List Byte := tabulate g n a

/-- A little-endian field of a bundle's header. -/
def bundleField (g : Nat → Byte) (a n : Nat) : Nat := ofLe (bundleBytes g a n)

/-- An image keeps its limit, and its SHA-512 equals its hash field (R428 check 5). -/
def imageOk (g : Nat → Byte) (desc hash limit : Nat) : Bool :=
  let len := bundleField g (desc + 4) 4
  decide (len ≤ limit) && sha512 (bundleBytes g (bundleField g desc 4) len) == bundleBytes g hash 64

/-- The checks of R428, in their order. -/
def bundleOk (g : Nat → Byte) : Bool :=
  bundleField g 0 4 == 0x4C444E42 && bundleField g 4 2 == 1
    && (bundleBytes g 22 2 ++ bundleBytes g 168 88 ++ bundleBytes g 2316 1780).all (· == 0)
    && ofBe (sha512 (bundleBytes g 256 516)) == Config.rootHash
    && pssOk (bundleField g 256 512) (bundleField g 768 4) (bundleField g 1292 512) (bundleBytes g 772 520)
    && pssOk (bundleField g 776 512) (bundleField g 1288 4) (bundleField g 1804 512) (bundleBytes g 0 1804)
    && imageOk g 24 40 262144 && imageOk g 32 104 1048576

/-- The Trailhead ROM accepts the bundle of a region: the one it was shipped with, or one that passes R428 (log 16). -/
def accepts (s : State) (r : Nat) : Bool :=
  ((fwRegion s r).shipped && (fwRegion s r).bytes.isEmpty) || bundleOk (regionByte s r)

/-- A field of the header of a region's bundle. -/
def regionField (s : State) (r a n : Nat) : Nat := bundleField (regionByte s r) a n

def bundleSvn (s : State) (r : Nat) : Nat := regionField s r 8 4
def bundleVersion (s : State) (r : Nat) : Nat := regionField s r 12 4
def bundleJfmt (s : State) (r : Nat) : Nat := regionField s r 16 2
def bundleMirror (s : State) (r : Nat) : Nat := regionField s r 18 2
def bundleMirrorMin (s : State) (r : Nat) : Nat := regionField s r 20 2

/-! ### Boot records -/

/-- The boot record in force: the copy with the higher SEQ whose CRC is good (R429). -/
def bootRec (s : State) : BootRec :=
  let a := s.fw.rec0
  let b := s.fw.rec1
  if a.crcOk && (!b.crcOk || decide (b.seq ≤ a.seq)) then a else b

/-- A boot record is written, copy 0 first, with the next SEQ; FW_STATUS.TRIAL shows its TRIAL. -/
def bootRecWrite (f : BootRec → BootRec) (s : State) : State :=
  let r := { f (bootRec s) with seq := (bootRec s).seq + 1, crcOk := true }
  fset FW_STATUS_TRIAL (b2n r.trial) (updFw (fun w => { w with rec0 := r, rec1 := r }) s)

/-! ### What the FW block shows -/

/-- The running region and its bundle are shown. -/
def fwShow (s : State) : State :=
  let r := s.fw.running
  fset FW_STATUS_ACTIVE r (fset FW_STATUS_TRIAL (b2n (bootRec s).trial)
    (fset FW_ACTIVE_VERSION (bundleVersion s r) (fset FW_ACTIVE_SVN (bundleSvn s r) s)))

/-- Nothing is known of the idle region. -/
def idleForget (s : State) : State := fset FW_STATUS_IDLE_OK 0 (regSet FW_IDLE 0 s)

/-- The idle region is checked (R441): FW_IDLE names an accepted bundle, and IDLE_OK one whose SVN is at least FW_SVN. -/
def idleVerify (s : State) : State :=
  let r := 1 - s.fw.running
  if accepts s r then
    fset FW_STATUS_IDLE_OK (b2n (decide (s.fw.fwSvn ≤ bundleSvn s r)))
      (fset FW_IDLE_VERSION (bundleVersion s r) (fset FW_IDLE_SVN (bundleSvn s r) s))
  else idleForget s

/-- Region `r` is what runs; the journal formats follow (R439, R444). -/
def fwRuns (r : Nat) (s : State) : State :=
  let old := if (bootRec s).trial && accepts s (1 - r) then some (bundleJfmt s (1 - r)) else none
  fwShow (updFw (fun w => { w with running := r, jfmt := bundleJfmt s r, oldFmt := old }) s)

end Sys2Proof.Machine
end

