-- ==== Sys2Proof/Machine/SelfTest.lean ====
section
/-!
DEFINITION. Self-test in READY, RUN and MAINT (R391 to R398, R402; log 40).
-/
namespace Sys2Proof.Machine

/-- Clusters that are tested or wait for their test. -/
def bistWaits (s : State) (c : Nat) : Bool := s.bist.queue.any (fun x => x.1 == c)

/-- Without cluster `c` its partition could not hold its slot space and scratch (R397, R251). -/
def bistCrowds (s : State) (c : Nat) : Bool :=
  match ownerOf s c with
  | none => false
  | some p =>
    let pt := partOf s p
    let n := popCount 8 (fget s (SEC_PART_CLUSTERS p) &&& serviceMask s)
    let left := if bitOf (serviceMask s) c then n - 1 else n
    decide (8 * (6 * 1048576 - 131072) * left < pt.slotSpace + pt.scratchBytes)

/-- A request is refused in whole (R397). -/
def bistRefused (s : State) (v : Nat) : Bool :=
  let k := fieldGet v 10 8
  let cs := (tabulate (fun c => c) 8 0).filter (bitOf v)
  k == 0 || decide (4 < k) || (bitOf v 28 && mode s != MODE_MAINT)
    || cs.any (fun c => bitOf (fget s BIST_STATUS_IN_RESET) c || bistCrowds s c)

/-- A write of BIST_CTRL.GO. SHARED in MAINT asks for every cluster and the codec, ACX and both Stewards (R398). -/
def bistAsk (v : Nat) (s : State) : State :=
  if mode s != MODE_READY && mode s != MODE_RUN && mode s != MODE_MAINT then s
  else if bistRefused s v then
    rasLog { typ := 0x0B, unit := ((tabulate (fun c => c) 8 0).find? (bitOf v)).getD 0xFF, code := ST_SELFTEST_REFUSED } (fset BIST_STATUS_CFG_REJECT 1 s)
  else
    let all := bitOf v 28
    let cs := (tabulate (fun c => c) 8 0).filter (fun c => (all || bitOf v c) && !bistWaits s c)
    let s := updBist (fun b => { b with
      queue := b.queue ++ cs.map (fun c => (c, fieldGet v 10 8))
      sharedQueue := if all then b.sharedQueue ++ [1, 2, 6, 7].filter (fun i => !b.sharedQueue.contains i) else b.sharedQueue }) s
    bistShow (bistStart s)

/-- A write of BIST_CTRL.MAINT_ENTER: MAINT is asked for (R398). -/
def maintAsk (s : State) : State :=
  if mode s == MODE_READY || mode s == MODE_RUN then updBist (fun b => { b with enterPending := true }) s else s

/-- MAINT is entered once admission has stopped and no step is open (R398). -/
def maintGo (s : State) : State :=
  if s.bist.noAdmit && !anyStepOpen s && (mode s == MODE_READY || mode s == MODE_RUN) then
    setMode MODE_MAINT (updBist (fun b => { b with passedLogic := 0, passedCalib := 0, enterPending := false }) s)
  else s

/-- A write of BIST_CTRL.MAINT_EXIT (R398). -/
def maintLeaveAsk (s : State) : State :=
  if mode s == MODE_MAINT then maintLeave (updBist (fun b => { b with exitPending := true }) s) else s

/-- A write of BIST_CTRL (R402). -/
def bistCtrlWrite (v : Nat) (s : State) : State :=
  let s := fset BIST_CTRL_KIND (fieldGet v 10 8) (fset BIST_CTRL_CLUSTERS (fieldGet v 7 0) s)
  let s := if bitOf v 31 then bistAsk v s else s
  let s := if bitOf v 30 then maintAsk s else s
  if bitOf v 29 then maintLeaveAsk s else s

/-- Nanoseconds that a test takes (R390, R391, R396). -/
def testNs (block kind : Nat) : Nat :=
  1000000 * (if block < 8 then [0, 180, 120, 300, 60].getD kind 0 else [50, 60, 70, 60, 40, 20, 25, 25].getD (block - 8) 0)

/-! ### The end of a test -/

/-- The latest memory failure is reported in BIST_MFAIL. -/
def memFailShow (r : BistResult) (s : State) : State :=
  match r.mfail with
  | none => s
  | some w => regSet BIST_MFAIL (w.toNat / 2 ^ 24 * 2 ^ 24) s

/-- The cluster of a word that is queued for repair. -/
def wordCluster (w : Nat × Nat × Nat) : Nat := if w.1 = 1 then w.2.1 / 8 else w.2.1

/-- RAS_SRAM_QUEUE shows the words that wait. -/
def sramShow (s : State) : State := regSet RAS_SRAM_QUEUE (min 65535 s.repairQueue.length) s

/-- The journal's record of cluster `c`: repairs, the last results, and the words queued (R385, R391, R394). -/
def journalSram (c : Nat) (s : State) : State :=
  journal 0x05 c false (regGet s (BIST_RESULT c)
    :: ((s.repairQueue.filter (fun w => wordCluster w == c)).flatMap (fun w => [w.1, w.2.1, w.2.2]))) s

/-- A memory test of cluster `c` programs repairs, the words queued for it among them (R391). -/
def repairsDone (c n : Nat) (s : State) : State :=
  let had := s.repairQueue.any (fun w => wordCluster w == c)
  let s := { s with repairQueue := s.repairQueue.filter (fun w => wordCluster w != c) }
  let s := fset (BIST_RESULT_SPARES_USED c) (min 65535 (fget s (BIST_RESULT_SPARES_USED c) + n)) s
  let s := if n = 0 then s else statAdd BIST_STAT_REPAIRS n s
  if had || n != 0 then journalSram c (sramShow s) else s

/-- The four hot spots of cluster `c` are calibrated anew (R396). -/
def calibDone (c : Nat) (s : State) : State := [0, 1, 2, 3].foldl (fun s k => journalSpot (4 * c + k) s) s

/-- Cluster `c` passes the tests of `k`. -/
def clusterPass (c k : Nat) (s : State) : State :=
  let x := kindParts k
  let s := fset (BIST_RESULT_SIG c) 0 (bistResult c k 1 1 1 s)
  let s := updBist (fun b => { b with
    returning := b.returning ||| 2 ^ c
    passedLogic := if x.1 && mode s == MODE_MAINT then b.passedLogic ||| 2 ^ c else b.passedLogic
    passedCalib := if x.2.2 && mode s == MODE_MAINT then b.passedCalib ||| 2 ^ c else b.passedCalib }) s
  let s := if x.2.2 then calibDone c s else s
  let s := bistReset_ c false s
  if bitOf (fget s GEN_AVAIL_CLUSTERS_OK) c then s
  else availChanged (fset GEN_AVAIL_CLUSTERS_OK (setBit (fget s GEN_AVAIL_CLUSTERS_OK) c true) s)

/-- The result of a failed test says memory where a word failed that no spare serves, or where only memory was tested. -/
def memFailed (k : Nat) (r : BistResult) : Bool :=
  let x := kindParts k
  x.2.1 && (!x.1 || (match r.mfail with
    | none => false
    | some w => !w.getLsbD 24))

/-- Cluster `c` fails: it stays in reset and out of service (R394). -/
def clusterFail (c k : Nat) (r : BistResult) (s : State) : State :=
  let m := memFailed k r
  let s := bistResult c k (if m then 1 else 2) (if m then 2 else 1) 2 s
  let s := fset (BIST_RESULT_SIG c) (if (kindParts k).1 && !m then r.sig.toNat % 2 ^ 32 else 0) s
  let s := updBist (fun b => { b with
    passedLogic := setBit b.passedLogic c false, passedCalib := setBit b.passedCalib c false }) (bistReset_ c true s)
  let s := statInc BIST_STAT_FAILS (bistLog c ST_BIST_FAIL s)
  let s := journalSram c s
  let s := if bitOf (fget s GEN_AVAIL_CLUSTERS_OK) c then
      availChanged (fset GEN_AVAIL_CLUSTERS_OK (setBit (fget s GEN_AVAIL_CLUSTERS_OK) c false) s)
    else s
  raise .bistFail c s

/-- Shared block `i` fails: SAFE for a block of R24; a Steward that fails stays down (log 40). -/
def sharedFail (i : Nat) (s : State) : State :=
  let s := statInc BIST_STAT_FAILS (bistLog (8 + i) ST_BIST_FAIL (sharedResult i 2 s))
  let s := raise .bistFail (8 + i) (journalCode ST_BIST_FAIL s)
  if i < 6 then safeEnter ST_BIST_FAIL s else s

/-- Shared block `i` passes; a Steward starts again from its image. -/
def sharedPass (i : Nat) (s : State) : State :=
  let s := sharedResult i 1 s
  if i = 6 then stewUp .s s else if i = 7 then stewUp .n s else s

/-- The test that runs ends with `r`; the next one starts. -/
def testEnd (t : BistRun) (r : BistResult) (s : State) : State :=
  let s := statInc BIST_STAT_RUNS (updBist (fun b => { b with run := none }) s)
  let s := if t.block < 8 then
      let s := memFailShow r (regSet (BIST_STAMP t.block) s.now.toNat s)
      let s := if (kindParts t.kind).2.1 then repairsDone t.block r.repairs s else s
      if r.pass then clusterPass t.block t.kind s else clusterFail t.block t.kind r s
    else if r.pass then sharedPass (t.block - 8) s else sharedFail (t.block - 8) s
  bistShow (maintLeave (bistStart s))

/-! ### The commands -/

/-- BIST_GO. -/
def execBistGo (v : BitVec 32) (s : State) : Res :=
  if dieOn s then .next (bistCtrlWrite (fieldSet v.toNat 31 31 1) s) else .next s

/-- MAINT_ENTER. -/
def execMaintEnter (v : BitVec 32) (s : State) : Res :=
  if dieOn s then .next (bistCtrlWrite (fieldSet v.toNat 30 30 1) s) else .next s

/-- MAINT_ENTRY. -/
def execMaintEntry (dt : Nat) (s : State) : Res := .next (maintGo (elapse dt s))

/-- MAINT_EXIT. -/
def execMaintExit (v : BitVec 32) (s : State) : Res :=
  if dieOn s then .next (bistCtrlWrite (fieldSet v.toNat 29 29 1) s) else .next s

/-- BIST_TEST_COMPLETE: the test under way has run its time. -/
def execBistTestComplete (dt : Nat) (r : BistResult) (s : State) : Res :=
  let s := elapse dt s
  match s.bist.run with
  | none => .next s
  | some t => if testNs t.block t.kind ≤ since s t.startedAt then .next (testEnd t r s) else .next s

end Sys2Proof.Machine
end

