-- ==== Sys2Proof/Machine/Replay.lean ====
section
/-!
DEFINITION. Replay of the journal at BOOT (R432, R435, R436, R439, R440; log 45): what each type of record restores.
-/
namespace Sys2Proof.Machine

/-- The area that replay selects (R440): one whose checkpoint mark carries the epoch JRN_EPOCH + 1, or JRN_EPOCH. -/
def jSelect (s : State) : Option Nat :=
  match [0, 1].find? (fun a => (jArea s a).epoch == some (s.fw.jrnEpoch + 1)) with
  | some a => some a
  | none => [0, 1].find? (fun a => (jArea s a).epoch == some s.fw.jrnEpoch)

/-- The records that replay keeps of area `a`: those of a FMT that the running bundle reads (R439; log 45). -/
def jReplayed (s : State) (a : Nat) : List JRec :=
  (jKept (jArea s a).recs).filter (fun r => decide (r.fmt ≤ s.fw.jfmt))

/-- The value number `i` of a record. -/
def jVal (r : JRec) (i : Nat) : Nat := r.data.getD i 0

/-- The types that R436 marks early. -/
def jEarly (r : JRec) : Bool := [0x02, 0x04, 0x05, 0x06, 0x08, 0x0D, 0x0E].contains r.typ

/-! ### One record -/

/-- A setting: the RW fields of its register, and of THM_STATUS the bit that the journal keeps (R373). -/
def replaySetting (o v : Nat) (s : State) : State :=
  let mask := if o = THM_STATUS then 2 ^ 6 else ((regInfo o).map RegInfo.rw).getD 0
  regSet o (mergeBits (regGet s o) mask v) s

/-- Health of an engine, or of the four engines of a core (R383). -/
def replayHealth (r : JRec) (s : State) : State :=
  if r.key < 256 then healthPut r.key { state := jVal r 0, limit := jVal r 1, excluded := jVal r 2 } s
  else (tabulate (fun e => e) 4 (4 * (r.key - 256))).foldl (fun s e => healthPut e { healthOf s e with state := 2 } s) s

/-- Values taken three at a time. -/
def triples : List Nat → List (Nat × Nat × Nat)
  | a :: b :: c :: l => (a, b, c) :: triples l
  | _ => []

/-- Repairs of a cluster and the words queued in it (R385, R391). -/
def replaySram (r : JRec) (s : State) : State :=
  let s := fset (BIST_RESULT_SPARES_USED r.key) (fieldGet (jVal r 0) 47 32) s
  sramShow { s with repairQueue := s.repairQueue ++ (triples (r.data.drop 1)).filter (fun w => !s.repairQueue.contains w) }

/-- Suspect marks of a hot spot (R359, R360). -/
def replaySpot (r : JRec) (s : State) : State :=
  fset (THM_HS_DIODE_SUSPECT r.key) (jVal r 0) (fset (THM_HS_RING_SUSPECT r.key) (jVal r 1) (fset (THM_HS_BOTH_BAD r.key) (jVal r 2) s))

/-- Thermal cycle counts and LIFE_PPM, which Lantern has lost only with auxiliary power (R371). -/
def replayCycles (r : JRec) (s : State) : State :=
  if s.power.fresh then
    let s := regSet THM_LIFE (jVal r 0) s
    let s := (tabulate (fun i => i) 8 0).foldl (fun s i => fset (THM_CYCLE_HALF_CYCLES i) (jVal r (i + 1)) s) s
    updTherm (fun t => { t with lifeMark := lifeMarks (jVal r 0) }) s
  else s

/-- A partition with its windows (R404, R407). A window that was being scrubbed is clean: its contents went with power. -/
def replayPart (r : JRec) (s : State) : State :=
  let s := partMake r.key (jVal r 0) s
  (tabulate (fun w => w) 8 0).foldl (fun s w =>
    let v := jVal r (w + 1)
    fset (SEC_WIN_EN r.key w) (fieldGet v 63 63) (fset (SEC_WIN_BASE r.key w) (fieldGet v 37 26)
      (fset (SEC_WIN_SIZE r.key w) (fieldGet v 25 14) s))) s

/-- The registers of a codec slot; EN marks one to be armed at the end of BOOT (R298). -/
def replaySlot (r : JRec) (s : State) : State :=
  let i := r.key
  let put := fun (o k : Nat) (s : State) =>
    let mask := ((regInfo o).map RegInfo.rw).getD 0
    regSet o (mergeBits (regGet s o) mask (jVal r k)) s
  let s := put (VCC_SLOT_GEOM i) 1 (put (VCC_SLOT_OUT i) 2 (put (VCC_SLOT_NORM i 0) 3 (put (VCC_SLOT_NORM i 1) 4
    (put (VCC_SLOT_NORM i 2) 5 (put (VCC_SLOT_NET i) 6 (put (VCC_SLOT_TIME i) 7 (put (VCC_SLOT_ENC i) 8 s)))))))
  fset (VCC_SLOT_CFG_EN i) (fieldGet (jVal r 0) 60 60) (put (VCC_SLOT_CFG i) 0 s)

/-- A frame remapped to a spare (R269). -/
def replayFrame (r : JRec) (s : State) : State :=
  { s with remapped := mapSet false s.remapped (r.key / 2 ^ 24 * (stackBytes / 4096) + r.key % 2 ^ 24) true }

/-- The register `o` takes the bits `mask` of `v`. -/
def putBits (o mask v : Nat) (s : State) : State := regSet o (mergeBits (regGet s o) mask v) s

/-- Duty and membership (R471), which the always-on island has lost only with auxiliary power. -/
def replayHlm (r : JRec) (s : State) : State :=
  if !s.power.fresh then s
  else if r.key = 0 then putBits HLM_DUTY (2 ^ 31 + 2 ^ 30 + 255) (jVal r 0) s
  else if r.key = 1 then fset HLM_JOB_JOB_EPOCH (jVal r 1) (regSet HLM_MEMBER (jVal r 0) s)
  else if r.key = 2 then
    fset HLM_QUORUM_FENCED (b2n (fbit s HLM_QUORUM_FENCED || jVal r 0 != 0))
      (fset HLM_QUORUM_EXPELLED (jVal r 1) (fset HLM_QUORUM_FENCE_EPOCH (jVal r 2) s))
  else if r.key = 3 then
    let s := (tabulate (fun m => m) 7 0).foldl (fun s m =>
      let s := regSet (HLM_MGR m) (jVal r (m + 1)) s
      if fbit s (HLM_MGR_KEY_SET m) then
        updHelm (fun h => { h with keys := mapSet none h.keys m (some (BitVec.ofNat 256 (Config.keyUnwrap (jVal r (m + 8))))) }) s
      else s) s
    fset HLM_QUORUM_Q (jVal r 0) s
  else regSet HLM_LOG_CTRL (jVal r 0) (regSet (HLM_LOG_PEER 0) (jVal r 1) (regSet (HLM_LOG_PEER 1) (jVal r 2) s))

/-- A Flask tensor takes its handle again, its object loads, and its origin stamp is an open value (R435, R421; log 6). -/
def replayFlask (r : JRec) (s : State) : State :=
  let t : Tensor :=
    { part := jVal r 1, cls := 0, size := jVal r 2, writable := jVal r 3 != 0, flask := true, object := jVal r 4, home := 0
      stamp := BitVec.ofNat 64 (freeVal s 64), kvFormat := 0, heads := 0, width := 0, hint := 0, reason := 0, declines := 0
      level := 3, access := 0, lost := false, slot := none, blocks := [], lowArmed := true, digest := 0, holder := none, moved := 0, readers := 0 }
  freeUse 1 { s with tensors := mapSet none s.tensors (jVal r 0) (some (flaskLoad s t))
                     nextHandle := max s.nextHandle (jVal r 0 + 1) }

/-- An identity setting (R27, R331, R436, R470). R436 names the fields of TYPE 0x0E and numbers none: KEY 0 for the MAC base, 1 for
ACX_MEM in GiB and 2 for the module serial are a DESIGN CHOICE; log 45. -/
def replayModule (key v : Nat) (s : State) : State :=
  if key = 0 then fset NET_MAC_BASE_BASE v s
  else if key = 1 then fset GEN_MEM_ACX_GIB v s
  else if key = 2 then regSet HLM_MODULE_ID v s
  else s

/-- What one record restores. -/
def replayRec (s : State) (r : JRec) : State :=
  if r.typ = 0x02 then fset HLM_QUORUM_FENCED 1 s
  else if r.typ = 0x03 then replaySetting r.key (jVal r 0) s
  else if r.typ = 0x04 then replayHealth r s
  else if r.typ = 0x05 then replaySram r s
  else if r.typ = 0x06 then replaySpot r s
  else if r.typ = 0x07 then replayCycles r s
  else if r.typ = 0x09 then
    fset SEC_KEYS_KEYS (setBit (regGet s SEC_KEYS) r.key true)
      { s with wrapped := mapSet none s.wrapped r.key (some (beBytes 72 (jVal r 0))) }
  else if r.typ = 0x0A then replayPart r s
  else if r.typ = 0x0B then replaySlot r s
  else if r.typ = 0x0D then replayFrame r s
  else if r.typ = 0x0E then replayModule r.key (jVal r 0) s
  else if r.typ = 0x0F then replayHlm r s
  else s

/-! ### The boot set and the whole journal -/

/-- The boot set (R432), from the area that replay selects. -/
def replayEarly (s : State) : State :=
  match jSelect s with
  | none => s
  | some a => healthShow (((jReplayed s a).filter jEarly).foldl replayRec s)

/-- The rest of the journal: partitions first, then settings and the other records, in the order of their SEQ (R435). -/
def replayRest (a : Nat) (s : State) : State :=
  let l := (jReplayed s a).filter (fun r => !jEarly r && r.typ != 0x0C)
  let s := (l.filter (fun r => r.typ == 0x0A)).foldl replayRec s
  (l.filter (fun r => r.typ != 0x0A)).foldl replayRec s

/-- The registrations of tensors held in Flask. -/
def replayObjects (s : State) : State :=
  ((jReplayed s s.jActive).filter (fun r => r.typ == 0x0C)).foldl (fun s r => replayFlask r s) s

end Sys2Proof.Machine
end

