-- ==== Sys2Proof/Machine/PowerOps.lean ====
section
/-!
DEFINITION. What power does to the die: the EDC's sleep and wake (R345, R346, R480), what outlives the die main domain (R28,
R29), the Trailhead ROM's choice (R430), RECOVERY (R446), and the removal of main power (R478; log 46).
-/
namespace Sys2Proof.Machine

/-! ### Sleep and wake of the EDC -/

/-- Registers with offsets of [lo, hi). -/
def regRange (lo hi : Nat) (s : State) : SMap (BitVec 64) := s.regs.filter (fun e => decide (lo ≤ e.1 ∧ e.1 < hi))

/-- The save into the retention registers: an active source is saved as pending (R345). -/
def edcSave (s : State) : State :=
  let pend := (tabulate (fun w => w) 32 0).foldl (fun m w =>
    mapSet 0 m w (BitVec.ofNat 64 (regGet s (EDC_PEND w) ||| regGet s (EDC_ACTIVE w)))) []
  { s with retention := some (retSeal
      { cfg := regRange (EDC_SRC_CFG 0) (EDC_SRC_CFG 1023) s, mask := regRange (EDC_MASK 0) (EDC_MASK 32) s, pend := pend
        thresh := (regRange 0x202000 0x202380 s).filter (fun e => (e.1 - 0x202000) % 0x20 == 8), crc := 0 }) }

/-- Saved registers are put back. -/
def regsPut (m : SMap (BitVec 64)) (s : State) : State := m.foldl (fun s e => regSet e.1 e.2.toNat s) s

/-- The seal of the retention registers does not fit. -/
def retBad (s : State) : Bool :=
  match s.retention with
  | none => false
  | some r => r.crc != retCrc r

/-- The restore at wake, with every ACTIVE bit and NOTIFIED flag clear; eligible sources notify afresh (R346). -/
def edcRestore (s : State) : State :=
  match s.retention with
  | none => s
  | some r =>
    let s := fset EDC_RET_STATUS_SAVED 1 { s with retention := none }
    if r.crc != retCrc r then fset EDC_RET_STATUS_CRC_BAD 1 s
    else
      let s := regsPut r.cfg (regsPut r.mask (regsPut r.thresh s))
      let s := r.pend.foldl (fun s e => regSet (EDC_PEND e.1) e.2.toNat s) s
      edcUpdate [] (fset EDC_RET_STATUS_RESTORED 1 s)

/-- WAKE# is asserted: STANDBY, and the saved pending state holds an unmasked source (R480). -/
def wakeAsserted (s : State) : Bool :=
  match s.retention with
  | none => false
  | some r => mode s == MODE_STANDBY && r.pend.any (fun e =>
      e.2.toNat - (e.2.toNat &&& (mapGet 0xFFFFFFFF r.mask (EDC_MASK e.1)).toNat) != 0)

/-! ### What outlives the die main domain -/

/-- Registers that Lantern and the always-on island keep: GEN_STATE, GEN_SLOT, the timebase, the HLM block, and the thermal
cycle counts. -/
def keptReg (o : Nat) : Bool :=
  o == GEN_STATE || o == GEN_SLOT || decide (TB_TIME ≤ o ∧ o < TK_COUNT) || decide (HLM_HELM ≤ o ∧ o < PLC_CTRL)
    || o == THM_LIFE || decide (THM_CYCLE 0 ≤ o ∧ o < THM_CYCLE 8)

/-- Firmware that lies in Flask, in RPMB, and what runs. -/
def fwKept (w : FwSt) : FwSt := { w with update := 0, rcv := [], rcvLen := 0, rcvActive := false, resetAt := 0 }

/-- Helm and membership as the always-on island and Flask keep them. -/
def helmKept (h : HelmSt) : HelmSt :=
  { h with n := stewReset, s := stewReset, log := [], peers := [], frags := [], mirror := mirrorReset }

/-- The die main domain at its reset values, save the registers that `keep` names. -/
def dieReset (keep : Nat → Bool) (s : State) : State :=
  { State.reset with
    now := s.now, cyc := s.cyc, free := s.free, regs := s.regs.filter (fun e => keep e.1), pending := s.pending
    out := s.out, events := s.events, hostMem := s.hostMem, nextHandle := s.nextHandle, flaskMem := s.flaskMem
    dueCount := s.dueCount, retention := s.retention, postNo := s.postNo
    therm := { s.therm with lowSince := none, deltaLowSince := none, deltaGoodSince := none, lostAt := none, measure := false }
    time := s.time, fw := fwKept s.fw, jArea0 := s.jArea0, jArea1 := s.jArea1, jActive := s.jActive
    jGathered := s.jGathered, jWritten := s.jWritten, jSeq := s.jSeq, jGatherAt := s.jGatherAt, helm := helmKept s.helm
    power := { s.power with phase := 0, flushBy := none, vfEnabled := false } }

/-- Both Stewards stop. -/
def stewardsDown (s : State) : State := stewDown .s (stewDown .n s)

/-! ### RECOVERY (R446) -/

/-- The module enters RECOVERY: the ROM alone runs on Steward-N, the stacks are off, and the GEN and FW blocks answer. -/
def recoveryEnter (code : Nat) (s : State) : State :=
  let s := if code = ST_OK then s else journalCode code s
  journalFlush (setMode MODE_RECOVERY (dieReset (fun o => keptReg o || decide (FW_CTRL ≤ o ∧ o < HLM_HELM)) (stewardsDown s)))

/-! ### The Trailhead ROM (R430) -/

/-- Changes power and boot. -/
def updPower (f : PowerSt → PowerSt) (s : State) : State := { s with power := f s.power }

/-- Records of state changes that Lantern kept are written with their own stamps (R12). -/
def keptWrite (s : State) : State :=
  updPower (fun p => { p with kept := [] })
    (s.power.kept.foldl (fun s x => journalAt x.2 0x01 0 false [ MODE_STANDBY, x.1] s) s)

/-- The images of region `r` start: Lantern, and both Stewards with Steward-N holding the helm. The Steward firmware reads the
boot set (R432), and θ starts from BASE (R363). -/
def romStart (r : Nat) (s : State) : State :=
  let s := fwRuns r (updFw (fun w => { w with imgN := r, imgS := r, imgL := r }) s)
  let s := fset HLM_HELM_N_HELD 0 (fset HLM_HELM_S_HELD 0 s)
  let s := helmTake .n (stewUp .s (stewUp .n s))
  let s := replayEarly (keptWrite (updPower (fun p => { p with phase := 1 }) s))
  setTheta (fget s THM_THETA_BASE * 100000000) s

/-- The ROM chooses a region, or enters RECOVERY. -/
def romBoot (s : State) : State :=
  let fall := (bootRec s).trial && decide (2 ≤ (bootRec s).tries)
  let s := bootRecWrite (fun r =>
    if fall then { r with trial := false, active := 1 - r.active }
    else if r.trial then { r with tries := r.tries + 1 } else r) s
  let s := if fall then raise .fwFallback 0 (fset FW_STATUS_FALLBACK 1 s) else s
  let a := (bootRec s).active
  match [a, 1 - a].find? (accepts s) with
  | some r => romStart r s
  | none => recoveryEnter ST_FW_NO_IMAGE s

/-- BOOT is entered. A restart that begins in BOOT (R433) leaves the module in the state that it holds: PREV, the event and the
record of R12 belong to a change. DEDUCED; log 71. -/
def enterBoot (s : State) : State := if mode s = MODE_BOOT then s else setMode MODE_BOOT s

/-- The die's PLLs start. Those whose reference is lost coast (R353), and with XO ACLK stays at 100 MHz and FCLK at 800 MHz
(R354). -/
def pllsUp (s : State) : State :=
  let s := fset CLK_STATUS_LOCK 0xFF s
  let s := if s.therm.refLost then coastGo (pllsOf .refclk) s else s
  if s.therm.xoLost then setAclk 100 (fset CLK_FCLK_CUR_MHZ 800 (coastGo (pllsOf .xo) s)) else s

/-- The die main domain comes up in BOOT (R346, R434). -/
def dieUp (s : State) : State :=
  let bad := retBad s
  let s := enterBoot (edcRestore (regSet TK_NEXT (boundaryAfter s) s))
  let s := if bad then raise .edcRestoreBad 0 s else s
  romBoot (pllsUp (updPower (fun p => { p with upAt := s.now, phase := 0 }) s))

/-! ### Removal of main power (R478) -/

/-- What Lantern keeps of a removal that leaves no record: PWR_EN 1, TRAY_PRESENT 2, a rail fault 3, auxiliary start 4. -/
def causePwr : Nat := 1
def causeTray : Nat := 2
def causeRail : Nat := 3
def causeAux : Nat := 4

/-- Main power goes. Open steps publish nothing; with `flush` the journal is flushed first, else what is not committed is lost,
and Lantern keeps the cause and the stamp of the change (R12, R476). -/
def mainOff (cause : Nat) (flush : Bool) (s : State) : State :=
  let flush := flush && flaskOn s && stewardUp s
  let s := setMode MODE_STANDBY (edcSave s)
  let s := if flush then journalFlush s
    else updPower (fun p => { p with kept := p.kept ++ [(cause, s.now)] }) (journalDrop s)
  dieReset keptReg (stewardsDown (keysClear s))

/-- PWR_EN as Lantern acts on it (R478). -/
def pwrOn (s : State) : Bool := fbit s GEN_SLOT_PWR_EN && !s.power.railLatch

end Sys2Proof.Machine
end

