-- ==== Sys2Proof/Machine/Firmware.lean ====
section
/-!
DEFINITION. Firmware: FW_WRITE and VERIFY (R441), the hitless update (R442, R443), CONFIRM and REVERT (R445), RECOVER (R446) and
the recovery download (R447; log 16).
-/
namespace Sys2Proof.Machine

/-- Bytes of a bundle that an image region has room for, behind its boot record (R425, R429). -/
def bundleRoom : Nat := 2 ^ 30 - 512

/-- FW_WRITE (R441). The offset counts from the bundle's first byte in the region that ACTIVE does not name (log 16). -/
def execFwWrite (q : QCmd) (off : BitVec 64) (addr : BitVec 64) (len : BitVec 64) (dma : Dma) (s : State) : Res :=
  runCmd (.fwWrite q off addr len dma) q false (fun s =>
    if fromVf q s then cmdFail ST_HANDLE_INVALID s
    else if bundleRoom < off.toNat + len.toNat ∨ s.fw.update ≠ 0 ∨ flaskOn s = false then cmdFail ST_CMD_INVALID s
    else
      let s := idleForget (regionWrite (1 - s.fw.running) off.toNat (dma.data.take len.toNat) s)
      if dma.ok then cmdMoved q 0 s else cmdFail ST_DMA_FAULT s) s

/-- A write of VERIFY. -/
def verifyGo (s : State) : State := if dieOn s && flaskOn s then idleVerify s else s

/-- VERIFY (R441). -/
def execFwVerify (s : State) : Res := .next (verifyGo s)

/-! ### The hitless update -/

/-- The condition of R442 that fails, 0 when none does. -/
def activateReject (s : State) : Nat :=
  let new := 1 - s.fw.running
  let own := bundleMirror s s.fw.running
  if mode s ≠ MODE_READY ∧ mode s ≠ MODE_RUN ∧ mode s ≠ MODE_FENCED then 1
  else if fbit s FW_STATUS_IDLE_OK = false then 2
  else if fbit s FW_STATUS_TRIAL then 3
  else if own < bundleMirrorMin s new ∨ bundleMirror s new < own then 4
  else if (s.bist.run.any (fun r => decide (14 ≤ r.block))) ∨ helmHeld s = false ∨ s.helm.takeover.isSome = true then 5
  else 0

/-- R443 begins toward the idle region. -/
def updateGo (s : State) : State :=
  fset FW_STATUS_UPDATING 1 (updFw (fun w => { w with update := 1, target := 1 - w.running }) s)

/-- A write of ACTIVATE; one during an update is ignored (log 16). -/
def activateGo (s : State) : State :=
  if !dieOn s || s.fw.update != 0 then s
  else
    let n := activateReject s
    let s := fset FW_STATUS_REJECT n s
    if n = 0 then updateGo s else s

/-- ACTIVATE (R442, R443). -/
def execFwActivate (s : State) : Res := .next (activateGo s)

/-- Steward `st` resets and starts on the image of region `r`, once the ROM accepts it. -/
def stewRestart (st : Steward) (r : Nat) (s : State) : State :=
  let s := updFw (fun w => match st with
    | .n => { w with imgN := r, resetAt := s.now }
    | .s => { w with imgS := r, resetAt := s.now }) (stewDown st s)
  if accepts s r then stewUp st s else s

/-- The update ends. -/
def updateEnd (s : State) : State := fset FW_STATUS_UPDATING 0 (updFw (fun w => { w with update := 0 }) s)

/-- The helm stands with `st`, or moves there where it shows MIRROR_OK. -/
def helmTo (st : Steward) (s : State) : Option State :=
  if holds s st then some s
  else if (stewGet s st).up && fbit s (stewMirror st) then some (helmMove st s) else none

/-- What a tick boundary does of R443, after order 5 of R226. -/
def fwBoundary (s : State) : State :=
  let phase := fun (n : Nat) (s : State) => updFw (fun w => { w with update := n }) s
  if s.fw.update = 1 then
    match helmTo .s s with
    | none => s
    | some s => phase 2 (stewRestart .n s.fw.target s)
  else if s.fw.update = 3 then
    match helmTo .n s with
    | none => s
    | some s => phase 4 (stewRestart .s s.fw.target s)
  else if s.fw.update = 7 then
    match helmTo .s s with
    | none => s
    | some s => updateEnd (stewRestart .n s.fw.running s)
  else s

/-- MIRROR_COMPLETE: a Steward that follows has the full mirror (R452), and R443 goes on. -/
def execMirrorComplete (dt : Nat) (st : Steward) (s : State) : Res :=
  let s := elapse dt s
  if !dieOn s || !helmHeld s || !follows s st then .next s
  else
    let s := fset (stewMirror st) 1 (mirrorTake s)
    let after := fun (w : FwSt) => if st = .n then (if w.update = 2 then 3 else w.update)
      else if w.update = 4 then 5 else if w.update = 6 then 7 else w.update
    .next (updFw (fun w => { w with update := after w }) s)

/-- EV_FW_UPDATE_FAIL: the Steward that restarted is not follower within 2 s. It restarts on the old image; a Steward that
already runs the new one goes back in the same way (log 16). -/
def execEvFwUpdateFail (dt : Nat) (s : State) : Res :=
  let s := elapse dt s
  if !dieOn s || since s s.fw.resetAt < 2000000000 then .next s
  else if s.fw.update = 2 then .next (updateEnd (stewRestart .n s.fw.running (raise .fwUpdateFail 0 s)))
  else if s.fw.update = 4 then
    .next (updFw (fun w => { w with update := 6 }) (stewRestart .s s.fw.running (raise .fwUpdateFail 0 s)))
  else .next s

/-- LANTERN_RESTART: Lantern runs the new image; the boot record names it, on trial unless R443 ran for a REVERT (R445). -/
def execLanternRestart (dt : Nat) (s : State) : Res :=
  let s := elapse dt s
  if !dieOn s || s.fw.update != 5 then .next s
  else
    let r := s.fw.target
    let trial := !(bootRec s).trial
    let s := bootRecWrite (fun b => { b with active := r, trial := trial, tries := 0 })
      (updFw (fun w => { w with imgL := r }) s)
    let s := statInc FW_STAT_UPDATES (updateEnd (idleForget (fwRuns r s)))
    .next (if trial then raise .fwTrial r s else s)

/-- A write of CONFIRM. FW_SVN does not decrease (R426). -/
def confirmGo (s : State) : State :=
  if dieOn s && mode s != MODE_RECOVERY && (bootRec s).trial && s.fw.update == 0 then
    rpmbWrite (fun s =>
      let v := max s.fw.fwSvn (bundleSvn s s.fw.running)
      bootRecWrite (fun b => { b with trial := false }) (updFw (fun w => { w with fwSvn := v, oldFmt := none }) s)) s
  else s

/-- CONFIRM (R445). -/
def execFwConfirm (s : State) : Res := .next (confirmGo s)

/-- A write of REVERT. -/
def revertGo (s : State) : State :=
  if dieOn s && mode s != MODE_SAFE && mode s != MODE_RECOVERY && (bootRec s).trial && s.fw.update == 0 then updateGo s else s

/-- REVERT (R445). -/
def execFwRevert (s : State) : Res := .next (revertGo s)

/-! ### Recovery -/

/-- A state from which RECOVERY is entered on command (R10, R446). -/
def recoverable (s : State) : Bool := dieOn s && mode s != MODE_SAFE && mode s != MODE_RECOVERY

/-- A write of RECOVER. -/
def recoverGo (s : State) : State := if recoverable s then recoveryEnter ST_OK s else s

/-- RECOVER (R446). -/
def execFwRecover (s : State) : Res := .next (recoverGo s)

/-- The length of a download is valid (R448). -/
def rcvLenOk (n : Nat) : Bool := decide (1 ≤ n ∧ n ≤ 1314816)

/-- A download of `n` bytes begins (R447). -/
def rcvStart (n : Nat) (s : State) : State :=
  fset FW_RCV_CTRL_LENGTH n (fset FW_RCV_CTRL_DONE 0 (fset FW_RCV_CTRL_RESULT 0
    (updFw (fun w => { w with rcv := [], rcvLen := n, rcvActive := true }) s)))

/-- Downloaded bytes from offset `o` of the bundle on; what lies beyond its length is dropped. -/
def rcvPut (o : Nat) (bs : List Byte) (s : State) : State :=
  if s.fw.rcvActive then
    let l := (bs.zip (tabulate (fun i => i) bs.length o)).filter (fun b => decide (b.2 < s.fw.rcvLen))
    updFw (fun w => { w with rcv := l.foldl (fun m b => mapSet 0 m b.2 b.1) w.rcv }) s
  else s

/-- The ROM checks the downloaded bundle, writes it to a region, and starts BOOT (R447). -/
def rcvFinish (s : State) : State :=
  if mode s != MODE_RECOVERY || !s.fw.rcvActive then s
  else
    let w := s.fw
    let s := fset FW_RCV_CTRL_DONE 1 (updFw (fun w => { w with rcvActive := false }) s)
    if bundleOk (mapGet 0 w.rcv) then
      let r := if accepts s 0 then 1 else 0
      let s := regionPut r { shipped := false, bytes := tabulate (fun i => (i, some (mapGet 0 w.rcv i))) w.rcvLen 0 } s
      dieUp (dieReset (fun o => keptReg o || o == FW_RCV_CTRL) (fset FW_RCV_CTRL_RESULT ST_OK s))
    else fset FW_RCV_CTRL_RESULT ST_FW_SIGNATURE s

/-- A write of FW_RCV_CTRL (R447): LENGTH, then START, then FINISH. -/
def rcvCtrlWrite (v : Nat) (s : State) : State :=
  let n := fieldGet v 20 0
  let s := fset FW_RCV_CTRL_LENGTH n s
  let s := if bitOf v 63 && mode s == MODE_RECOVERY && rcvLenOk n then rcvStart n s else s
  if bitOf v 62 then rcvFinish s else s

/-- FW_RCV_START: a write of FW_RCV_CTRL with START, by PCI Express. -/
def execFwRcvStart (v : BitVec 64) (s : State) : Res :=
  if dieOn s then .next (rcvCtrlWrite (setBit v.toNat 63 true) s) else .next s

/-- FW_RCV_FINISH: a write of FW_RCV_CTRL with FINISH. -/
def execFwRcvFinish (v : BitVec 64) (s : State) : Res :=
  if dieOn s then .next (rcvCtrlWrite (setBit v.toNat 62 true) s) else .next s

end Sys2Proof.Machine
end

