-- ==== Sys2Proof/Machine/Power.lean ====
section
/-!
DEFINITION. Power: auxiliary start and stop (R476, R477, R483), the power contacts and rail faults (R478), the main rails
(R477), and the restart out of SAFE (R10; log 46).
-/
namespace Sys2Proof.Machine

/-- What a module without auxiliary power keeps: what lies in Flask, RPMB and mask ROM; beside it, the model's own numberings and
what the host holds. -/
def auxOff (s : State) : State :=
  fset GEN_STATE_MODE MODE_OFF (fset GEN_STATE_PREV (mode s)
    { State.reset with
      free := s.free, pending := s.pending, out := s.out, events := s.events, hostMem := s.hostMem, flaskMem := s.flaskMem
      nextHandle := s.nextHandle, postNo := s.postNo, dueCount := s.dueCount, fw := fwKept s.fw
      jArea0 := s.jArea0, jArea1 := s.jArea1, jActive := s.jActive, jSeq := s.jSeq
      helm := { helmReset with lu3 := s.helm.lu3 } })

/-- AUX_STOP: OFF at once, with no record and no event (R12, R476). -/
def execAuxStop (dt : Nat) (s : State) : Res :=
  let s := elapse dt s
  if mode s = MODE_OFF then .next s else .next (auxOff s)

/-- AUX_START: STANDBY, device time from 0 (R246), and the straps are latched (R483). Lantern keeps the change for BOOT to record
(R12). -/
def execAuxStart (dt : Nat) (straps : BitVec 5) (s : State) : Res :=
  let s := elapse dt s
  if mode s ≠ MODE_OFF then .next s
  else
    let s := { auxOff s with regs := [], now := 0
                             power := { powerReset with straps := straps, kept := [(causeAux, 0)] } }
    .next (raise .stateChange MODE_STANDBY (fset GEN_SLOT_SLOT_ID straps.toNat s))

/-- A level of a power contact is taken: it has stood for 1 ms and is new (R477). -/
def contactNew (s : State) (f : Fld) (level : Bool) (stood : Nat) : Bool :=
  mode s != MODE_OFF && decide (1000000 ≤ stood) && fbit s f != level

/-- Since when a level has stood. -/
def stoodAt (s : State) (stood : Nat) : Stamp := s.now - BitVec.ofNat 64 stood

/-- PWR_EN rises: a rail fault's latch opens after 100 ms without it (R478), and a standby's take-over begins (R458). -/
def pwrRise (stood : Nat) (s : State) : State :=
  let clear := s.power.railOffSeen && decide (100000000 ≤ (stoodAt s stood - s.power.railOffAt).toNat)
  let s := updPower (fun p => { p with railLatch := p.railLatch && !clear, railOffSeen := p.railOffSeen && clear }) s
  if pwrOn s && fbit s HLM_DUTY_PAIRED && fbit s HLM_DUTY_ROLE then
    updHelm (fun h => { h with takeover := some s.now }) s
  else s

/-- PWR_EN falls: main power goes, with a flush (R478). -/
def pwrFall (stood : Nat) (s : State) : State :=
  let s := updPower (fun p => { p with railOffSeen := true, railOffAt := stoodAt s stood }) s
  if dieOn s then mainOff causePwr true s else s

/-- PWR_EN. -/
def execPwrEn (dt : Nat) (level : Bool) (stood : Nat) (s : State) : Res :=
  let s := elapse dt s
  if !contactNew s GEN_SLOT_PWR_EN level stood then .next s
  else
    let s := fset GEN_SLOT_PWR_EN (b2n level) s
    .next (if level then pwrRise stood s else pwrFall stood s)

/-- TRAY_PRESENT: its loss takes main power without a flush. -/
def execTrayPresent (dt : Nat) (level : Bool) (stood : Nat) (s : State) : Res :=
  let s := elapse dt s
  if !contactNew s GEN_SLOT_TRAY_PRESENT level stood then .next s
  else
    let s := fset GEN_SLOT_TRAY_PRESENT (b2n level) s
    .next (if !level && dieOn s then mainOff causeTray false s else s)

/-- RAIL_FAULT: a rail outside ±5 % for 100 µs. -/
def execRailFault (dt : Nat) (lasted : Nat) (s : State) : Res :=
  let s := elapse dt s
  if !dieOn s || decide (lasted < 100000) then .next s
  else
    .next (mainOff causeRail false (fset GEN_SLOT_RAIL_FAULT 1
      (updPower (fun p => { p with railLatch := true, railOffSeen := false }) s)))

/-- Lantern may enable the die main domain (R369, R477). -/
def contactsOn (s : State) : Bool := fbit s GEN_SLOT_TRAY_PRESENT && pwrOn s

/-- MAIN_POWER_UP: all rails are good; the Trailhead starts (R346, R430, R477). -/
def execMainPowerUp (dt : Nat) (s : State) : Res :=
  let s := elapse dt s
  if mode s = MODE_STANDBY ∧ contactsOn s = true then .next (dieUp s) else .next s

/-- MODULE_RESTART: the cabinet manager restarts a module in SAFE by way of BOOT (R10). -/
def execModuleRestart (dt : Nat) (s : State) : Res :=
  let s := elapse dt s
  if mode s = MODE_SAFE ∧ contactsOn s = true then
    let s := edcSave s
    let s := if flaskOn s then journalFlush s else s
    .next (dieUp (dieReset keptReg (stewardsDown s)))
  else .next s

end Sys2Proof.Machine
end

