-- ==== Sys2Proof/Machine/Boot.lean ====
section
/-!
DEFINITION. BOOT after the Trailhead (R369, R395, R417, R431 to R435, R439, R440): flow, self-test, identity, anti-rollback,
training, replay and reload, each phase as the command that reports its end.
-/
namespace Sys2Proof.Machine

/-- BOOT has reached phase `n` and waits for what ends it. -/
def inPhase (s : State) (n : Nat) : Bool := mode s == MODE_BOOT && s.power.phase == n

/-- BOOT goes on to phase `n`. -/
def toPhase (n : Nat) (s : State) : State := updPower (fun p => { p with phase := n }) s

/-- BOOT_FLOW_TIMEOUT: no flow within 2 s of power-up (R369). -/
def execBootFlowTimeout (dt : Nat) (s : State) : Res :=
  let s := elapse dt s
  if inPhase s 1 && decide (2000000000 ≤ since s s.power.upAt) && !flowShown s then
    .next (journalCode ST_FLOW_LOST (safeEnter ST_FLOW_LOST s))
  else .next s

/-! ### Self-test in BOOT (R391, R394, R395) -/

/-- The result of cluster `c`: words queued for repair are repaired by its memory test. -/
def bootCluster (r : SelfTestResult) (s : State) (c : Nat) : State :=
  let lg := r.logic.getLsbD c
  let mm := r.memory.getLsbD c
  let s := regSet (BIST_STAMP c) s.now.toNat (bistResult c 3 (if lg then 1 else 2) (if mm then 1 else 2) 0 s)
  let s := repairsDone c (s.repairQueue.filter (fun w => wordCluster w == c)).length s
  let s := if lg then fset (BIST_RESULT_SIG c) 0 s else freeUse 1 (fset (BIST_RESULT_SIG c) (freeVal s 32) s)
  if lg && mm then calibDone c (bistResult c 4 0 0 1 s)
  else
    let s := statInc BIST_STAT_FAILS (bistLog c ST_BIST_FAIL (bistReset_ c true s))
    raise .bistFail c (availChanged
      (fset GEN_AVAIL_CLUSTERS_OK (setBit (fget s GEN_AVAIL_CLUSTERS_OK) c false) (journalSram c s)))

/-- The result of shared block `i`; a Steward that fails stays down. -/
def bootShared (r : SelfTestResult) (s : State) (i : Nat) : State :=
  if r.shared.getLsbD i then sharedResult i 1 s
  else
    let s := sharedFail i s
    if i = 6 then stewDown .s s else if i = 7 then stewDown .n s else s

/-- Identity (R417, R418): the keys are derived, or the PUF has failed. -/
def idDerive (ok : Bool) (s : State) : State :=
  if ok then
    regSet SEC_ID (Config.secId % 2 ^ 64) (fset SEC_STATUS_PUF_FAIL 0 (fset SEC_STATUS_ID_READY 1 { s with idReady := true }))
  else raise .idFail 0 (fset FW_STATUS_SVN_UNCHECKED 1 (fset SEC_STATUS_PUF_FAIL 1 s))

/-- The module restarts through the ROM with region `r` as ACTIVE (R433), which is no change of state (DEDUCED; log 71). -/
def rollRestart (r : Nat) (s : State) : State :=
  dieUp (dieReset keptReg (stewardsDown (bootRecWrite (fun b => { b with active := r, trial := false, tries := 0 }) s)))

/-- The anti-rollback check (R433): a bundle below FW_SVN gives way to the other region's; where that one fails too, RECOVERY. -/
def svnCheck (s : State) : State :=
  let s := regSet FW_SVN_FLOOR s.fw.fwSvn s
  let o := 1 - s.fw.running
  if s.fw.fwSvn ≤ bundleSvn s s.fw.running then toPhase 2 s
  else if accepts s o && decide (s.fw.fwSvn ≤ bundleSvn s o) then rollRestart o (journalCode ST_FW_ROLLBACK s)
  else recoveryEnter ST_FW_ROLLBACK s

/-- The firmware unmasks EDC sources 1 to 16 (R347). -/
def edcOpen (s : State) : State :=
  edcUpdate (edcElig s) ((tabulate (fun n => n) 16 1).foldl (fun s n => edcSetBit EDC_MASK n false s) s)

/-- BOOT_SELF_TEST: flow has been confirmed, and every test has run. In each mask a set bit is a pass. -/
def execBootSelfTest (dt : Nat) (r : SelfTestResult) (s : State) : Res :=
  let s := elapse dt s
  if !inPhase s 1 || !flowShown s then .next s
  else
    let s := edcOpen (statAdd BIST_STAT_RUNS 16 s)
    let s := [0, 1, 2, 3, 4, 5, 6, 7].foldl (bootShared r) s
    if mode s ≠ MODE_BOOT then .next s
    else
      let s := [0, 1, 2, 3, 4, 5, 6, 7].foldl (bootCluster r) s
      let s := idDerive r.pufOk s
      .next (if r.pufOk then svnCheck s else toPhase 2 s)

/-! ### Training (R434, R255, R267) -/

/-- The training of stack `i` has ended. The spare frames left are an open value. -/
def bootTrain (r : List TrainResult) (s : State) (i : Nat) : State :=
  let o := r.getD i { ok := false, prevOk := false, ecs := 0 }
  let s := freeUse 1 (fset (MEM_STACK_SPARES i) (freeVal s 8) (regSet (MEM_TRAIN_STAMP i) s.now.toNat s))
  let s := fset (MEM_STACK_FAILS i) (b2n (!o.ok)) s
  if o.ok || o.prevOk then s else stackLose i s

/-- DRAM_TRAINING: all six stacks have been trained. The firmware region stands from here on (R244, R379). -/
def execDramTraining (dt : Nat) (r : List TrainResult) (s : State) : Res :=
  let s := elapse dt s
  if !inPhase s 2 then .next s
  else
    let s := regSet TB_TRACE_BASE (fwCopy0 + fwTraceOff) (regSet RAS_LOG_BASE (fwCopy0 + fwRasOff) (toPhase 3 s))
    .next ([0, 1, 2, 3, 4, 5].foldl (bootTrain r) s)

/-! ### Replay and reload -/

/-- What replay of the area that R440 selects restores; a fence accepted while the journal could not take it is recorded (R11). -/
def replayAll (s : State) : State :=
  let s := replayRest s.jActive s
  let s := if s.helm.fenceHeld then
      journal 0x02 0 false [fget s HLM_QUORUM_FENCE_EPOCH] (updHelm (fun h => { h with fenceHeld := false }) s)
    else s
  journalShow (updPower (fun p => { p with fresh := false }) (setTheta (fget s THM_THETA_BASE * 100000000) s))

/-- JOURNAL_REPLAY. A counter write that the UFS device refuses leaves BOOT where it is (R426). -/
def execJournalReplay (dt : Nat) (s : State) : Res :=
  let s := elapse dt s
  if !inPhase s 3 then .next s
  else
    match jSelect s with
    | none => .next (journalCode ST_JOURNAL_BAD (safeEnter ST_JOURNAL_BAD s))
    | some a =>
      let s := { s with jActive := a }
      let s := if (jArea s a).epoch = some (s.fw.jrnEpoch + 1) then journalStep4 s else s
      if (jArea s a).epoch = some s.fw.jrnEpoch then .next (toPhase 4 (replayAll s)) else .next s

/-- FLASK_RELOAD: the tensors registered in Flask are loaded again, with their handles (R435). -/
def execFlaskReload (dt : Nat) (s : State) : Res :=
  let s := elapse dt s
  if inPhase s 4 then .next (toPhase 5 (replayObjects s)) else .next s

/-- The capacity of the module as this BOOT sets it (R35, R36): ACX_MEM by default 8 GiB. No change in R37's sense. -/
def bootMem (s : State) : State :=
  let s := if fget s GEN_MEM_ACX_GIB = 0 then fset GEN_MEM_ACX_GIB 8 s else s
  let s := updHelm (fun h => { h with ringGib := fget s HLM_LOG_CTRL_RING_GIB }) s
  fset GEN_MEM_DRAM_PLACEABLE (placeable s) s

/-- BOOT_COMPLETE: READY, or FENCED when a fence is recorded (R11); a trial's TRIES return to 0 (R431). Codec slots that the
journal enables are armed (R298). -/
def execBootComplete (dt : Nat) (s : State) : Res :=
  let s := elapse dt s
  if !inPhase s 5 then .next s
  else
    let s := logShow (bootMem s)
    let s := (tabulate (fun i => i) 64 0).foldl (fun s i => if fbit s (VCC_SLOT_CFG_EN i) then slotTry i s else s) s
    let s := setMode (if fbit s HLM_QUORUM_FENCED then MODE_FENCED else MODE_READY) (toPhase 0 s)
    .next (if (bootRec s).trial then bootRecWrite (fun b => { b with tries := 0 }) s else s)

end Sys2Proof.Machine
end

