-- ==== Sys2Proof/Machine/Codec.lean ====
section
/-!
DEFINITION. Commands of the codec complex (R273 to R301).
-/
namespace Sys2Proof.Machine

/-- SLOT_ENABLE: a write of VCC_SLOTn_CFG with EN set (R275). -/
def execSlotEnable (slot : Fin 64) (v : BitVec 64) (s : State) : Res :=
  if dieOn s then .next (slotCfgWrite slot.val (setBit v.toNat 60 true) s) else .next s

/-- SLOT_DISABLE: a write of VCC_SLOTn_CFG with EN clear (R298). -/
def execSlotDisable (slot : Fin 64) (v : BitVec 64) (s : State) : Res :=
  if dieOn s then .next (slotCfgWrite slot.val (setBit v.toNat 60 false) s) else .next s

/-! ### Packets -/

/-- The slot's port is up and steering to its partition is on (R322 row 4). -/
def slotReached (s : State) (i : Nat) : Bool :=
  portUp s (fget s (VCC_SLOT_NET_PORT i)) && portsServe s && fbit s (NET_PART_W0_EN (slotPart s i))

/-- A new SSRC locks the slot and begins a timeline of its own, whose first frame re-anchors (R284, R286). The frame being gathered
gets no more packets, and the group closes. -/
def ssrcTake (i : Nat) (ssrc : BitVec 32) (s : State) : State :=
  let s := fset (VCC_SLOT_NET_SSRC i) ssrc.toNat s
  match (slotGet s i).ssrc with
  | none => slotUpd i (fun x => { x with ssrc := some ssrc.toNat }) s
  | some _ =>
    slotUpd i (fun x =>
      let x := groupClose x
      { x with ssrc := some ssrc.toNat, epoch := x.epoch + 1, nextSeq := none, waiting := [], ends := []
               frames := x.frames.map (fun f => if f.done then f else { f with done := true, gap := true })
               lastExt := x.lastExt.map (fun l => (l / 2 ^ 32 + 2) * 2 ^ 32) }) s

/-- The packet's SSRC may speak to the slot: the first one, the locked one, or another once that has been silent for
2 s. -/
def ssrcOk (s : State) (i : Nat) (ssrc : BitVec 32) : Bool :=
  match (slotGet s i).ssrc with
  | none => true
  | some l => l == ssrc.toNat || decide (2000000000 ≤ since s (slotGet s i).lastPkt)

/-- The stream of slot `i` is H.265. -/
def isH265 (s : State) (i : Nat) : Bool := decide (fget s (VCC_SLOT_CFG_PROFILE i) ≤ 1)

/-- The slot takes the packet into its order (R284, R285, R297). A restart begins a timeline (R286). -/
def packetPut (i : Nat) (pkt : RtpPkt) (s : State) : State :=
  let x := slotGet s i
  let s := if x.ssrc = some pkt.ssrc.toNat then s else ssrcTake i pkt.ssrc s
  let e := extendTs (slotGet s i).lastExt pkt.ts.toNat
  let s := slotUpd i (fun x => { x with
    lastExt := some e.1, lastPkt := s.now, epoch := if e.2 then x.epoch + 1 else x.epoch }) s
  let r := if fget s (VCC_SLOT_CFG_KIND i) = KIND_SENSOR then
      sensorPut s.now (reorderNs s i) (groupNs s i) (groupCap s i) e.1 pkt (slotGet s i)
    else videoPut s.now (isH265 s i) e.1 pkt (slotGet s i)
  let s := bufAhead i (slotUpd i (fun _ => r.1) s)
  if r.2 then statInc VCC_STAT_LATE s else s

/-- A datagram that is steered to slot `i` (R284), with its trace record (R244). -/
def rtpTake (i : Nat) (pkt : RtpPkt) (s : State) : State :=
  if !(slotRuns s i KIND_DECODE || slotRuns s i KIND_SENSOR) then s
  else
    let s := traceFree 0x12 (slotPart s i) 9 s
    if pkt.pt.toNat ≠ fget s (VCC_SLOT_NET_PT i) then statInc VCC_STAT_MALFORMED s
    else if !ssrcOk s i pkt.ssrc then s
    else if slotRuns s i KIND_SENSOR ∧ pkt.data.length % max 1 (recordSize s i) ≠ 0 then statInc VCC_STAT_MALFORMED s
    else packetPut i pkt s

/-- RTP_PACKET: a datagram on a port. Row 4 of R322 names the slot; one that a later row takes is an ETH_FRAME_RECEIVE. -/
def execRtpPacket (dt : Nat) (port : Fin 4) (pkt : RtpPkt) (s : State) : Res :=
  let s := elapse dt s
  if !portUp s port.val || !portsServe s then .next s
  else
    match slotTo s port.val pkt.addr pkt.udp with
    | some i => .next (rtpTake i pkt s)
    | none => .next (if noRow s port.val pkt.addr then dropFrame NET_STAT_NO_MATCH s else s)

/-- Nanoseconds of an NTP time. -/
def ntpNs (v : BitVec 64) : Nat := v.toNat / 2 ^ 32 * 1000000000 + v.toNat % 2 ^ 32 * 1000000000 / 2 ^ 32

/-- RTCP_SENDER_REPORT of the SSRC that the slot is locked to (R286). -/
def execRtcpSenderReport (dt : Nat) (slot : Fin 64) (ssrc : BitVec 32) (ntp : BitVec 64) (rtp : BitVec 32)
    (s : State) : Res :=
  let s := elapse dt s
  let i := slot.val
  if !(slotRuns s i KIND_DECODE || slotRuns s i KIND_SENSOR) || !slotReached s i then .next s
  else if (slotGet s i).ssrc.isSome ∧ (slotGet s i).ssrc ≠ some ssrc.toNat then .next s
  else
    let e := extendTs (slotGet s i).lastExt rtp.toNat
    .next (slotUpd i (fun x => { x with
      sr := some (x.epoch, ntpNs ntp, e.1, s.now), lastExt := if x.lastExt.isNone then some e.1 else x.lastExt }) s)

/-- Two frame periods of slot `i` in ns (R285). -/
def twoPeriods (s : State) (i : Nat) : Nat := 2000000000 / max 1 (fget s (VCC_SLOT_GEOM_FPS i))

/-- A frame of slot `i` that has waited long enough is complete: REORDER_MS since a later packet, or two frame periods since its
first, with its remaining rows unfinished (R285, R293). -/
def asmTimeout (s : State) (i : Nat) (f : FrameAsm) : FrameAsm :=
  let passed := f.laterAt.any (fun t => decide (reorderNs s i ≤ since s t))
  let timeout := decide (twoPeriods s i ≤ since s f.firstAt)
  if !f.done && (passed || timeout) then { f with done := true, gap := !asmWhole (slotGet s i) f, timeout := !passed } else f

/-- FRAME_COMPLETE_TIMEOUT: the times of R285 pass; in a sensor slot, a gap in the order has waited REORDER_MS (R284). -/
def execFrameCompleteTimeout (dt : Nat) (slot : Fin 64) (s : State) : Res :=
  let s := elapse dt s
  let i := slot.val
  let x := slotGet s i
  if slotRuns s i KIND_SENSOR then
    .next (bufAhead i (slotUpd i (sensorSettle s.now (reorderNs s i) (groupNs s i) (groupCap s i) x.waiting.length) s))
  else if slotRuns s i KIND_DECODE then
    .next (bufAhead i (slotUpd i (fun x => { x with frames := x.frames.map (asmTimeout s i) }) s))
  else .next s

/-! ### Commits -/

/-- The rows whose reads of reference pictures meet poisoned data, and the state that the reads leave (R269, R294). -/
def refReads (i : Nat) (d : Decoded) (s : State) : State × List Nat :=
  d.reads.foldl (fun (r : State × List Nat) e =>
    match (slotGet r.1 i).refs[e.2.1]? with
    | none => r
    | some a =>
      let m := readMet (slotPart r.1 i) (a + e.2.2.1) (min e.2.2.2 (refBytes r.1 i - e.2.2.1)) r.1
      (m.1, if m.2.isEmpty then r.2 else r.2 ++ [e.1])) (s, [])

/-- What the slot keeps of a decoded picture for the next one (R294). -/
def slotKeeps (f : FrameAsm) (d : Decoded) (pic : Picture) (rows : Nat) (x : Slot) : Slot :=
  let bad := paramBad x f d
  { x with prev := some pic, param := bad, setOk := !bad || (f.set.getD x.setOk && !d.rows.any (fun b => b.getLsbD 6))
           refDamaged := decide (0 < rows) || (x.refDamaged && !d.irap) }

/-- A frame that is complete and may commit: its damage, picture and record (R286 to R296). -/
def frameGo (i : Nat) (f : FrameAsm) (d : Decoded) (s : State) : State :=
  let c := captureOf i f s
  let s := c.2.2.2
  if !fbit s (VCC_SLOT_STATUS_IRAP_SEEN i) && !(f.starts || d.irap) then
    slotUpd i (fun x => { x with setOk := f.set.getD x.setOk, param := x.param || f.set == some false })
      (statInc VCC_STAT_DROPPED s)
  else
    let s := if fbit s (VCC_SLOT_STATUS_IRAP_SEEN i) then s
      else fset (VCC_SLOT_CFG_STATE i) 2 (fset (VCC_SLOT_STATUS_IRAP_SEEN i) 1 s)
    let r := refReads i d s
    let s := r.1
    let n := mapRows s i d.ctb
    let map := errorMap n (slotGet s i) f d r.2
    let rows := (map.filter (fun b => bitOf b 0)).length
    let pic := conceal s i d map
    let out := frameRow s i (outComps s i d pic)
    let s := freeUse 2 s
    let back := decide (1 ≤ fget s (VCC_SLOT_CFG_DIV i)) && decide (fget s (VCC_SLOT_CFG_DIV i) ≤ 3) && !d.divOk
    let s := if back then fset (VCC_SLOT_STATUS_DIV_FALLBACK i) 1 s else s
    let s := slotUpd i (slotKeeps f d pic rows) s
    let s := if rows = 0 then s
      else raise .vccDamage i (fset VCC_STATUS_DAMAGE 1 (statAdd VCC_STAT_CONCEALED_ROWS rows s))
    let flags := b2n (decide (0 < rows)) + 2 * b2n (map.any (fun b => bitOf b 3)) + 4 * b2n (map.any (fun b => bitOf b 6))
      + 16 * b2n c.2.1 + 32 * b2n c.2.2.1 + 64 * b2n out.2 + 128 * b2n back + 256 * b2n (map.any (fun b => bitOf b 4))
    let fmt := fget s (VCC_SLOT_OUT_FORMAT i)
    let size := frameSize fmt (outDims s i).1 (outDims s i).2
    let p := slotPart s i
    frameFinish i size n
      { capture := c.1, commit := s.now, handle := 0, map := 0, seq := (slotGet s i).seq, slot := i
        kind := if d.irap then 0 else 1, rows := rows, flags := flags }
      (fun home mapHome s =>
        let s := writeElems p (frameTensor s i 0 size home 0) fmt 0 out.1 s
        tensorBytesPut p (frameTensor s i 8 n mapHome 0) 0 (map.map (fun b => BitVec.ofNat 8 b)) s) s

/-- FRAME_COMMIT: of the complete frames the one that the stream's reordering puts out next (R277, R285, R292). -/
def execFrameCommit (dt : Nat) (slot : Fin 64) (d : Decoded) (s : State) : Res :=
  let s := elapse dt s
  let i := slot.val
  if !slotRuns s i KIND_DECODE then .next s
  else
    match (committable (slotGet s i))[d.order]? with
    | none => .next s
    | some f => .next (bufAhead i (frameGo i f d (slotUpd i (asmDrop f) s)))

/-- The bytes of records with each element of `n` bytes reversed (R297). -/
def swapBytes (n : Nat) (bs : List Byte) : List Byte := (chunks n bs).flatMap List.reverse

/-- A group that commits (R297). -/
def groupGo (i : Nat) (f : FrameAsm) (s : State) : State :=
  let c := captureOf i f s
  let s := if fget c.2.2.2 (VCC_SLOT_CFG_STATE i) = 1 then fset (VCC_SLOT_CFG_STATE i) 2 c.2.2.2 else c.2.2.2
  let n := fmtBits (fget s (VCC_SLOT_OUT_FORMAT i)) / 8
  let bs := f.pkts.flatMap Prod.snd
  let bs := if fbit s (VCC_SLOT_OUT_BYTESWAP i) then swapBytes n bs else bs
  let p := slotPart s i
  frameFinish i bs.length 0
    { capture := c.1, commit := s.now, handle := 0, map := 0, seq := (slotGet s i).seq, slot := i, kind := 2, rows := 0
      flags := 16 * b2n c.2.1 + 32 * b2n c.2.2.1 + 512 * b2n f.gap }
    (fun home _ s => groupMark p bs (tensorBytesPut p (frameTensor s i 0 bs.length home 0) 0 bs s)) s

/-- SENSOR_GROUP_COMMIT: a group has ended by count, marker or GROUP_MS (R297). -/
def execSensorGroupCommit (dt : Nat) (slot : Fin 64) (s : State) : Res :=
  let s := elapse dt s
  let i := slot.val
  if !slotRuns s i KIND_SENSOR then .next s
  else
    let s := slotUpd i (sensorSettle s.now (reorderNs s i) (groupNs s i) (groupCap s i) (slotGet s i).waiting.length) s
    let late := (slotGet s i).group.any (fun f => decide (groupNs s i ≤ since s f.firstAt))
    let s := if (slotGet s i).ready.isEmpty && late then slotUpd i groupClose s else s
    match (slotGet s i).ready with
    | [] => .next s
    | f :: rest => .next (bufAhead i (groupGo i f (slotUpd i (fun x => { x with ready := rest }) s)))

/-! ### Encoding (R281, R282) -/

/-- The tensor has the size that encode slot `i` codes: a frame of its width and height, or NV12 or P010 (R281). -/
def submitFits (s : State) (i : Nat) (t : Tensor) : Bool :=
  let w := fget s (VCC_SLOT_GEOM_WIDTH i)
  let h := fget s (VCC_SLOT_GEOM_HEIGHT i)
  match t.slot with
  | some (j, k) => decide (k < 8 ∨ k = 16) && outDims s j == (w, h) && fget s (VCC_SLOT_CFG_KIND j) == KIND_DECODE
  | none => t.cls == 0 && t.size == w * h * 3 / (if fget s (VCC_SLOT_CFG_PROFILE i) = 1 then 1 else 2)

/-- A submission of handle `h` to slot `i`; answers the status of a refusal. -/
def submitGo (i h : Nat) (stamp : Stamp) (s : State) : Nat × State :=
  if !slotRuns s i KIND_ENCODE then (ST_CMD_INVALID, s)
  else
    match tensorOf s (slotPart s i) h with
    | none => (ST_HANDLE_INVALID, statInc VCC_STAT_MALFORMED s)
    | some t =>
      if !submitFits s i t || decide (2 ≤ (slotGet s i).subs.length) then (ST_CMD_INVALID, statInc VCC_STAT_MALFORMED s)
      else
        let s := if fget s (VCC_SLOT_CFG_STATE i) = 1 then fset (VCC_SLOT_CFG_STATE i) 2 s else s
        (ST_OK, slotUpd i (fun x => { x with subs := x.subs ++ [(h, stamp)] }) s)

/-- VCC_SLOT_SUBMIT: a write of VCC_SLOTn_SUBMIT, with the stamp written before it. -/
def execVccSlotSubmit (slot : Fin 64) (h : BitVec 32) (s : State) : Res :=
  if dieOn s then .next (submitGo slot.val h.toNat (slotGet s slot.val).subStamp s).2 else .next s

/-- The slot of a ring command, where it is one of the command's partition (R319). -/
def slotOwn (s : State) (p n : Nat) : Bool := decide (n < 64) && fbit s (VCC_SLOT_CFG_EN n) && slotPart s n == p

/-- SUBMIT. -/
def execVccSubmit (q : QCmd) (slot : BitVec 16) (pad : BitVec 16) (h : BitVec 32) (stamp : BitVec 64) (s : State) : Res :=
  runCmd (.vccSubmit q slot pad h stamp) q (pad != 0) (fun s =>
    if !slotOwn s (cmdPart q) slot.toNat then cmdFail ST_HANDLE_INVALID s
    else
      let r := submitGo slot.toNat h.toNat stamp s
      ⟨r.1, 0, r.2⟩) s

/-! #### What the encoder may emit (R279, R282, R283) -/

/-- Side of a CTU, and CTU columns and rows of the coded picture (R277, R279). -/
def ctuSide (s : State) (i : Nat) : Nat := if isH265 s i then 64 else 16
def ctuCols (s : State) (i : Nat) : Nat := ceilDiv (fget s (VCC_SLOT_GEOM_WIDTH i)) (ctuSide s i)
def ctuRows (s : State) (i : Nat) : Nat := ceilDiv (fget s (VCC_SLOT_GEOM_HEIGHT i)) (ctuSide s i)

/-- Tile columns of a picture: one for each core in DIV 1, else the picture (R279), as evenly as their number allows (log 36). -/
def encTiles (s : State) (i : Nat) : Nat := if fget s (VCC_SLOT_CFG_DIV i) = 1 then max 1 (slotCores s i).length else 1

/-- First CTU column of tile column `t`. -/
def encTileAt (s : State) (i t : Nat) : Nat := t * ctuCols s i / encTiles s i

/-- The tile column in which CTU `n` in coding order lies, with the CTUs before it. -/
def encTileOf (s : State) (i n : Nat) : Nat × Nat :=
  let t := ((List.range (encTiles s i)).filter (fun t => decide (encTileAt s i t * ctuRows s i ≤ n))).length - 1
  (t, encTileAt s i t * ctuRows s i)

/-- Width of tile column `t` in CTUs. -/
def encTileWidth (s : State) (i t : Nat) : Nat := max 1 (encTileAt s i (t + 1) - encTileAt s i t)

/-- Column and row of CTU `n` in coding order. -/
def ctuPlace (s : State) (i n : Nat) : Nat × Nat :=
  let t := encTileOf s i n
  (encTileAt s i t.1 + (n - t.2) % encTileWidth s i t.1, (n - t.2) / encTileWidth s i t.1)

/-- CTU rows of a slice at most: SLICE_ROWS, and in DIV 2 no more than leave every core a slice (R279, R282). -/
def sliceRows (s : State) (i : Nat) : Nat :=
  let r := fget s (VCC_SLOT_ENC_SLICE_ROWS i)
  if fget s (VCC_SLOT_CFG_DIV i) = 2 then min r (max 1 (ctuRows s i / max 1 (slotCores s i).length)) else r

/-- The slice ends where R282 ends it: after SLICE_ROWS rows of its tile, or before it would exceed SLICE_BYTES_64 · 64 bytes. -/
def sliceEnds (s : State) (i coded : Nat) (sl : SliceOut) : Bool :=
  let t := encTileOf s i coded
  let w := encTileWidth s i t.1
  let left := w * ctuRows s i - (coded - t.2)
  if fget s (VCC_SLOT_ENC_SLICE_ROWS i) = 0 then
    sl.ctus != 0 && decide (sl.ctus ≤ left) && (sl.ctus == 1 || decide (sl.data.length ≤ 64 * fget s (VCC_SLOT_ENC_SLICE_BYTES_64 i)))
  else sl.ctus == min (w * sliceRows s i) left

/-- The motion window about CTU (c, r): its left and top edges and its sides in luma samples (R283). -/
def windowAt (s : State) (i c r : Nat) : Int × Int × Nat × Nat :=
  let n := ctuSide s i
  ((c * n : Nat) - 256, (r * n : Nat) - 128, n + 512, n + 256)

/-- Samples before and after a block that interpolation reads for a vector component in quarter samples: 3 and 4 (H.265) or 2 and 3
(H.264) at a fraction of a luma sample, and 2 and 4 about chroma (the filters are the standards', PRESUMED; log 17). -/
def tapsOf (h265 : Bool) (v : Int) : Nat × Nat :=
  if v % 4 ≠ 0 then (if h265 then (3, 4) else (2, 3)) else if v % 8 ≠ 0 then (2, 4) else (0, 0)

/-- The samples that a block is predicted from lie within the window (R283). -/
def motionOk (s : State) (i : Nat) (m : Motion) : Bool :=
  let p := ctuPlace s i m.ctu
  let w := windowAt s i p.1 p.2
  let tx := tapsOf (isH265 s i) m.mvx
  let ty := tapsOf (isH265 s i) m.mvy
  let x := (m.x : Int) + m.mvx / 4
  let y := (m.y : Int) + m.mvy / 4
  decide (w.1 ≤ x - tx.1) && decide (x + m.w + tx.2 ≤ w.1 + w.2.2.1) && decide (w.2.1 ≤ y - ty.1)
    && decide (y + m.h + ty.2 ≤ w.2.1 + w.2.2.2)

/-- Bytes of `n` luma samples with their chroma in a reference picture. -/
def windowBytes (s : State) (i n : Nat) : Nat := n * 3 / 2 * (if fget s (VCC_SLOT_CFG_PROFILE i) = 1 then 2 else 1)

/-- The window comes to CTU `n` (R283): at the start of a CTU row of the tile it is loaded whole, else it slides by one column. -/
def windowGo (s : State) (i : Nat) (c : Coding) (n : Nat) : Coding :=
  let t := encTileOf s i n
  let side := ctuSide s i
  let load := if (n - t.2) % encTileWidth s i t.1 = 0 then (side + 512) * (side + 256) else side * (side + 256)
  { c with window := some n, loaded := c.loaded + windowBytes s i load }

/-- The slice is one that the encoder of slot `i` emits next. -/
def sliceOk (s : State) (i : Nat) (c : Coding) (sl : SliceOut) : Bool :=
  sliceEnds s i c.coded sl
    && sl.motion.all (fun m => decide (c.coded ≤ m.ctu ∧ m.ctu < c.coded + sl.ctus) && motionOk s i m)

/-! #### Packets (R277, R282) -/

/-- Bytes of an RTP payload that a frame of 9216 bytes holds beside its headers (log 36). -/
def rtpRoom : Nat := 9216 - 82

/-- The payloads of a NAL unit (RFC 7798, RFC 6184): the unit itself, or fragmentation units where it does not fit (PRESUMED;
log 17). -/
def nalPackets (h265 : Bool) (nal : List Byte) : List (List Byte) :=
  if nal.length ≤ rtpRoom then [nal]
  else
    let b0 := nal.headD 0
    let hdr : List Byte := if h265 then [b0 &&& 0x81 ||| 98, nal.getD 1 0] else [b0 &&& 0xE0 ||| 28]
    let typ := if h265 then b0 / 2 % 64 else b0 % 32
    let cs := chunks (rtpRoom - hdr.length - 1) (nal.drop (if h265 then 2 else 1))
    (cs.zip (tabulate (fun i => i) cs.length 0)).map (fun c =>
      hdr ++ [(if c.2 = 0 then 0x80 else 0) + (if c.2 + 1 = cs.length then 0x40 else 0) + typ] ++ c.1)

/-- The ones' complement sum of 16-bit words, complemented. -/
def inetSum (bs : List Byte) : Nat :=
  let n := (chunks 2 bs).foldl (fun n w => n + (w.headD 0).toNat * 256 + (w.getD 1 0).toNat) 0
  65535 - (n % 65536 + n / 65536 % 65536 + n / 2 ^ 32) % 65535

/-- A UDP datagram of partition `p` to UDP port `port` in an IPv4 packet, or in an IPv6 packet where the partition has no IPv4
address, behind its VLAN tag. The peer's address, the source port and the fields of the headers that no rule gives are open
values (log 36). -/
def udpFrame (s : State) (p port : Nat) (bs : List Byte) : List Byte :=
  let v4 := fget s (NET_PART_W0_IPV4 p)
  let free := fun (n k : Nat) => beBytes n (Config.freeAt s.free k)
  let vlan := fget s (NET_PART_W0_VLAN p)
  let tag : List Byte := if vlan = 0 then [] else [0x81, 0x00] ++ beBytes 2 vlan
  let len := bs.length + 8
  let addrs := if v4 ≠ 0 then beBytes 4 v4 ++ free 4 0
    else beBytes 8 (fget s (NET_PART_W1_IPV6_HI p)) ++ beBytes 8 (fget s (NET_PART_W2_IPV6_LO p)) ++ free 16 0
  let ports := free 2 1 ++ beBytes 2 port ++ beBytes 2 len
  let sum := inetSum (addrs ++ beBytes 4 17 ++ beBytes 4 len ++ ports ++ bs)
  let udp := ports ++ beBytes 2 (if sum = 0 then 65535 else sum) ++ bs
  if v4 ≠ 0 then
    let a := [0x45] ++ free 1 2 ++ beBytes 2 (len + 20) ++ free 2 3 ++ [0x40, 0x00] ++ free 1 4 ++ [17]
    tag ++ [0x08, 0x00] ++ a ++ beBytes 2 (inetSum (a ++ addrs)) ++ addrs ++ udp
  else tag ++ [0x86, 0xDD, 0x60] ++ free 3 2 ++ beBytes 2 len ++ [17] ++ free 1 4 ++ addrs ++ udp

/-- One RTP packet of slot `i` leaves. The MAC address of its peer is an open value. -/
def rtpSend (i : Nat) (cap : Stamp) (s : State) (x : List Byte × Bool) : State :=
  let ts := cap.toNat * fget s (VCC_SLOT_TIME_CLK_HZ i) / 1000000000 % 2 ^ 32
  let hdr := [0x80, BitVec.ofNat 8 (fget s (VCC_SLOT_NET_PT i) + 128 * b2n x.2)]
    ++ beBytes 2 (slotGet s i).rtpSeq ++ beBytes 4 ts ++ beBytes 4 (fget s (VCC_SLOT_NET_SSRC i))
  let s := slotUpd i (fun x => { x with rtpSeq := (x.rtpSeq + 1) % 65536 }) s
  freeUse 1 (sendFrame (.service (slotPart s i)) (fget s (VCC_SLOT_NET_PORT i)) (BitVec.ofNat 48 (freeVal s 48))
    (udpFrame s (slotPart s i) (fget s (VCC_SLOT_NET_UDP_PORT i)) (hdr ++ x.1)) s)

/-- The slice that a slot emits goes out, behind the parameter sets `sets`, or into the bitstream ring (R277, R282, R298). The last
packet of a frame bears the marker. -/
def sliceSend (i : Nat) (cap : Stamp) (sets : List (List Byte)) (data : List Byte) (last : Bool) (s : State) : State :=
  if fbit s (VCC_SLOT_NET_TX i) then
    if mode s = MODE_FENCED then statInc VCC_STAT_SLICES_TX_GATED s
    else
      let l := (sets ++ [data]).flatMap (nalPackets (isH265 s i))
      ((l.zip (tabulate (fun n => n) l.length 0)).map (fun x => (x.1, last && x.2 + 1 == l.length))).foldl (rtpSend i cap) s
  else
    let s := slotUpd i (fun x => { x with bitstream := x.bitstream ++ [data] }) s
    let src := fget s (VCC_SLOT_CFG_EVT_SRC i)
    if src = 0 then s else edcRing 4 (some (slotPart s i)) false src s

/-- The oldest submission of slot `i` begins to be coded: its tensor is read once (R281). -/
def codingStart (i : Nat) (s : State) : State :=
  match (slotGet s i).coding, (slotGet s i).subs with
  | none, u :: us =>
    let p := slotPart s i
    let s := slotUpd i (fun x => { x with subs := us }) s
    match tensorOf s p u.1 with
    | none => s
    | some t =>
      let s := if t.flask then s else (readMet p t.home t.size s).1
      let c : Coding :=
        { handle := u.1, stamp := u.2, source := tensorBytesGet s p t 0 t.size, coded := 0, window := none, loaded := 0 }
      freeUse 1 (slotUpd i (fun x => { x with coding := some c }) s)
  | _, _ => s

/-- A slice of the frame in coding is complete: its CTUs are coded, and with the last the frame is (R282, R283). -/
def sliceDone (i : Nat) (c : Coding) (sl : SliceOut) (s : State) : State :=
  let x := slotGet s i
  let last := c.coded + sl.ctus == ctuCols s i * ctuRows s i
  let s := sliceSend i c.stamp (if c.coded = 0 ∧ x.sinceIrap = 0 then sl.sets else []) sl.data last s
  let c := (tabulate (fun n => n) sl.ctus c.coded).foldl (windowGo s i) c
  slotUpd i (fun x => { x with
    coding := if last then none else some { c with coded := c.coded + sl.ctus }
    sinceIrap := if last then (x.sinceIrap + 1) % max 1 (fget s (VCC_SLOT_ENC_IRAP_INTERVAL i)) else x.sinceIrap }) s

/-- SLICE_EMIT: the encoder finishes a slice, one that R279, R282 and R283 let it emit; with the first of a frame the oldest
submission begins to be coded. -/
def execSliceEmit (dt : Nat) (slot : Fin 64) (sl : SliceOut) (s : State) : Res :=
  let s := elapse dt s
  let i := slot.val
  if !slotRuns s i KIND_ENCODE then .next s
  else
    let s := codingStart i s
    match (slotGet s i).coding with
    | none => .next s
    | some c => .next (if sliceOk s i c sl then sliceDone i c sl s else s)

/-! ### Release and alias (R290, R291) -/

/-- The READY buffer of slot `i` that handle `h` names becomes FREE, where release is explicit and no step holds it. -/
def bufRelease (i h : Nat) (s : State) : State :=
  match (bufList (slotGet s i)).find? (fun b => b.1.handle == h && h != 0) with
  | none => s
  | some b =>
    if fbit s (VCC_SLOT_CFG_EXPLICIT i) ∧ b.1.state = BUF_READY ∧ bufHeld s i b.2 = false then
      slotShow i (slotUpd i (bufUpd b.2 (fun y => { y with state := BUF_FREE })) s)
    else s

/-- VCC_SLOT_RELEASE: a write of VCC_SLOTn_RELEASE. -/
def execVccSlotRelease (slot : Fin 64) (h : BitVec 32) (s : State) : Res :=
  if dieOn s then .next (bufRelease slot.val h.toNat s) else .next s

/-- RELEASE_FRAME. -/
def execVccReleaseFrame (q : QCmd) (slot : BitVec 16) (pad : BitVec 16) (h : BitVec 32) (s : State) : Res :=
  runCmd (.vccReleaseFrame q slot pad h) q (pad != 0) (fun s =>
    let i := slot.toNat
    if !slotOwn s (cmdPart q) i || !((slotGet s i).bufs.any (fun b => b.handle == h.toNat && h != 0)) then
      cmdFail ST_HANDLE_INVALID s
    else cmdOk 0 (bufRelease i h.toNat s)) s

/-- LATEST. -/
def execVccLatest (q : QCmd) (slot : BitVec 16) (s : State) : Res :=
  runCmd (.vccLatest q slot) q false (fun s =>
    if !slotOwn s (cmdPart q) slot.toNat then cmdFail ST_HANDLE_INVALID s
    else cmdOk (fget s (VCC_SLOT_LATEST_ALIAS slot.toNat)) s) s

end Sys2Proof.Machine
end

