-- ==== Sys2Proof/Machine/Duty.lean ====
section
/-!
DEFINITION. The duty pair (R453 to R458). The always-on island samples the contacts in every state but OFF.
-/
namespace Sys2Proof.Machine

/-- DUTY_GRANT: the contact has stood at a level. -/
def execDutyGrant (dt : Nat) (level : Bool) (stood : Nat) (s : State) : Res :=
  let s := elapse dt s
  if mode s == MODE_OFF then .next s
  else if dutyGlitch stood then .next (statInc HLM_STAT_DUTY_GLITCH s)
  else .next (grantSet level s)

/-- DUTY_IN: the partner's level has stood. -/
def execDutyIn (dt : Nat) (level : Bool) (stood : Nat) (s : State) : Res :=
  let s := elapse dt s
  if mode s == MODE_OFF then .next s
  else if dutyGlitch stood then .next (statInc HLM_STAT_DUTY_GLITCH s)
  else .next (fset HLM_DUTY_DUTY_IN (b2n level) s)

/-- DUTY_HOLD_EXPIRY: the helm has been FREE for DUTY_HOLD_MS, and DUTY_OUT falls (R453). -/
def execDutyHoldExpiry (dt : Nat) (s : State) : Res :=
  let s := elapse dt s
  if mode s != MODE_OFF && helmLapseLong s then .next (dutySync s) else .next s

end Sys2Proof.Machine
end

