-- ==== Sys2Proof/Machine/Edc.lean ====
section
/-!
DEFINITION. Commands of the event doorbell controller (R335 to R348).
-/
namespace Sys2Proof.Machine

/-- The sources that a writer may signal (R336). -/
def bellOwner (s : State) : Agent → BellOwner
  | .vf n => some n.val
  | .program p => some p.val
  | .codec i => some (fget s (VCC_SLOT_CFG_PART i))
  | _ => none

/-- A writer that is awake in STANDBY: the always-on island (R345). -/
def bellAwake : Agent → Bool
  | .lantern => true
  | .block => true
  | _ => false

/-- A doorbell write (R335). -/
def bellWrite (wr : Agent) (n : Nat) (s : State) : State :=
  if fieldGet n 30 10 ≠ 0 then (if dieOn s then fset EDC_STATUS_BAD_DOORBELL 1 s else s)
  else edcRing 4 (bellOwner s wr) (bitOf n 31) (fieldGet n 9 0) s

/-- EDC_DOORBELL. -/
def execEdcDoorbell (wr : Agent) (v : BitVec 32) (s : State) : Res :=
  if mode s = MODE_OFF ∨ (mode s = MODE_STANDBY ∧ bellAwake wr = false) then .next s else .next (bellWrite wr v.toNat s)

/-- A read of EDC_CTXc_CLAIM (R340), with its answer. -/
def ctxClaim (c : Nat) (s : State) : State × Nat :=
  match edcWinner (edcElig s) c with
  | some n =>
    let s := edcSetBit EDC_ACTIVE n true (edcSetBit EDC_PEND n false s)
    let s := { s with edcCtx := mapSet 0 s.edcCtx n (c + 1) }
    let s := fset (EDC_CTX_STATUS_ACTIVE_COUNT c) (fget s (EDC_CTX_STATUS_ACTIVE_COUNT c) + 1)
      (fset (EDC_CTX_STATUS_NOTIFIED c) 0 s)
    (if c ≤ 8 then edcNotify (edcElig s) c s else s, n)
  | none =>
    if fbit s (EDC_CTX_STATUS_NOTIFIED c) then
      (statInc EDC_STAT_SPURIOUS (fset (EDC_CTX_STATUS_NOTIFIED c) 0 s), 1023)
    else (s, 0)

/-- EDC_CTX_CLAIM. -/
def execEdcCtxClaim (c : Fin 28) (s : State) : Res :=
  if !dieOn s then .next s
  else
    let x := ctxClaim c s
    .next { x.1 with out := .readData (leBytes 4 x.2) :: x.1.out }

/-- A write of EDC_CTXc_COMPLETE (R341). -/
def ctxComplete (c n : Nat) (s : State) : State :=
  if mapGet 0 s.edcCtx n = c + 1 then
    let l0 := edcElig s
    let s := edcSetBit EDC_ACTIVE n false { s with edcCtx := mapSet 0 s.edcCtx n 0 }
    edcUpdate l0 (fset (EDC_CTX_STATUS_ACTIVE_COUNT c) (fget s (EDC_CTX_STATUS_ACTIVE_COUNT c) - 1) s)
  else s

/-- EDC_CTX_COMPLETE. -/
def execEdcCtxComplete (c : Fin 28) (v : BitVec 32) (s : State) : Res :=
  if dieOn s then .next (ctxComplete c (fieldGet v.toNat 9 0) s) else .next s

/-- The code of an agent at EDC_LOCK; 0 for one that has none (R344, R347). -/
def lockCode : Agent → Nat
  | .pf => 1
  | .stewN => 2
  | .stewS => 3
  | .acx => 4
  | .lantern => 5
  | _ => 0

/-- EDC_LOCK: a read takes the lock when it is free; a write of the holder's code releases it. -/
def execEdcLock (a : Agent) (wr : Option (BitVec 32)) (s : State) : Res :=
  let own := fget s EDC_LOCK_OWNER
  if !dieOn s || lockCode a == 0 then .next s
  else
    match wr with
    | none =>
      let s := if own = 0 then { fset EDC_LOCK_OWNER (lockCode a) s with edcLockAt := s.now } else s
      let v := fget s EDC_LOCK_OWNER + (if own = 0 then 2 ^ 31 else 0)
      .next { s with out := .readData (leBytes 4 v) :: s.out }
    | some v => .next (if own ≠ 0 ∧ fieldGet v.toNat 2 0 = own then fset EDC_LOCK_OWNER 0 s else s)

/-- EV_EDC_LOCK_BREAK: an agent has held the lock for more than 100 µs (R344, R348). -/
def execEvEdcLockBreak (dt : Nat) (s : State) : Res :=
  let s := elapse dt s
  if dieOn s && fget s EDC_LOCK_OWNER != 0 && decide (100000 < since s s.edcLockAt) then
    .next (raise .edcLockBreak 0 (statInc EDC_STAT_LOCK_BREAK (fset EDC_LOCK_OWNER 0 s)))
  else .next s

end Sys2Proof.Machine
end

