-- ==== Sys2Proof/Machine/Ethernet.lean ====
section
/-!
DEFINITION. Ethernet frames: steering (R321, R322), ports (R320, R333), and frames of the ACX (R324, R456).
-/
namespace Sys2Proof.Machine

/-- A Precision Time Protocol message (row 2). -/
def isPtp (f : EthFrame) : Bool := f.etype == 0x88F7 || f.udp == some 319 || f.udp == some 320

/-- A frame of IEEE 802.1Qbb priority flow control (R321). What it pauses is when frames leave, and no frame that arrives finds the
receive buffer full: a command takes each as it comes (log 72). -/
def isPfc (f : EthFrame) : Bool := f.etype == 0x8808 && !f.pause

/-- The frame is not of a form the MAC takes (R321, R330). -/
def badFrame (s : State) (p : Nat) (f : EthFrame) : Bool :=
  !f.fcsOk || decide (f.size < 64) || decide (9216 < f.size) || f.stacked || f.pause || !f.sumsOk
    || (isPfc f && !fbit s (NET_PORT_CFG_PFC_EN p)) || (f.fragment && (roceTo s p f.addr).isSome)

/-- Another unit takes the frame (rows 1 to 4), or the MAC itself: that unit's command says what it does. -/
def unitFrame (s : State) (p : Nat) (f : EthFrame) : Bool :=
  isPfc f || f.etype == 0x88B5 || isPtp f || (f.udp == some 4791 && (roceTo s p f.addr).isSome)
    || f.udp.any (fun u => (slotTo s p f.addr u).isSome)

/-- The bytes join the ACX receive queue `n`: 0 to 7 a partition's, 8 the ACX's own. -/
def acxQueue (n : Nat) (bs : List Byte) (s : State) : State :=
  { s with acxRx := mapUpd [] s.acxRx n (fun l => l ++ [bs]) }

/-- ETH_FRAME_RECEIVE: steering by the first matching row (R322). -/
def execEthFrameReceive (dt : Nat) (port : Fin 4) (f : EthFrame) (s : State) : Res :=
  let s := elapse dt s
  let p := port.val
  if !portUp s p || mode s == MODE_OFF then .next s
  else if portZeroOnly s then .next s
  else if badFrame s p f then .next (dropFrame NET_STAT_FCS s)
  else if unitFrame s p f then .next s
  else
    match queueTo s p f.addr with
    | some n => .next (acxQueue n f.data s)
    | none => if toAcx s p f.addr then .next (acxQueue 8 f.data s) else .next (dropFrame NET_STAT_NO_MATCH s)

/-- The mode that a link of port `p` comes up in is one that NET_PORTp_CFG allows: MODE itself, or with AN set MODE as the
highest advertised (R320, R331). -/
def modeOk (s : State) (p m : Nat) : Bool :=
  let c := fget s (NET_PORT_CFG_MODE p)
  c != 3 && m != 3 && (if fbit s (NET_PORT_CFG_AN p) then decide (c ≤ m) else c == m)

/-- EV_PORT_LINK: a port's link comes up in a mode, or goes down (R320, R333). -/
def execEvPortLink (dt : Nat) (port : Fin 4) (up : Bool) (md : BitVec 2) (s : State) : Res :=
  let s := elapse dt s
  let p := port.val
  let can := mode s != MODE_OFF && !s.therm.xoLost
    && (if portZeroOnly s then p == 0 && md == 2 else modeOk s p md.toNat)
  if up && !can then .next s
  else
    let was := portUp s p
    let s := fset (NET_PORT_STATUS_LINK p) (b2n up) (fset (NET_PORT_STATUS_MODE_UP p) (if up then md.toNat else 0) s)
    .next (bestMaster (if was = up then s else raise .portLink p s))

/-- ACX_FRAME_SEND: a frame of the ACX's own, or of a partition's post-processing (R324, R456). -/
def execAcxFrameSend (port : Fin 4) (part : Option (Fin 8)) (bytes : List Byte) (s : State) : Res :=
  let dst := BitVec.ofNat 48 (ofLe (bytes.take 6).reverse)
  let k := match part with
    | none => TxKind.mgmt
    | some n => TxKind.acx n.val
  if dieOn s then .next (sendFrame k port.val dst bytes s) else .next s

end Sys2Proof.Machine
end

