-- ==== Sys2Proof/Machine/Health.lean ====
section
/-!
DEFINITION. The engine checksums and the expiry of health windows (R148 to R152, R380 to R383).
-/
namespace Sys2Proof.Machine

/-- The work item whose attempt a command ends: the next unfinished item of its engine in the MX instruction of the partition
(R145), where the sums it brings are those of that item; with the instruction. -/
def itemOf (pt : Part) (i : CheckItem) : Option (Active × WorkItem) :=
  match pt.step, mapGet none pt.act 1 with
  | some _, some a =>
    match a.items.find? (fun x => x.res.isNone && x.engine == i.engine.toNat) with
    | some x => if itemCounts x i.rows i.cols then some (a, x) else none
    | none => none
  | _, _ => none

/-- Item `x` of the MX instruction of partition `p` becomes `y`. -/
def itemPut (p : Nat) (x y : WorkItem) (s : State) : State :=
  updPart p (fun pt => { pt with act := mapUpd none pt.act 1 (fun a => a.map (fun a =>
    { a with items := a.items.map (fun z => if z.rb = x.rb ∧ z.cb = x.cb ∧ z.seg = x.seg then y else z) })) }) s

/-- A flag of the open step of partition `p`. -/
def stepFlag (p i : Nat) (b : Bool) (s : State) : State :=
  updPart p (fun pt => { pt with step := pt.step.map (fun st => { st with flags := flagOr st.flags i b }) }) s

/-- The result of an attempt stands (R147, R150): the item holds it, and the stations run on. -/
def itemStands (p n : Nat) (x : WorkItem) (ds : List (List DotRes)) (s : State) : State :=
  let s := stepFlag p FLAG_ACC_SAT (ds.any (fun l => l.any DotRes.sat)) s
  runPart p (itemPut p x { x with res := some (itemCodes n x ds) } s)

/-- An attempt has failed (R150): its result is discarded, and the item goes to the engine `e`, with a trace record (R244). -/
def itemAgain (p : Nat) (x : WorkItem) (e : Nat) (cool : Bool) (s : State) : State :=
  traceRec 0x08 p (x.engine / 32) (x.engine * 256 + e)
    (itemPut p x { x with engine := e, cool := cool, used := x.used ++ [x.engine] } s)

/-- An attempt that does not pass. The third result is taken whatever it is (R150). -/
def itemFails (p n : Nat) (i : CheckItem) (a : Active) (x : WorkItem) (ds : List (List DotRes)) (s : State) : State :=
  let cls := classOf (partOf s p) a.insn
  if x.used.length = 2 then itemStands p n x ds (unresolvedReport p x.engine cls i s)
  else
    let s := itemReport p x.engine cls x.cool i s
    match retryOf s p cls ((mapGet none (partOf s p).act 1).getD a) (x.used ++ [x.engine]) with
    | some (e, cool) => itemAgain p x e cool s
    | none => faultStep p ST_NO_ENGINE a.insn.idx (resumeOf (partOf s p)) (fset PLC_STATUS_NO_ENGINE 1 s)

/-- The end of an attempt at item `x`. An item with a NaN or an infinity among its inputs or results is not compared and sets NAN_SEEN
(R54). -/
def itemDone (p : Nat) (i : CheckItem) (a : Active) (x : WorkItem) (s : State) : State :=
  let n := s.free
  let ds := itemDots n x
  let s := freeUse 1 s
  if itemOdd x ds then itemStands p n x ds (stepFlag p FLAG_NAN_SEEN true s)
  else if itemPasses n (classOf (partOf s p) a.insn / 4 % 4) x i.rows i.cols then itemStands p n x ds s
  else itemFails p n i a x ds s

/-- The combining adders of core `c` work on the item's output (R146, R152): two of its segments lie in the core, and R54 has it
checked. -/
def adderWorks (a : Active) (x : WorkItem) (c n : Nat) : Bool :=
  decide (2 ≤ (a.items.filter (fun y => y.rb == x.rb && y.cb == x.cb && y.engine / 4 == c)).length)
    && !itemOdd x (itemDots n x)

/-- CHECKSUM_ITEM_COMPARE: an engine of partition `p` finishes an attempt at its work item. -/
def execChecksumItemCompare (dt : Nat) (p : Fin 8) (item : CheckItem) (s : State) : Res :=
  let s := elapse dt s
  match itemOf (partOf s p) item with
  | none => .next s
  | some (a, x) =>
    let s := match item.adder with
      | none => s
      | some c => if adderWorks a x c.toNat s.free then adderReport p c.toNat (classOf (partOf s p) a.insn) item s else s
    .next (itemDone p item a x s)

/-- HEALTH_WINDOW_EXPIRY: a window that has stood for WINDOW_S closes with its count below THRESH (R381). -/
def execHealthWindowExpiry (dt : Nat) (isCore : Bool) (unit : BitVec 8) (s : State) : Res :=
  let s := elapse dt s
  if !helmHeld s then .next s
  else
  let key := 256 * b2n isCore + unit.toNat
  match mapGet none s.windows key with
  | none => .next s
  | some w =>
    if fget s RAS_CTRL_WINDOW_S * 1000000000 ≤ since s w.openedAt then
      .next { s with windows := mapSet none s.windows key none }
    else .next s

end Sys2Proof.Machine
end

