-- ==== Sys2Proof/Machine/Helm.lean ====
section
/-!
DEFINITION. The helm latch (R450, R451).
-/
namespace Sys2Proof.Machine

/-- HELM_CLAIM: Steward-N, Steward-S, or both in one cycle claim the helm. A lapsed beat frees the latch first (R450). -/
def execHelmClaim (dt : Nat) (n st : Bool) (s : State) : Res :=
  let s := elapse dt s
  if !dieOn s then .next s
  else
    let s := if beatLate s then helmLapse s else s
    let s := if n then helmClaim .n s else s
    .next (if st then helmClaim .s s else s)

/-- HELM_BEAT: the holder renews its beat. -/
def execHelmBeat (dt : Nat) (st : Steward) (s : State) : Res :=
  let s := elapse dt s
  if dieOn s && (stewGet s st).up && holds s st then .next (stewUpd st (fun x => { x with beat := s.now }) s) else .next s

/-- HELM_PASS: the holder passes; the helm moves where the other Steward shows MIRROR_OK. -/
def execHelmPass (dt : Nat) (st : Steward) (s : State) : Res :=
  let s := elapse dt s
  if dieOn s && holds s st && (stewGet s (stewOther st)).up && fbit s (stewMirror (stewOther st)) then
    .next (helmMove (stewOther st) s)
  else .next s

/-- EV_HELM_LAPSE: the holder's beat is older than HELM_TIMEOUT_MS. -/
def execEvHelmLapse (dt : Nat) (s : State) : Res :=
  let s := elapse dt s
  if dieOn s && beatLate s then .next (helmLapse s) else .next s

/-- RESTART_FOLLOWER. -/
def execRestartFollower (s : State) : Res := if dieOn s then .next (restartFollower s) else .next s

end Sys2Proof.Machine
end

