-- ==== Sys2Proof/Machine/InputLog.lean ====
section
/-!
DEFINITION. The input log (R465 to R467): its commands, its frames between peers, and retention.
-/
namespace Sys2Proof.Machine

/-- Every record held of an origin, from the ring and LU 3, by LSN and each once. -/
def logHeld (s : State) (origin : BitVec 64) : List LogRec :=
  let l := (s.helm.lu3 ++ s.helm.log).filter (fun r => r.origin == origin)
  (l.foldl (fun a r => if a.any (fun x => x.lsn == r.lsn) then a else a ++ [r]) []).mergeSort
    (fun a b => decide (a.lsn.toNat ≤ b.lsn.toNat))

/-- The first LSN asked for is older than the oldest record held of the origin. -/
def logGone (l : List LogRec) (lsn : Nat) : Bool :=
  match l with
  | [] => false
  | r :: _ => decide (lsn < r.lsn.toNat)

/-- Whole records that fit in `n` bytes. -/
def logFit : Nat → List LogRec → List Byte
  | _, [] => []
  | n, r :: rs => if logSize r ≤ n then logBytes r ++ logFit (n - logSize r) rs else []

/-- A record of another module is stored once. -/
def logKeep (r : LogRec) (s : State) : State :=
  if s.helm.log.any (fun x => x.origin == r.origin && x.lsn == r.lsn) then s else logStore r s

/-- LOG_APPEND: a prompt is logged under its sender's partition; VALUE is its LSN. -/
def execLogAppend (q : QCmd) (kind : BitVec 8) (pad : BitVec 40) (idx : BitVec 16) (addr : BitVec 64) (len : BitVec 64)
    (dma : Dma) (s : State) : Res :=
  runCmd (.logAppend q kind pad idx addr len dma) q (pad != 0) (fun s =>
    if 1048576 < len.toNat then cmdFail ST_LOG_TOO_BIG s
    else if !dma.ok then cmdFail ST_DMA_FAULT s
    else
      let s := logAdd kind.toNat (cmdPart q) (if kind = 1 then idx.toNat else 0) (dma.data.take len.toNat) s
      cmdMoved q (fget s HLM_LOG_STATUS_LSN) s) s

/-- LOG_READ: records of an origin from an LSN on, as many as fit whole; from a VF only those of its partition. -/
def execLogReadCmd (q : QCmd) (origin : BitVec 64) (lsn : BitVec 64) (addr : BitVec 64) (len : BitVec 64) (dma : Dma)
    (s : State) : Res :=
  runCmd (.logReadCmd q origin lsn addr len dma) q false (fun s =>
    let l := logHeld s origin
    if logGone l lsn.toNat then cmdFail ST_LOG_GONE s
    else if !dma.ok then cmdFail ST_DMA_FAULT s
    else
      let l := l.filter (fun r => decide (lsn.toNat ≤ r.lsn.toNat) && (!fromVf q s || r.part.toNat == cmdPart q))
      let bs := logFit len.toNat l
      cmdMoved q bs.length (hostWrite addr.toNat bs s)) s

/-- LOG_FETCH: a FETCH goes to a peer, and the records it answers with are stored; a take-over that waited for them completes
(R458). -/
def execLogFetch (q : QCmd) (origin : BitVec 64) (lsn : BitVec 64) (peer : BitVec 8) (answer : List LogRec) (s : State) : Res :=
  runCmd (.logFetch q origin lsn peer answer) q false (fun s =>
    let n := peer.toNat
    if fromVf q s then cmdFail ST_HANDLE_INVALID s
    else if 1 < n ∨ fbit s (HLM_LOG_PEER_EN n) = false then cmdFail ST_CMD_INVALID s
    else
      let s := sendFrame .rollcall (fget s (HLM_LOG_PEER_PORT n)) (BitVec.ofNat 48 (fget s (HLM_LOG_PEER_MAC n)))
        (rollFrame 7 (leBytes 8 lsn.toNat ++ leBytes 8 origin.toNat)) s
      if logGone answer lsn.toNat then cmdFail ST_LOG_GONE s
      else cmdOk answer.length (dutyTakeover (answer.foldl (fun s r => logKeep r s) s))) s

/-- A record is whole: its fragments cover it (R459). -/
def fragsWhole (l : List LogFrame) (f : LogFrame) : Bool :=
  (tabulate (fun i => 9000 * i) (ceilDiv f.total.toNat 9000) 0).all (fun o => l.any (fun x => x.off.toNat == o))

/-- LOG: a fragment of a peer's record; the whole record is stored and acknowledged (R467). -/
def execLogFrame (dt : Nat) (port : Fin 4) (f : LogFrame) (s : State) : Res :=
  let s := elapse dt s
  if !rollOn s port.val then .next s
  else if !helmHeld s || !dieOn s then .next (rollDrop s)
  else
    let same := fun (x : LogFrame) => x.record.origin == f.record.origin && x.record.lsn == f.record.lsn
    let mine := s.helm.frags.filter same ++ [f]
    if fragsWhole mine f then
      let s := updHelm (fun h => { h with frags := h.frags.filter (fun x => !same x) }) s
      if logCrc f.record ≠ f.record.crc.toNat then .next (rollDrop s)
      else
        .next (sendFrame .rollcall port.val f.src
          (rollFrame 6 (leBytes 8 f.record.lsn.toNat ++ leBytes 8 f.record.origin.toNat)) (logKeep f.record s))
    else .next (updHelm (fun h => { h with frags := h.frags ++ [f] }) s)

/-- LOG_ACK: a peer acknowledges a record. Sending to a peer that lagged resumes from its oldest record (R467). -/
def execLogAck (dt : Nat) (peer : Fin 2) (lsn : BitVec 64) (origin : BitVec 64) (s : State) : Res :=
  let s := elapse dt s
  let n := peer.val
  if !dieOn s then .next s
  else if !helmHeld s then .next (rollDrop s)
  else if origin != moduleId s then .next s
  else
    let s := updHelm (fun h => { h with peers := mapUpd [] h.peers n (fun l => l.filter (fun u => u.lsn != lsn.toNat)) }) s
    if fbit s (logLag n) then
      let left := mapGet [] s.helm.peers n
      let s := updHelm (fun h => { h with peers := mapUpd [] h.peers n (fun l =>
        l.map (fun u => { u with firstAt := s.now, sentAt := s.now })) }) (fset (logLag n) 0 s)
      .next ((s.helm.log.filter (fun r => r.origin == moduleId s && left.any (fun u => u.lsn == r.lsn.toNat))).foldl
        (fun s r => logSend n r s) s)
    else .next s

/-- FETCH: answered with the records held of an origin from an LSN on, in order (R467). -/
def execLogFetchFrame (dt : Nat) (port : Fin 4) (src : BitVec 48) (lsn : BitVec 64) (origin : BitVec 64) (s : State) : Res :=
  let s := elapse dt s
  if !rollOn s port.val then .next s
  else if !helmHeld s || !dieOn s then .next (rollDrop s)
  else .next (((logHeld s origin).filter (fun r => decide (lsn.toNat ≤ r.lsn.toNat))).foldl
    (fun s r => logSendTo port.val src r s) s)

/-- LOG_RETRANSMIT: a record unacknowledged for 1 ms is sent again (R467). -/
def execLogRetransmit (dt : Nat) (peer : Fin 2) (lsn : BitVec 64) (s : State) : Res :=
  let s := elapse dt s
  let n := peer.val
  match (mapGet [] s.helm.peers n).find? (fun u => u.lsn == lsn.toNat),
      s.helm.log.find? (fun r => r.origin == moduleId s && r.lsn == lsn) with
  | some u, some r =>
    if helmHeld s && decide (1000000 ≤ since s u.sentAt) then
      let s := updHelm (fun h => { h with peers := mapUpd [] h.peers n (fun l =>
        l.map (fun x => if x.lsn = lsn.toNat then { x with sentAt := s.now } else x)) }) s
      .next (statInc HLM_STAT_LOG_RETX (logSend n r s))
    else .next s
  | _, _ => .next s

/-- EV_LOG_PEER_LAG: a peer has left a record unacknowledged for 100 ms (R467). -/
def execEvLogPeerLag (dt : Nat) (peer : Fin 2) (s : State) : Res :=
  let s := elapse dt s
  let n := peer.val
  if helmHeld s && !fbit s (logLag n) && (mapGet [] s.helm.peers n).any (fun u => decide (100000000 ≤ since s u.firstAt)) then
    .next (raise .logPeerLag n (fset (logLag n) 1 s))
  else .next s

/-- LOG_RETENTION_EXPIRY: records older than RETAIN_S are discarded from the ring and from LU 3 (R466). -/
def execLogRetentionExpiry (dt : Nat) (s : State) : Res :=
  let s := elapse dt s
  if dieOn s && helmHeld s then
    .next (logShow (updHelm (fun h => { h with log := h.log.filter (logYoung s), lu3 := h.lu3.filter (logYoung s) }) s))
  else .next s

end Sys2Proof.Machine
end

