-- ==== Sys2Proof/Machine/Membership.lean ====
section
/-!
DEFINITION. Roll-call, votes, manager keys, and the job's HOLD and RESUME (R459 to R463, R467, R469).
-/
namespace Sys2Proof.Machine

/-- ROLLCALL_QUERY: answered by hardware, up to 64 per port per ms (R459, R460). -/
def execRollcallQuery (dt : Nat) (port : Fin 4) (q : RcQuery) (s : State) : Res :=
  let s := elapse dt s
  let p := port.val
  if !rollOn s p then .next s
  else
    let ms := s.now.toNat / 1000000
    let a := mapGet (0, 0) s.helm.answers p
    let n := if a.1 = ms then a.2 else 0
    if 64 ≤ n then .next (rollDrop s)
    else
      let s := updHelm (fun h => { h with answers := mapSet (0, 0) h.answers p (ms, n + 1) }) s
      let body := leBytes 4 (healthWord s) ++ leBytes 8 q.nonce.toNat ++ leBytes 8 (regGet s HLM_MODULE_ID)
        ++ leBytes 8 (fget s HLM_STEP_STEPS) ++ leBytes 8 (fget s TK_COUNT_COUNT) ++ leBytes 8 s.now.toNat
        ++ leBytes 4 (fget s HLM_JOB_JOB_EPOCH) ++ leBytes 4 (fget s HLM_QUORUM_FENCE_EPOCH) ++ leBytes 8 0
      .next (statInc HLM_STAT_ROLLCALL (rollSend p 2 q.src q.vlan body s))

/-- VOTE: checked, counted and answered (R461, R462). -/
def execVote (dt : Nat) (port : Fin 4) (v : RcVote) (s : State) : Res :=
  let s := elapse dt s
  if !rollOn s port.val then .next s
  else
    let r := voteCount v s
    .next (rollSend port.val 4 v.src v.vlan
      (leBytes 1 v.mgr.toNat ++ leBytes 1 v.cmd.toNat ++ leBytes 1 r.1 ++ leBytes 1 r.2.1 ++ leBytes 8 v.target.toNat) r.2.2)

/-- VOTE_WINDOW_EXPIRY: a window of 2 s closes without quorum; its votes are discarded (R462). -/
def execVoteWindowExpiry (dt : Nat) (cmd : BitVec 8) (s : State) : Res :=
  let s := elapse dt s
  match mapGet none s.helm.windows cmd.toNat with
  | none => .next s
  | some w =>
    if 2000000000 ≤ since s w.openedAt then
      .next (voteShow (updHelm (fun h => { h with windows := mapSet none h.windows cmd.toNat none }) s))
    else .next s

/-- MGR_KEY: a manager's key is loaded and journalled (R467, R471). -/
def execMgrKey (q : QCmd) (mgr : BitVec 8) (pad : BitVec 56) (addr : BitVec 64) (dma : Dma) (s : State) : Res :=
  runCmd (.mgrKey q mgr pad addr dma) q (pad != 0) (fun s =>
    if fromVf q s then cmdFail ST_HANDLE_INVALID s
    else if 6 < mgr.toNat then cmdFail ST_CMD_INVALID s
    else if !dma.ok || decide (dma.data.length < 32) then cmdFail ST_DMA_FAULT s
    else
      let k := BitVec.ofNat 256 (ofLe (dma.data.take 32))
      let s := updHelm (fun h => { h with keys := mapSet none h.keys mgr.toNat (some k) }) s
      cmdMoved q 0 (journalHlm 3 (fset (HLM_MGR_KEY_SET mgr.toNat) 1 s))) s

/-- A write of HLM_JOB (R469): a RESUME counts only with a JOB_EPOCH above the current one; HOLD asks for a hold from the next
tick boundary. -/
def jobWrite (v : Nat) (s : State) : State :=
  let e := fieldGet v 63 32
  if bitOf v 1 then
    if fget s HLM_JOB_JOB_EPOCH < e then
      updHelm (fun h => { h with resumePending := true, holdPending := false })
        (journalHlm 1 (fset HLM_JOB_JOB_EPOCH e (fset HLM_JOB_HOLD 0 s)))
    else s
  else
    let s := fset HLM_JOB_HOLD (v % 2) s
    let s := if fget s HLM_JOB_JOB_EPOCH = e then s else journalHlm 1 (fset HLM_JOB_JOB_EPOCH e s)
    if v % 2 = 1 then updHelm (fun h => { h with holdPending := true, resumePending := false }) s else s

/-- HOLD. -/
def execJobHold (v : BitVec 64) (s : State) : Res :=
  if dieOn s then .next (jobWrite (fieldSet v.toNat 1 0 1) s) else .next s

/-- JOB_RESUME. -/
def execJobResume (v : BitVec 64) (s : State) : Res :=
  if dieOn s then .next (jobWrite (fieldSet v.toNat 1 1 1) s) else .next s

/-- At a tick boundary a HOLD or RESUME takes effect: a step mark is logged for each partition in LOG_MASK (R469, R465). -/
def holdBoundary (s : State) : State :=
  if s.helm.resumePending then updHelm (fun h => { h with resumePending := false, holdInForce := false }) s
  else if s.helm.holdPending then
    let s := updHelm (fun h => { h with holdPending := false, holdInForce := true }) s
    [0, 1, 2, 3, 4, 5, 6, 7].foldl (fun s p => stepMark p s) s
  else s

end Sys2Proof.Machine
end

