-- ==== Sys2Proof/Machine/Queues.lean ====
section
/-!
DEFINITION. Command queues: doorbells (R309 to R313), their configuration (R308), and asynchronous records that find no
room (R312).
-/
namespace Sys2Proof.Machine

/-- Queue `q` answers doorbells: the device is up and the queue is enabled. -/
def qOpen (s : State) (q : Nat) : Bool := dieOn s && fbit s (CMD_CFG_EN (qPart q) (qLocal q))

/-- Entries of the submission ring of queue `q`. -/
def sqSize (s : State) (q : Nat) : Nat := 2 ^ fget s (CMD_CFG_SQ_LOG2 (qPart q) (qLocal q))

/-- A doorbell of queue `n` written through function `f`: a VF reaches its own partition's queues, and one whose partition does not
exist answers with Unsupported Request (R305, R307); else `g`. -/
def bell (f : Func) (n : Nat) (g : State → State) (s : State) : State :=
  if !dieOn s || (match f with | .pf => false | .vf k => k.val != qPart n) then s
  else if f != .pf && vfGone s (qPart n) then answerUr s
  else if qOpen s n then g s
  else s

/-- The ring with the entries `l` from index `i` on; the ring has `n` entries (R309, R310). -/
def ringFill (n : Nat) : Nat → List (BitVec 512) → SMap (BitVec 512) → SMap (BitVec 512)
  | _, [], m => m
  | i, v :: l, m => ringFill n (i + 1) l (mapSet 0 m (i % n) v)

/-- SQ_TAIL: a doorbell of queue `q` (R309, R311). -/
def execSqTail (q : Bell) (v : TailWrite) (s : State) : Res :=
  let n := q.queue.toNat
  let v' := v.tail.toNat
  .next (bell q.func n (fun s =>
    if sqSize s n ≤ v' then queueStop n ST_QUEUE_ERROR s
    else if v' = (qGet s n).sqTail then s
    else
      let x := qGet s n
      let k := (v' + sqSize s n - x.sqTail) % sqSize s n
      qSkip 65536 n (qUpd n (fun x =>
        { x with ring := ringFill (sqSize s n) x.sqTail (v.entries.take k) x.ring, sqTail := v' }) s)) s)

/-- CQ_HEAD: the host has read up to entry `v` (R311 to R313). -/
def execCqHead (q : Bell) (v : BitVec 32) (s : State) : Res :=
  let n := q.queue.toNat
  .next (bell q.func n (fun s =>
    if cqSize s n ≤ v.toNat then queueStop n ST_QUEUE_ERROR s
    else if v.toNat = (qGet s n).cqHead then s
    else
      let s := qUpd n (fun x => { x with cqHead := v.toNat }) s
      let x := qGet s n
      let s := if fget s (CMD_PTRS_CQ_TAIL (qPart n) (qLocal n)) ≠ v.toNat then
          sendMsix x.func (fget s (CMD_CFG_VEC (qPart n) (qLocal n))) s else s
      qSkip 65536 n (cqDrain x.waiting.length n s)) s)

/-- A write of CMD_CFG while the queue is disabled (R308). -/
def cfgSet (f q v : Nat) (s : State) : State :=
  let p := qPart q
  let l := qLocal q
  let sq := fieldGet v 20 16
  let cq := fieldGet v 12 8
  let put := fun (en : Nat) (s : State) =>
    fset (CMD_CFG_EN p l) en (fset (CMD_CFG_SQ_LOG2 p l) sq (fset (CMD_CFG_CQ_LOG2 p l) cq (fset (CMD_CFG_VEC p l)
      (fieldGet v 7 0) s)))
  if bitOf v 31 then
    if sq < 4 ∨ 16 < sq ∨ cq < 4 ∨ 16 < cq ∨ funcVecs f ≤ fieldGet v 7 0 ∨ fget s (SEC_PART_STATE p) = PART_FREE then s
    else
      let s := fset (CMD_PTRS_SQ_HEAD p l) 0 (fset (CMD_PTRS_CQ_TAIL p l) 0 (put 1 s))
      { s with queues := mapSet queueReset s.queues q { queueReset with func := f } }
  else put 0 s

/-- A write of CMD_CFG of queue `n` through function `f`: while the queue is enabled, only one that clears EN (R308). -/
def cfgWrite (f n v : Nat) (s : State) : State :=
  if fbit s (CMD_CFG_EN (qPart n) (qLocal n)) then (if bitOf v 31 then s else queueOff n s) else cfgSet f n v s

/-- CMD_CFG, written through function `f` (R307, R308). A VF reaches the queues of its own partition only. -/
def execCmdCfg (f : Func) (q : BitVec 10) (v : BitVec 32) (s : State) : Res :=
  let n := q.toNat
  let p := qPart n
  if !dieOn s then .next s
  else if (match f with | .pf => false | .vf k => k.val != p) then .next s
  else if f ≠ .pf ∧ vfGone s p = true then .next (answerUr s)
  else .next (cfgWrite (funcNum f) n v.toNat s)

/-- Splits off the records at the front of a queue's waiting list that are asynchronous and have waited 1 ms. -/
def staleAsync (s : State) (l : List RingWait) : List RingWait × List RingWait :=
  l.partition (fun w => w.async && decide (1000000 ≤ since s w.since))

/-- ASYNC_RECORD_DISCARD: an asynchronous record has waited 1 ms for room (R312). -/
def execAsyncRecordDiscard (dt : Nat) (q : BitVec 10) (s : State) : Res :=
  let s := elapse dt s
  let n := q.toNat
  let x := staleAsync s (qGet s n).waiting
  if x.1.isEmpty then .next s
  else
    let s := qUpd n (fun y => { y with waiting := x.2, lostNext := true }) s
    .next (statAdd NET_STAT_CQ_LOST x.1.length (fset (CMD_STATUS_LOST (qPart n) (qLocal n)) 1 s))

end Sys2Proof.Machine
end

