-- ==== Sys2Proof/Machine/Rdma.lean ====
section
/-!
DEFINITION. The RoCEv2 engine: queue pairs, memory regions, posts, packets and their timers (R317, R325 to R327, R330).
What the packets carry beside the rules is log 23.
-/
namespace Sys2Proof.Machine

/-- The queue pair `n` of partition `p`. -/
def qpOf (s : State) (p n : Nat) : Option Qp := (mapGet none s.qps n).filter (fun q => q.part == p)

/-- A send rate of 100 % of the port rate. -/
def rateFull : Nat := 100 * 2 ^ 32

/-- A queue pair as QP_CREATE leaves it. -/
def qpNew (p port : Nat) : Qp :=
  { part := p, port := port, state := QP_RESET, mtu := 0, remoteQp := 0, sendPsn := 0, recvPsn := 0, gid := 0
    tclass := 0, sends := [], recvs := [], got := 0, wr := none, rate := rateFull, rateAt := 0 }

/-- Bytes of a packet of queue pair `q` (R325). -/
def qpMtu (q : Qp) : Nat := if q.mtu = 3 then 1024 else if q.mtu = 4 then 2048 else 4096

/-- Packets of a message of `len` bytes. -/
def qpPkts (q : Qp) (len : Nat) : Nat := max 1 (ceilDiv len (qpMtu q))

/-- QP_CREATE: the first number of the partition's range that names no queue pair (log 35). -/
def execQpCreate (q : QCmd) (port : BitVec 8) (s : State) : Res :=
  runCmd (.qpCreate q port) q false (fun s =>
    let p := cmdPart q
    let base := fget s (NET_PART_W3_QP_BASE p)
    if 4 ≤ port.toNat then cmdFail ST_CMD_INVALID s
    else
      match firstIdx (fun n => (mapGet none s.qps n).isNone) (min (fget s (NET_PART_W3_QP_COUNT p)) (1024 - base)) base with
      | none => cmdFail ST_CMD_INVALID s
      | some n => cmdOk n { s with qps := mapSet none s.qps n (some (qpNew p port.toNat)) }) s

/-- What QP_MODIFY makes of queue pair `q`, where R327 accepts the transition. -/
def qpMove (q : Qp) (m : QpModifyOps) : Option Qp :=
  if m.state = 1 ∧ q.state = QP_RESET then some { q with state := QP_INIT }
  else if m.state = 2 ∧ q.state = QP_INIT then
    if m.mtu.toNat < 3 ∨ 5 < m.mtu.toNat then none
    else some { q with state := QP_RTR, mtu := m.mtu.toNat, remoteQp := m.remoteQp.toNat % 2 ^ 24
                       recvPsn := m.recvPsn.toNat % 2 ^ 24, gid := m.gid, tclass := m.tclass.toNat }
  else if m.state = 3 ∧ q.state = QP_RTR then
    some { q with state := QP_RTS, sendPsn := m.sendPsn.toNat % 2 ^ 24 }
  else none

/-- QP_MODIFY (R327). -/
def execQpModify (q : QCmd) (m : QpModifyOps) (s : State) : Res :=
  runCmd (.qpModify q m) q false (fun s =>
    let n := m.qp.toNat
    match qpOf s (cmdPart q) n with
    | none => cmdFail ST_HANDLE_INVALID s
    | some x =>
      if m.state = 0 then
        cmdOk 0 (qpUpd n (fun y => { qpNew y.part y.port with rate := y.rate, rateAt := y.rateAt }) (qpFlush n s))
      else if m.state = 4 then cmdOk 0 (qpError n s)
      else
        match qpMove x m with
        | none => cmdFail ST_CMD_INVALID s
        | some y => cmdOk 0 { s with qps := mapSet none s.qps n (some y) }) s

/-- QP_DESTROY. -/
def execQpDestroy (q : QCmd) (qp : BitVec 16) (s : State) : Res :=
  runCmd (.qpDestroy q qp) q false (fun s =>
    match qpOf s (cmdPart q) qp.toNat with
    | none => cmdFail ST_HANDLE_INVALID s
    | some _ => cmdOk 0 (qpDrop qp.toNat s)) s

/-- MR_REG: a registered tensor becomes a memory region; its rkey is a number that no handle has (log 35). -/
def execMrReg (q : QCmd) (h : BitVec 32) (acc : BitVec 8) (s : State) : Res :=
  runCmd (.mrReg q h acc) q (decide (3 < acc.toNat)) (fun s =>
    let p := cmdPart q
    match movable s p h.toNat with
    | none => cmdFail ST_HANDLE_INVALID s
    | some t =>
      if t.cls = 1 then cmdFail ST_CMD_INVALID s
      else
        let k := s.nextHandle
        cmdOk k { s with
          mrs := mapSet none s.mrs k
            (some { part := p, handle := h.toNat, read := bitOf acc.toNat 0, write := bitOf acc.toNat 1 })
          nextHandle := k + 1 }) s

/-- MR_DEREG. -/
def execMrDereg (q : QCmd) (rkey : BitVec 32) (s : State) : Res :=
  runCmd (.mrDereg q rkey) q false (fun s =>
    match (mapGet none s.mrs rkey.toNat).filter (fun m => m.part == cmdPart q) with
    | none => cmdFail ST_HANDLE_INVALID s
    | some _ => cmdOk 0 { s with mrs := mapSet none s.mrs rkey.toNat none }) s

/-! ### Sending -/

/-- The sends at the front of a list that may be under way: at most 16 READs (R325). -/
def underWay : Nat → List Posted → List Posted
  | _, [] => []
  | n, x :: xs =>
    if x.op = 2 then (match n with | 0 => [] | n + 1 => x :: underWay n xs)
    else x :: underWay n xs

/-- The packets of a send (R325). -/
def sendPkts (q : Qp) (x : Posted) : List RoceTx :=
  if x.op = 2 then [{ op := 2, psn := x.psn, rkey := x.rkey, raddr := x.raddr, len := x.len }]
  else
    let cs := chunks (qpMtu q) x.data
    (cs.zip (tabulate (fun i => i) cs.length 0)).map (fun c =>
      { op := if x.op ≤ 1 then 1 else 0, psn := (x.psn + c.2) % 2 ^ 24, rkey := x.rkey, raddr := x.raddr, len := x.len
        imm := if (x.op = 1 ∨ x.op = 4) ∧ c.2 + 1 = cs.length then some x.imm else none, data := c.1 })

/-- Sends `x` of queue pair `n` goes out, and its time is noted. -/
def transmit (n : Nat) (x : Posted) (s : State) : State :=
  match mapGet none s.qps n with
  | none => s
  | some q =>
    let s := (sendPkts q x).foldl (fun s k => sendRoce q.part q.port q.remoteQp k s) s
    qpUpd n (fun q => { q with sends := q.sends.map (fun y =>
      if y.no = x.no then { y with sentAt := s.now, rnr := false } else y) }) s

/-- After sends of queue pair `n` have left its list: those that now may be under way go out. -/
def sendMore (n : Nat) (before : List Posted) (s : State) : State :=
  match mapGet none s.qps n with
  | none => s
  | some q => ((underWay 16 q.sends).filter (fun x => !(before.any (fun y => y.no == x.no)))).foldl
      (fun s x => transmit n x s) s

/-- What an accepted or refused post answers: a completion now, or the state of a post that completes later. -/
inductive PostOut where
  | now (r : CmdOut)
  | later (st : State)
  deriving DecidableEq, Repr

/-- The checks of POST_SEND and the posting of it (R326, R327; log 35). -/
def postSendGo (c : QCmd) (x : PostSendOps) (s : State) : PostOut :=
  let p := cmdPart c
  let n := x.qp.toNat
  match qpOf s p n with
  | none => .now (cmdFail ST_HANDLE_INVALID s)
  | some q =>
    if mode s = MODE_SAFE ∨ mode s = MODE_FENCED then .now (cmdFail ST_EGRESS_GATED s)
    else if q.state = QP_ERROR then .now (cmdFail ST_QP_ERROR s)
    else if q.state ≠ QP_RTS ∨ 4 < x.op.toNat ∨ x.len = 0 ∨ 2 ^ 31 < x.len.toNat then .now (cmdFail ST_CMD_INVALID s)
    else
      match movable s p x.handle.toNat with
      | none => .now (cmdFail ST_HANDLE_INVALID s)
      | some t =>
        if t.cls = 1 ∨ t.size < x.off.toNat + x.len.toNat then .now (cmdFail ST_CMD_INVALID s)
        else if t.lost ∧ x.op ≠ 2 then .now (cmdFail ST_STACK_LOST s)
        else
          let bs := if x.op = 2 then [] else tensorBytesGet s p t x.off.toNat x.len.toNat
          let s := if x.op = 2 ∨ t.flask ∨ inWins s p (t.home + x.off.toNat) x.len.toNat = true then s
            else windowViolation p (t.home + x.off.toNat) s
          let k := qpPkts q x.len.toNat
          let w : Posted :=
            { queue := c.queue.toNat, no := s.postNo, tag := c.tag.toNat, op := x.op.toNat, psn := q.sendPsn, npsn := k
              handle := x.handle.toNat, off := x.off.toNat, raddr := x.raddr.toNat, len := x.len.toNat
              rkey := x.rkey.toNat, imm := x.imm.toNat, data := bs, sentAt := s.now, retries := 0, rnrRetries := 0
              rnr := false }
          let s := cqLater c.queue.toNat s.postNo { s with postNo := s.postNo + 1 }
          let s := qpUpd n (fun q => { q with sends := q.sends ++ [w], sendPsn := (q.sendPsn + k) % 2 ^ 24 }) s
          .later (sendMore n (underWay 16 q.sends) s)

/-- POST_SEND: it completes when the remote acknowledgement arrives (R326). -/
def execPostSend (q : QCmd) (x : PostSendOps) (s : State) : Res :=
  if cmdMeets s q (.postSend q x) then
    let s := qTake q.queue.toNat s
    if q.resv || x.pad != 0 then .next (cmdEnd q ST_CMD_INVALID 0 s)
    else
      match postSendGo q x s with
      | .now r => .next (cmdEnd q r.status r.value r.st)
      | .later s => .next (qSkip 65536 q.queue.toNat s)
  else .next s

/-- POST_RECV: the buffer is posted, and the command is complete (R327; log 35). -/
def execPostRecv (q : QCmd) (qp : BitVec 16) (pad : BitVec 16) (h : BitVec 32) (off : BitVec 64) (len : BitVec 64)
    (s : State) : Res :=
  runCmd (.postRecv q qp pad h off len) q (pad != 0) (fun s =>
    let p := cmdPart q
    match qpOf s p qp.toNat with
    | none => cmdFail ST_HANDLE_INVALID s
    | some x =>
      if x.state = QP_ERROR then cmdFail ST_QP_ERROR s
      else if x.state = QP_RESET then cmdFail ST_CMD_INVALID s
      else
        match movable s p h.toNat with
        | none => cmdFail ST_HANDLE_INVALID s
        | some t =>
          if t.cls = 1 ∨ t.size < off.toNat + len.toNat then cmdFail ST_CMD_INVALID s
          else
            let b : RecvBuf := { handle := h.toNat, off := off.toNat, len := len.toNat }
            cmdOk 0 (qpUpd qp.toNat (fun x => { x with recvs := x.recvs ++ [b] }) s)) s

/-! ### Receiving -/

/-- Sends an answer of queue pair `q` to its peer. -/
def answer (q : Qp) (x : RoceTx) (s : State) : State := sendRoce q.part q.port q.remoteQp x s

/-- A NAK of kind `op` is sent (R330). -/
def nak (q : Qp) (op psn : Nat) (s : State) : State := answer q { op := op, psn := psn } (statInc NET_STAT_ROCE_NAK s)

/-- An invalid request on queue pair `n` (R330). -/
def badRequest (n : Nat) (q : Qp) (psn : Nat) (s : State) : State := qpError n (nak q 7 psn s)

/-- A remote access that fails its check (R326). -/
def badAccess (n : Nat) (q : Qp) (psn : Nat) (s : State) : State := qpError n (nak q 6 psn s)

/-- The tensor of the region that a remote access of `len` bytes at `a` names, with its access bits and extent checked
(R326). A remote address counts from the tensor's first byte (log 23). -/
def regionOf (s : State) (p rkey a len : Nat) (write : Bool) : Option (Nat × Tensor) :=
  match mapGet none s.mrs rkey with
  | none => none
  | some m =>
    match movable s p m.handle with
    | none => none
    | some t =>
      if m.part = p ∧ (if write then m.write else m.read && !t.lost) = true ∧ a + len ≤ t.size then some (m.handle, t)
      else none

/-- The access lies in the partition's windows. -/
def regionIn (s : State) (p : Nat) (t : Tensor) (a len : Nat) : Bool := t.flask || len == 0 || inWins s p (t.home + a) len

/-- The bytes of a packet are put at offset `o` of tensor `h`; with `last` the message of `n` bytes from `o0` on is whole. -/
def arrive (p h o : Nat) (bs : List Byte) (last : Bool) (o0 n : Nat) (s : State) : State :=
  match tensorOf s p h with
  | none => s
  | some t =>
    let s := tensorBytesPut p t o bs s
    if last then tensorWritten h o0 n s else s

/-- The record of a message received (R315 TYPE 0x07). -/
def recvRecord (p n bytes : Nat) (imm : Option (BitVec 32)) (s : State) : State :=
  let pay := match imm with
    | none => 0
    | some v => v.toNat + 2 ^ 32
  postAsync p { typ := 7, status := 0, tag := 0, value := n % 1024 + bytes * 2 ^ 32, stamp := s.now, payload := pay } s

/-- The next packet expected of queue pair `n` moves on by `k`, and the packet is acknowledged. -/
def ackOn (n k : Nat) (q : Qp) (psn : Nat) (s : State) : State :=
  answer q { op := 4, psn := psn } (qpUpd n (fun q => { q with recvPsn := (q.recvPsn + k) % 2 ^ 24 }) s)

/-- A SEND packet in its order. -/
def recvSend (n : Nat) (q : Qp) (x : RocePkt) (s : State) : State :=
  let psn := x.psn.toNat
  match q.recvs with
  | [] => nak q 9 psn s
  | b :: rest =>
    let got := q.got + x.data.length
    if x.first ≠ (q.got == 0) ∨ q.wr.isSome ∨ x.data = [] ∨ b.len < got then badRequest n q psn s
    else
      let s := arrive q.part b.handle (b.off + q.got) x.data x.last b.off got s
      let s := qpUpd n (fun q => { q with got := if x.last then 0 else got, recvs := if x.last then rest else b :: rest }) s
      let s := if x.last then recvRecord q.part n got x.imm s else s
      ackOn n 1 q psn s

/-- A WRITE packet in its order. With immediate data its last packet takes a receive buffer (PRESUMED reliable connected
transport, log 23). -/
def recvWrite (n : Nat) (q : Qp) (x : RocePkt) (s : State) : State :=
  let psn := x.psn.toNat
  let p := q.part
  let w := if x.first then (x.rkey.toNat, x.raddr.toNat, x.len) else q.wr.getD (0, 0, 0)
  let got := (if x.first then 0 else q.got) + x.data.length
  if x.first ≠ q.wr.isNone ∨ q.got ≠ 0 ∧ q.wr.isNone = true ∨ x.data = [] ∨ w.2.2 < got ∨ x.last ≠ (got == w.2.2) ∨ 2 ^ 31 < w.2.2 then
    badRequest n q psn s
  else
    match regionOf s p w.1 w.2.1 w.2.2 true with
    | none => badAccess n q psn s
    | some (h, t) =>
      if !regionIn s p t w.2.1 w.2.2 then badAccess n q psn (windowViolation p (t.home + w.2.1) s)
      else if x.last ∧ x.imm.isSome = true ∧ q.recvs = [] then nak q 9 psn s
      else
        let s := if w.2.1 = 0 ∧ w.2.2 = t.size then rehome p h t s else s
        let s := arrive p h (w.2.1 + got - x.data.length) x.data x.last w.2.1 w.2.2 s
        let s := qpUpd n (fun q => { q with got := if x.last then 0 else got, wr := if x.last then none else some w }) s
        let s := if x.last ∧ x.imm.isSome = true then
            recvRecord p n w.2.2 x.imm (qpUpd n (fun q => { q with recvs := q.recvs.drop 1 }) s)
          else s
        ackOn n 1 q psn s

/-- The packets that answer a READ of `bs` from PSN `psn` on. -/
def readAnswers (q : Qp) (psn : Nat) (bs : List Byte) : List RoceTx :=
  let cs := chunks (qpMtu q) bs
  (cs.zip (tabulate (fun i => i) cs.length 0)).map (fun c =>
    { op := 3, psn := (psn + c.2) % 2 ^ 24, len := bs.length, data := c.1 })

/-- A READ request; `fresh` tells that it is the packet expected. -/
def recvRead (n : Nat) (q : Qp) (x : RocePkt) (fresh : Bool) (s : State) : State :=
  let p := q.part
  let psn := x.psn.toNat
  if x.len = 0 ∨ 2 ^ 31 < x.len ∨ q.wr.isSome ∨ q.got ≠ 0 then badRequest n q psn s
  else
    match regionOf s p x.rkey.toNat x.raddr.toNat x.len false with
    | none => badAccess n q psn s
    | some (_, t) =>
      if !regionIn s p t x.raddr.toNat x.len then badAccess n q psn (windowViolation p (t.home + x.raddr.toNat) s)
      else
        let bs := tensorBytesGet s p t x.raddr.toNat x.len
        let s := (readAnswers q psn bs).foldl (fun s k => answer q k s) s
        if fresh then qpUpd n (fun q => { q with recvPsn := (q.recvPsn + qpPkts q x.len) % 2 ^ 24 }) s else s

/-- A request packet on queue pair `n` (R326, R330). -/
def recvRequest (n : Nat) (q : Qp) (x : RocePkt) (s : State) : State :=
  let psn := x.psn.toNat
  if !x.valid then badRequest n q psn s
  else if psn = q.recvPsn then
    if x.op = 0 then recvSend n q x s else if x.op = 1 then recvWrite n q x s else recvRead n q x true s
  else if serialBefore 24 psn q.recvPsn then
    if x.op = 2 then recvRead n q x false s else answer q { op := 4, psn := psn } s
  else nak q 5 q.recvPsn s

/-- PSN of the last packet of a send. -/
def lastPsn (x : Posted) : Nat := (x.psn + x.npsn - 1) % 2 ^ 24

/-- The send is acknowledged by an acknowledgement of `psn`. -/
def covered (psn : Nat) (x : Posted) : Bool := x.op != 2 && (lastPsn x == psn || serialBefore 24 (lastPsn x) psn)

/-- An acknowledgement of `psn` completes sends (R326). -/
def recvAck (n psn : Nat) (s : State) : State :=
  match mapGet none s.qps n with
  | none => s
  | some q =>
    let out := underWay 16 q.sends
    let done := out.filter (covered psn)
    let s := qpUpd n (fun q => { q with sends := q.sends.filter (fun x => !(done.any (fun y => y.no == x.no))) }) s
    sendMore n out (done.foldl (fun s x => postDone x ST_OK s) s)

/-- A READ answer in its order: its bytes are put in the local tensor; the last completes the READ. An answer also
acknowledges what was sent before the READ. -/
def recvReadData (n : Nat) (x : RocePkt) (s : State) : State :=
  let psn := x.psn.toNat
  let s := recvAck n ((psn + 2 ^ 24 - 1) % 2 ^ 24) s
  match mapGet none s.qps n with
  | none => s
  | some q =>
    match (underWay 16 q.sends).find? (fun y => y.op == 2 && y.psn == psn) with
    | none => s
    | some y =>
      let last := decide (y.npsn ≤ 1)
      let s := arrive q.part y.handle y.off (x.data.take y.len) last y.off (min x.data.length y.len) s
      if last then
        let out := underWay 16 q.sends
        let s := qpUpd n (fun q => { q with sends := q.sends.filter (fun z => z.no != y.no) }) s
        sendMore n out (postDone y ST_OK s)
      else
        let k := x.data.length
        qpUpd n (fun q => { q with sends := q.sends.map (fun z => if z.no = y.no then
          { z with psn := (z.psn + 1) % 2 ^ 24, npsn := z.npsn - 1, off := z.off + k, raddr := z.raddr + k
                   len := z.len - k } else z) }) s

/-- The sends of queue pair `n` from its oldest on go out again, counted; after the last retry the queue pair moves to
ERROR (R325; PRESUMED reliable connected transport, log 23). -/
def resend (n : Nat) (rnr : Bool) (s : State) : State :=
  match mapGet none s.qps n with
  | none => s
  | some q =>
    match q.sends with
    | [] => s
    | x :: _ =>
      if 7 ≤ (if rnr then x.rnrRetries else x.retries) then qpError n s
      else
        let s := qpUpd n (fun q => { q with sends := q.sends.map (fun y => if y.no = x.no then
          (if rnr then { y with rnrRetries := y.rnrRetries + 1 } else { y with retries := y.retries + 1 }) else y) }) s
        match mapGet none s.qps n with
        | none => s
        | some q => (underWay 16 q.sends).foldl (fun s y => transmit n y (statInc NET_STAT_RETRANS s)) s

/-- A fatal NAK: the send at its PSN completes with `code`, and the queue pair moves to ERROR (PRESUMED, log 23). -/
def recvFatal (n psn code : Nat) (s : State) : State :=
  let s := recvAck n ((psn + 2 ^ 24 - 1) % 2 ^ 24) s
  match mapGet none s.qps n with
  | none => s
  | some q =>
    match q.sends with
    | [] => qpError n s
    | x :: rest => qpError n (postDone x code (qpUpd n (fun q => { q with sends := rest }) s))

/-- An answer of the peer to queue pair `n`. -/
def recvAnswer (n : Nat) (x : RocePkt) (s : State) : State :=
  let psn := x.psn.toNat
  if x.op = 3 then recvReadData n x s
  else if x.op = 4 then recvAck n psn s
  else if x.op = 5 then resend n false (recvAck n ((psn + 2 ^ 24 - 1) % 2 ^ 24) s)
  else if x.op = 6 then recvFatal n psn ST_RDMA_ACCESS s
  else if x.op = 7 then recvFatal n psn ST_QP_ERROR s
  else if x.op = 8 then qpUpd n (fun q => { q with rate := q.rate / 2, rateAt := s.now }) s
  else
    qpUpd n (fun q => { q with sends := match q.sends with
      | [] => []
      | y :: ys => { y with rnr := true, sentAt := s.now } :: ys })
      (recvAck n ((psn + 2 ^ 24 - 1) % 2 ^ 24) s)

/-- The packet is one for queue pair `q`: of the partition `m` that its addresses name, on the QP's port, of an operation and in a
state that the engine serves (R322, R325, R327). -/
def qpTakes (q : Qp) (m port : Nat) (x : RocePkt) : Bool :=
  q.part == m && decide (x.op < 10) && q.port == port && (q.state == QP_RTR || q.state == QP_RTS)
    && (decide (x.op < 3) || q.state == QP_RTS)

/-- A packet that the RoCEv2 engine takes for partition `m` (R326, R330), with its trace record (R244). -/
def roceTake (m port : Nat) (x : RocePkt) (s : State) : State :=
  if !x.icrcOk then dropFrame NET_STAT_ICRC s
  else
    match (mapGet none s.qps x.qp.toNat).filter (fun q => qpTakes q m port x) with
    | none => dropFrame NET_STAT_ROCE_BAD s
    | some q =>
      let s := traceFree 0x12 m 9 s
      let s := if x.ecn then answer q { op := 8, psn := 0 } s else s
      if x.op ≤ 2 then recvRequest x.qp.toNat q x s else recvAnswer x.qp.toNat x s

/-- ROCE_PACKET: a datagram for UDP port 4791. Row 3 of R322 gives it to the engine for the partition that its addresses name; one
that a later row takes is an ETH_FRAME_RECEIVE. -/
def execRocePacket (dt : Nat) (port : Fin 4) (x : RocePkt) (s : State) : Res :=
  let s := elapse dt s
  if !portUp s port.val || !portsServe s then .next s
  else
    match roceTo s port.val x.addr with
    | some m => .next (roceTake m port.val x s)
    | none => .next (if noRow s port.val x.addr then dropFrame NET_STAT_NO_MATCH s else s)

/-- ROCE_RETRANSMIT_TIMEOUT: the oldest send of a queue pair has waited 4.096 µs · 2^14, or 655 µs after the peer was not
ready (R325). -/
def execRoceRetransmitTimeout (dt : Nat) (qp : BitVec 10) (s : State) : Res :=
  let s := elapse dt s
  let n := qp.toNat
  match mapGet none s.qps n with
  | none => .next s
  | some q =>
    match q.sends with
    | [] => .next s
    | x :: _ =>
      if q.state = QP_RTS ∧ (if x.rnr then 655000 else 67108864) ≤ since s x.sentAt then .next (resend n x.rnr s)
      else .next s

/-- CNP_RATE_RECOVERY: the send rate recovers by 5 % of the port rate every 55 µs (R325). -/
def execCnpRateRecovery (dt : Nat) (qp : BitVec 10) (s : State) : Res :=
  let s := elapse dt s
  let n := qp.toNat
  match mapGet none s.qps n with
  | none => .next s
  | some q =>
    if q.rate < rateFull ∧ 55000 ≤ since s q.rateAt then
      .next (qpUpd n (fun q => { q with rate := min rateFull (q.rate + 5 * 2 ^ 32), rateAt := s.now }) s)
    else .next s

end Sys2Proof.Machine
end

