-- ==== Sys2Proof/Machine/Stacks.lean ====
section
/-!
DEFINITION. The stacks' temperature and training (R263 to R267), the loss of a stack (R270), and SRAM errors (R252, R253, R385).
Choices are log 44; DRAM and link errors have no command of their own (log 28).
-/
namespace Sys2Proof.Machine

/-! ### Temperature (R263) -/

/-- A threshold with 3 °C of hysteresis on the way down. -/
def hyst (on : Bool) (limit t : Int) : Bool := decide (limit ≤ t) || (on && decide (limit - 3 < t))

/-- A reading of stack `i`. -/
def stackTemp (i : Nat) (t : Int) (s : State) : State :=
  if fget s (MEM_STACK_STATE i) = 2 then s
  else
    let limit : Int := fget s MEM_TEMP_LIMIT_C
    let hot := hyst (fbit s (MEM_STACK_HOT_LIMIT i)) limit t
    let rise := hot && !fbit s (MEM_STACK_HOT_LIMIT i)
    let over5 := hyst (hbmOf s i).hotSince.isSome (limit + 5) t
    let s := fset (MEM_STACK_REMAP_24H i) (min 65535 (remapsOf s i)) (fset (MEM_STACK_TEMP i) (unsigned 8 t) s)
    let s := fset (MEM_STACK_REFRESH2X i)
      (b2n (hyst (fbit s (MEM_STACK_REFRESH2X i)) (fget s MEM_TEMP_REFRESH2X_C) t)) s
    let s := fset (MEM_STACK_HOT_LIMIT i) (b2n hot) s
    let s := updHbm i (fun x => { x with hotSince := if over5 then some (x.hotSince.getD s.now) else none }) s
    let s := if rise then raise .stackHot i s else s
    match (hbmOf s i).trainTemp with
    | none => updHbm i (fun x => { x with trainTemp := some t }) s
    | some t0 => if fget s MEM_RETRAIN_DRIFT_C < (t - t0).natAbs then stackDue i s else s

/-- STACK_TEMP_READ: the readings of stacks 0 to 5 in °C. -/
def execStackTempRead (dt : Nat) (temps : List (BitVec 8)) (s : State) : Res :=
  let s := elapse dt s
  if dramOn s then
    .next (throttleSync ((temps.zip [0, 1, 2, 3, 4, 5]).foldl (fun s x => stackTemp x.2 x.1.toInt s) s))
  else .next s

/-- STACK_OVERTEMP_TRIP: 5 °C above LIMIT_C for 1 s (R263, R365). -/
def execStackOvertempTrip (dt : Nat) (i : Fin 6) (s : State) : Res :=
  let s := elapse dt s
  match (hbmOf s i.val).hotSince with
  | none => .next s
  | some t => if dramOn s && decide (1000000000 ≤ since s t) then .next (thermalTrip s) else .next s

/-! ### Retraining -/

/-- The interval after which stack `i` is due: the six are staggered by one sixth from BOOT on. -/
def trainEvery (s : State) (i : Nat) : Nat :=
  let n := fget s MEM_RETRAIN_INTERVAL_S * 1000000000
  if (hbmOf s i).again then n else n * (i + 1) / 6

/-- RETRAIN_DUE: the interval of a stack has passed. -/
def execRetrainDue (dt : Nat) (i : Fin 6) (s : State) : Res :=
  let s := elapse dt s
  if dramOn s && decide (trainEvery s i.val ≤ since s (BitVec.ofNat 64 (regGet s (MEM_TRAIN_STAMP i.val)))) then
    .next (stackDue i.val s)
  else .next s

/-- A write of MEM_RETRAIN: fields in range are taken; FORCE makes FORCE_STACK due (R271). -/
def memRetrainWrite (v : Nat) (s : State) : State :=
  let put := fun (f : Fld) (lo hi : Nat) (s : State) =>
    let x := fieldGet v f.hi f.lo
    if lo ≤ x ∧ x ≤ hi then fset f x s else s
  let s := put MEM_RETRAIN_INTERVAL_S 60 86400 (put MEM_RETRAIN_LEAD 1 15 (put MEM_RETRAIN_DRIFT_C 5 40
    (put MEM_RETRAIN_MIRROR_GIB 0 12 (put MEM_RETRAIN_FORCE_STACK 0 5 s))))
  let s := journalReg MEM_RETRAIN s
  if bitOf v 19 then stackDue (fget s MEM_RETRAIN_FORCE_STACK) s else s

/-- FORCE. -/
def execMemForce (v : BitVec 64) (s : State) : Res :=
  if dieOn s then .next (memRetrainWrite (fieldSet v.toNat 19 19 1) s) else .next s

/-- A span of codec memory of slot `i` moves to another stack of its half, where there is a place. -/
def spanMove (i from_ : Nat) (s : State) (m : Nat × Nat) : State :=
  match freeSpot s (fget s (VCC_SLOT_CFG_PART i)) m.2
      ([0, 1, 2, 3, 4, 5].filter (fun j => j != from_ && stackHalf j == stackHalf from_)) with
  | none => s
  | some b =>
    let mv := fun (a : Nat) => if m.1 ≤ a ∧ a < m.1 + m.2 then a - m.1 + b else a
    let s := dramCopy m.1 b m.2 s
    let s := slotUpd i (fun y => { y with
      mem := y.mem.map (fun x => (mv x.1, x.2)), refs := y.refs.map mv
      bufs := y.bufs.map (fun f => { f with home := mv f.home, mapHome := mv f.mapHome }) }) s
    { s with tensors := s.tensors.map (fun e => (e.1, e.2.map (fun t =>
        match t.slot with
        | some (j, k) => if j = i ∧ k ≠ 16 then { t with home := mv t.home } else t
        | none => t))) }

/-- Codec memory of slot `i` moves off a stack (R264). -/
def slotMove (i from_ : Nat) (s : State) : State :=
  ((slotGet s i).mem.filter (fun m => stackOf m.1 == from_)).foldl (spanMove i from_) s

/-- Order of a tick boundary for retraining (R264): the stack that is due next gets its tick, and the tick of a scheduled stack
reserves its slack. -/
def retrainBoundary (s : State) : State :=
  let n := fget s TK_COUNT_COUNT
  let planned := [0, 1, 2, 3, 4, 5].find? (fun i => (hbmOf s i).trainTick.isSome)
  let s :=
    match planned, nextDue s with
    | none, some i =>
      let s := updHbm i (fun x => { x with trainTick := some (n + fget s MEM_RETRAIN_LEAD) }) s
      let s := fset (MEM_STACK_MIRROR_READY i) 0 (fset (MEM_STACK_DUE i) 1 s)
      (s.slots.map Prod.fst).foldl (fun s k => slotMove k i s) s
    | _, _ => s
  let due := [0, 1, 2, 3, 4, 5].any (fun i => match (hbmOf s i).trainTick with
    | none => false
    | some t => decide (t ≤ n))
  fset TK_SLACK_RETRAIN (b2n due) s

/-- The stack that trains in this tick. -/
def trainNow (s : State) : Option Nat :=
  [0, 1, 2, 3, 4, 5].find? (fun i => match (hbmOf s i).trainTick with
    | none => false
    | some t => decide (t ≤ fget s TK_COUNT_COUNT))

/-- The start of the reserved slack, in device time. -/
def slackStart (s : State) : Nat := regGet s TK_NEXT - 1000 * fget s TK_SLACK_BASE_US - 1500000

/-- RETRAIN_SLACK_START: with a step open the training moves to the next tick; else the stack goes offline for it. A stack that
has failed twice trains at the next lower rate (R267). -/
def execRetrainSlackStart (dt : Nat) (s : State) : Res :=
  let s := elapse dt s
  match trainNow s with
  | none => .next s
  | some i =>
    if !fbit s TK_SLACK_RETRAIN || !dramOn s || fget s (MEM_STACK_STATE i) != 0 || decide (s.now.toNat < slackStart s) then .next s
    else if stepIsOpen s then
      .next (statInc MEM_STAT_RETRAIN_MOVED (updHbm i (fun x => { x with trainTick := some (fget s TK_COUNT_COUNT + 1) }) s))
    else
      let s := fset (MEM_STACK_STATE i) 1 (fset MEM_STATUS_RETRAIN_ACTIVE 1 s)
      .next (if (hbmOf s i).lowered then
          raise .stackDegraded i (fset MEM_STATUS_DEGRADED 1 (fset (MEM_STACK_RATE i) (min 2 (fget s (MEM_STACK_RATE i) + 1)) s))
        else s)

/-- Training of stack `i` ends with `o` (R264, R267): hard repairs are applied, the count of its error check
and scrub is read (R255), and it returns or leaves service. -/
def trainEnd (i : Nat) (o : TrainResult) (s : State) : State :=
  let rate := fget s (MEM_STACK_RATE i)
  let low := (hbmOf s i).lowered
  let fails := if o.ok then 0 else min 255 (fget s (MEM_STACK_FAILS i) + 1)
  let s := fset (MEM_STACK_STATE i) 0 (fset (MEM_STACK_DUE i) 0 (fset (MEM_STACK_MIRROR_READY i) 0 (fset (MEM_STACK_FAILS i) fails s)))
  let s := fset MEM_STATUS_RETRAIN_ACTIVE 0 s
  let s := updHbm i (fun x => { x with
    dueNo := none, trainTick := none, again := true, repairs := 0, ecs := o.ecs, trainTemp := some (signed 8 (fget s (MEM_STACK_TEMP i)))
    lowered := if o.ok then false else decide (2 ≤ fails) }) s
  let s := raise .retrain i (regSet (MEM_TRAIN_STAMP i) s.now.toNat (statInc MEM_STAT_RETRAIN (dueShow s)))
  let s := if !o.ok && (!o.prevOk || rate == 2) then stackLose i s
    else if !o.ok && low then fset (MEM_STACK_RATE i) (rate - 1) s
    else s
  accRelease s

/-- RETRAIN_COMPLETE. -/
def execRetrainComplete (dt : Nat) (o : TrainResult) (s : State) : Res :=
  let s := elapse dt s
  match trainingStack s with
  | none => .next s
  | some i => if dramOn s then .next (trainEnd i o s) else .next s

/-! ### Contents of a lost stack (R270) -/

/-- A mirror that is whole takes the place of its original. -/
def promote (m : Mirror) (s : State) : State :=
  if m.built ≠ m.len then s
  else if m.page then kvSetEntry m.key (setBit (fieldSet (kvEntry s m.key) 33 6 (m.addr / 1024)) 5 false) s
  else updTensor m.key (fun t => { t with home := m.addr }) s

/-- A page of tensor `h` in the chain of request `r` lies on stack `i`. -/
def pageOn (s : State) (i r h : Nat) : Bool :=
  (kvPages s (ctxGet s r h)).any (fun g => stackOf (pgFrame (kvEntry s g)) == i)

/-- Requests with pages on stack `i` end CANCELLED with ST_STACK_LOST. -/
def lostPages (i p : Nat) (s : State) : State :=
  let hs := (kvTensors s p).map Prod.fst
  (reqsOf s p).foldl (fun s r =>
    if decide (rqState (reqGet s r) < RQ_CANCELLED) && !rqCompanion (reqGet s r)
        && (r :: reqCompanions s p r).any (fun j => hs.any (fun h => pageOn s i j h)) then
      reqStop p RQ_CANCELLED ST_STACK_LOST r s
    else s) s

/-- At a tick boundary: mirrors are promoted, other tensors of the stack are marked lost, and requests with other pages there
end. -/
def lostBoundary (i : Nat) (s : State) : State :=
  if !(hbmOf s i).offline then s
  else
    let s := (hbmOf s i).mirrors.foldl (fun s m => promote m s) s
    let s := updHbm i (fun x => { x with offline := false, mirrors := [] }) s
    let s := { s with tensors := s.tensors.map (fun e => (e.1, e.2.map (fun t =>
        if (t.cls = 0 ∨ t.cls = 3) ∧ t.flask = false ∧ t.slot.map Prod.snd ≠ some 16 ∧ stackOf t.home = i then
          { t with lost := true } else t))) }
    [0, 1, 2, 3, 4, 5, 6, 7].foldl (fun s p => kvSettleNow p (lostPages i p s)) s

/-! ### SRAM errors (R252, R253, R385) -/

/-- The words of a store by number. -/
def wordKey (e : SramErr) : Nat := (e.store.toNat * 64 + e.unit.toNat) * 2 ^ 24 + e.off.toNat / 8 * 8

/-- A word is queued for repair, once. -/
def wordQueue (e : SramErr) (s : State) : State :=
  let w := (e.store.toNat, e.unit.toNat, e.off.toNat / 8 * 8)
  if s.repairQueue.contains w then s
  else
    journalSram (wordCluster w) (sramShow (fset RAS_STATUS_SRAM_QUEUED 1 { s with repairQueue := s.repairQueue ++ [w] }))

/-- One error that the scrubber or a client met. -/
def sramError (e : SramErr) (s : State) : State :=
  let k := wordKey e
  let info : RasInfo := { typ := if e.double then 0x05 else 0x04, unit := e.unit.toNat, data := k,
                           tbin := if e.store = 1 then coreBin s e.unit.toNat else 0 }
  if e.double then
    let own := (ownerOf s (wordCluster (e.store.toNat, e.unit.toNat, 0))).getD 0
    let s := { s with sramPoison := mapSet false s.sramPoison k true }
    let s := regSet MEM_UE_ADDR (e.store.toNat * 2 ^ 62 + own * 2 ^ 59 + e.unit.toNat * 2 ^ 32 + e.off.toNat) s
    let s := fset MEM_STATUS_UE 1 (regSet MEM_UE_STAMP s.now.toNat (statInc MEM_STAT_UE_SRAM s))
    wordQueue e (raise .memUe own (rasLog { info with code := ST_MEM_UNCORRECTABLE } s))
  else
    let win := fget s RAS_CTRL_WINDOW_S * 1000000000
    let l := s.now :: (mapGet [] s.sramCe k).filter (fun t => decide (since s t ≤ win))
    let s := { rasLog info (statInc MEM_STAT_CE_SRAM s) with sramCe := mapSet [] s.sramCe k l }
    if 3 ≤ l.length then wordQueue e s else s

/-- SRAM_SCRUB: a pass of the scrubbers with the errors found. -/
def execSramScrub (dt : Nat) (errs : List SramErr) (s : State) : Res :=
  let s := elapse dt s
  if dieOn s then
    .next ((errs.filter (fun e => (e.store == 1 || (e.store == 2 && decide (e.unit.toNat < 8))))).foldl (fun s e => sramError e s) s)
  else .next s

end Sys2Proof.Machine
end

