-- ==== Sys2Proof/Machine/Tenancy.lean ====
section
/-!
DEFINITION. Partitions, windows, Blanket and the tenant view (R404 to R414).
-/
namespace Sys2Proof.Machine

/-- CREATE. -/
def execPartCreate (v : BitVec 64) (s : State) : Res :=
  if dieOn s then .next (secCmdWrite (fieldSet v.toNat 61 59 1) s) else .next s

/-- PARTITION_ADD. -/
def execPartAdd (v : BitVec 64) (s : State) : Res :=
  if dieOn s then .next (secCmdWrite (fieldSet v.toNat 61 59 2) s) else .next s

/-- REMOVE. -/
def execPartRemove (v : BitVec 64) (s : State) : Res :=
  if dieOn s then .next (secCmdWrite (fieldSet v.toNat 61 59 3) s) else .next s

/-- DESTROY. -/
def execPartDestroy (v : BitVec 64) (s : State) : Res :=
  if dieOn s then .next (secCmdWrite (fieldSet v.toNat 61 59 4) s) else .next s

/-! ### Windows (R407, R423) -/

/-- GiB that a reservation split between two stacks of a half takes on each; the share of a stack out of service goes to the
lowest stack of the half that is in service (R258, R270). -/
def resvShares (s : State) (gib a b : Nat) : List (Nat × Nat) :=
  let up := fun (i : Nat) => fget s (MEM_STACK_STATE i) != 2
  [a, b].filterMap (fun i =>
    if up i then some (i, gib / 2)
    else (([0, 1, 2].map (fun j => 3 * stackHalf i + j)).find? up).map (fun j => (j, gib / 2)))

/-- The reservations of R258 as spans, from the top of each stack down. -/
def resvSpans (s : State) : List (Nat × Nat) :=
  let acx := resvShares s (fget s GEN_MEM_ACX_GIB) 0 1
  let log := resvShares s s.helm.ringGib 3 4
  [0, 1, 2, 3, 4, 5].map (fun i =>
    let fw := if i = 2 ∨ i = 5 then 1 else 0
    let n := ((acx ++ log).filter (fun x => x.1 == i)).foldl (fun n x => n + x.2) fw
    ((i + 1) * stackBytes - n * 2 ^ 30, n * 2 ^ 30))

/-- Two spans share a byte. -/
def overlap (a b : Nat × Nat) : Bool := decide (a.1 < b.1 + b.2 ∧ b.1 < a.1 + a.2)

/-- Window `w` of partition `p` may be enabled over the span (R407). -/
def winEnableOk (s : State) (p w base size : Nat) : Bool :=
  let sp := (base * winUnit, size * winUnit)
  let i := stackOf sp.1
  let st := fget s (SEC_PART_STATE p)
  (st == PART_ACTIVE || st == PART_CHANGING) && decide (1 ≤ size ∧ size ≤ 384)
    && decide (i < 6 ∧ sp.1 + sp.2 ≤ (i + 1) * stackBytes)
    && fget s (MEM_STACK_STATE i) != 2 && bitOf (fget s GEN_AVAIL_STACKS_OK) i
    && [0, 1, 2, 3, 4, 5, 6, 7].all (fun q => (winsOf s q).all (fun x => !overlap x sp))
    && (resvSpans s).all (fun x => !overlap x sp) && shareOf s p (stackHalf i) != 0
    && s.scrubs.all (fun x => !overlap (x.base, x.len) sp && !(x.part == p && x.win == w))

/-- No tensor home, KV frame region or codec buffer of partition `p` lies in the span. -/
def winEmpty (s : State) (p : Nat) (sp : Nat × Nat) : Bool :=
  s.tensors.all (fun e =>
    match e.2 with
    | some t => !(t.part == p && t.cls != 1 && !t.flask && t.slot.isNone && t.size != 0 && overlap (t.home, t.size) sp)
    | none => true)
  && s.slots.all (fun e => !(fget s (VCC_SLOT_CFG_PART e.1) == p && e.2.mem.any (fun m => overlap m sp)))

/-- A write of SEC_WINp_w that breaks a rule. -/
def winReject (s : State) : State := fset SEC_STATUS_CFG_REJECT 1 s

/-- A write of SEC_WINp_w. -/
def secWinWrite (p w v : Nat) (s : State) : State :=
  let en := bitOf v 63
  let base := fieldGet v 37 26
  let size := fieldGet v 25 14
  let put := fun (s : State) => fset (SEC_WIN_BASE p w) base (fset (SEC_WIN_SIZE p w) size s)
  if fbit s (SEC_WIN_EN p w) then
    if en then
      (if base = fget s (SEC_WIN_BASE p w) ∧ size = fget s (SEC_WIN_SIZE p w) then s else winReject s)
    else if winEmpty s p (fget s (SEC_WIN_BASE p w) * winUnit, fget s (SEC_WIN_SIZE p w) * winUnit) then
      journalPart p (winScrub p w s)
    else winReject s
  else if en then
    if winEnableOk s p w base size then journalPart p (fset (SEC_WIN_EN p w) 1 (put s)) else winReject s
  else if 384 < size then winReject s
  else put s

/-- SEC_WINDOW_WRITE. -/
def execSecWindowWrite (p : Fin 8) (w : Fin 8) (v : BitVec 64) (s : State) : Res :=
  if dieOn s then .next (secWinWrite p.val w.val v.toNat s) else .next s

/-! ### Blanket (R409, R410) -/

/-- BLANKET_CLEAR_DONE: the clear of cluster `c` is complete. -/
def execBlanketClearDone (dt : Nat) (c : Fin 8) (s : State) : Res :=
  let s := elapse dt s
  if dieOn s && bitOf s.uncleared c.val then .next (blanketEnd c.val s) else .next s

/-- EV_SCRUB_DONE: the scrub of window `w` of partition `p` is complete. A retraining of its stack pauses it (R266). -/
def execEvScrubDone (dt : Nat) (p : Fin 8) (w : Fin 8) (s : State) : Res :=
  let s := elapse dt s
  match s.scrubs.find? (fun x => x.part == p.val && x.win == w.val) with
  | none => .next s
  | some x =>
    if dramOn s && fget s (MEM_STACK_STATE (stackOf x.base)) != 1 then .next (scrubEnd p.val w.val s) else .next s

/-! ### The tenant view (R412 to R414) -/

/-- Power of partition `p` in units of 4 W from the energies of its cores in mJ over 100 ms: their sum over 0.1 s, and the
fixed share of P_static, held in 0.1 W (R413). -/
def tenantPower (s : State) (p : Nat) (energy : List Nat) : Nat :=
  let cs := clustersOf s p
  let e := cs.foldl (fun n c => n + ((energy.drop (8 * c)).take 8).foldl (· + ·) 0) 0
  (8 * e + 10 * pStatic s * cs.length) / 3200

/-- TENANT_VIEW_SAMPLE: the sample of each 100 ms of device time (R413; its period is the sender's to keep, log 7). Each
partition's sample writes its trace record (R244, log 26). -/
def execTenantViewSample (dt : Nat) (energy : List Nat) (s : State) : Res :=
  let s := elapse dt s
  if dieOn s then
    .next ((tabulate (fun p => p) 8 0).foldl (fun s p =>
      if fget s (SEC_PART_STATE p) = PART_FREE then s
      else
        let pt := partOf s p
        let n := (pt.power.toNat / 2 ^ 16 + 1) % 2 ^ 48
        let th := fget s THM_STATUS_THROTTLED * 2 ^ 31 + fget s THM_STATUS_BAND * 2 ^ 28
        let w := n * 2 ^ 16 + min 65535 (tenantPower s p energy)
        traceFree 0x14 p 8 (setPart p { pt with power := BitVec.ofNat 64 w, thermal := BitVec.ofNat 64 th } s)) s)
  else .next s

/-- A write of SEC_TV_REC_SEL through the VF of partition `p` (R414). -/
def recSelWrite (p v : Nat) (s : State) : State :=
  let src := v % 2
  let pt := partOf s p
  if bitOf v 63 then
    let q := mapGet tvEmpty s.tv (2 * p + src)
    let sel := fun (empty : Bool) => BitVec.ofNat 64 (2 ^ 62 + b2n empty * 2 ^ 61 + b2n q.lost * 2 ^ 60 + src)
    match q.recs with
    | [] => setPart p { pt with recSel := sel true } { s with tv := mapSet tvEmpty s.tv (2 * p + src) tvEmpty }
    | r :: rest =>
      setPart p { pt with recSel := sel false, recData := r }
        { s with tv := mapSet tvEmpty s.tv (2 * p + src) { recs := rest, lost := false } }
  else setPart p { pt with recSel := BitVec.ofNat 64 (fieldSet pt.recSel.toNat 0 0 src) } s

/-- ACX_ACCESS, with errors that its reads will meet (R268). -/
def execAcxAccess (core : Fin 16) (h : BitVec 32) (off : BitVec 64) (acc : OutAcc) (s : State) : Res :=
  if dramOn s then .next (acxGo core.val h.toNat off.toNat acc.acc (errsCome acc.errs s)) else .next s

end Sys2Proof.Machine
end

