-- ==== Sys2Proof/Machine/Registers.lean ====
section
/-!
DEFINITION. Writes of the registers of BAR0 (R14, R306, R307) by their access codes and ranges, and the clearing of counters
(R388; log 47).
-/
namespace Sys2Proof.Machine

/-! ### Counters (R387, R388) -/

/-- `o` is the offset of a STAT counter. -/
def isStat (o : Nat) : Bool :=
  o % 8 == 0 &&
    [(TB_STAT_PPS_GLITCH, 2), (TK_STAT_ADMITTED, 4), (EDC_STAT_DOORBELLS, 5), (CLK_STAT_COAST, 2), (THM_STAT_THROTTLE_MS, 4)
    , (RAS_STAT_ITEM_FAIL, 8), (BIST_STAT_RUNS, 3), (SEC_STAT_QUOTES, 3), (FW_STAT_RECORDS, 3), (HLM_STAT_CONTEST, 7)
    , (PLC_STAT_MIG_BYTES, 3), (SRV_STAT_ADMITTED, 8), (KV_STAT_KEPT, 4), (VCC_STAT_FRAMES, 7), (NET_STAT_FCS, 12)
    , (MEM_STAT_CE_DRAM, 7)].any (fun x => decide (x.1 ≤ o ∧ o < x.1 + 8 * x.2))

/-- A write of a STAT counter: CLR clears COUNT and SAT. -/
def statWrite (o v : Nat) (s : State) : State := if bitOf v 62 then regSet o 0 s else s

/-- In RECOVERY the GEN and FW blocks alone answer (R446). -/
def blockOn (s : State) (o : Nat) : Bool :=
  dieOn s && (mode s != MODE_RECOVERY || decide (o < 0x100000) || decide (FW_CTRL ≤ o ∧ o < HLM_HELM))

/-- STAT_CLEAR. -/
def execStatClear (off : BitVec 32) (v : BitVec 64) (s : State) : Res :=
  if blockOn s off.toNat && isStat off.toNat then .next (statWrite off.toNat v.toNat s) else .next s

/-! ### Fields with a range -/

/-- Fields with the values that a write may give them, from the lowest to the highest in steps; a field written out of range keeps
its value. -/
def ranges : List (Fld × Nat × Nat × Nat) :=
  [(KV_CTRL_LOW_PCT, 1, 50, 1), (SRV_CTRL_RISK_PCT, 50, 100, 1), (SRV_CTRL_EWMA_SHIFT, 1, 8, 1)
  , (SRV_DRAFT_GIVEUP_COUNT, 1, 15, 1), (SRV_PAUSE_RESUME_HOLD, 1, 255, 1), (SRV_PAUSE_PAUSE_MAX, 1, 15, 1)
  , (TB_CTRL_SLEW_PPM, 10, 1000, 1), (TB_STEP_THRESH_US, 1, 1000000, 1), (TB_LOCK_NS, 10, 10000, 1)
  , (PLC_CTRL_MIG_MAX_MIB, 1, 4096, 1), (MEM_ERR_CTRL_LINK_DUE, 1, 255, 1), (MEM_ERR_CTRL_STACK_LIMIT, 1, 255, 1)
  , (CLK_ACLK_MAX_MHZ, 100, 500, 50), (THM_CAP_CFG_W, 200, 600, 1), (THM_SLEW_RAMP_FLOOR, 100, 500, 50)
  , (THM_SLEW_UP_WPS, 20, 1000, 1), (THM_LIMITS_FC_TOL, 2, 20, 1), (THM_LIMITS_RISE_PCT, 5, 100, 1), (THM_FLOW_SRC, 0, 1, 1)
  , (THM_FLOW_CP, 40, 80, 1), (THM_FLOW_K, 10, 10000, 1), (THM_DIS_WINDOW_WINDOW_S, 10, 3600, 1), (RAS_CTRL_THRESH, 2, 15, 1)
  , (RAS_CTRL_WINDOW_S, 60, 3600, 1), (BIST_RESERVE_RESERVE_W, 20, 200, 1), (NET_CTRL_VF_BAR2, 0, 5, 1)
  , (HLM_CTRL_DUTY_HOLD_MS, 10, 1000, 1), (HLM_CTRL_HELM_TIMEOUT_MS, 2, 50, 1), (HLM_LOG_CTRL_RETAIN_S, 60, 86400, 1)
  , (HLM_LOG_CTRL_RING_GIB, 2, 16, 2)]
  ++ tabulate (fun p => (TK_PART_ARM_SRC p, 0, 1022, 1)) 8 0

/-- The bits of the fields of register `o` that `v` writes out of range. -/
def badBits (o v : Nat) : Nat :=
  ranges.foldl (fun m e =>
    let f := e.1
    let x := fieldGet v f.hi f.lo
    if f.reg = o ∧ ¬ (e.2.1 ≤ x ∧ x ≤ e.2.2.1 ∧ x % e.2.2.2 = 0) then m ||| (2 ^ (f.hi + 1) - 2 ^ f.lo) else m) 0

/-- The registers whose RW fields the journal keeps as block settings (R435, R436 type 0x03). -/
def isSetting (o : Nat) : Bool :=
  decide (0x100100 ≤ o ∧ o < 0x100300) || decide (0x400000 ≤ o ∧ o < 0x600000) || decide (0xB00000 ≤ o ∧ o < 0xC00000)
    || decide (0xD00000 ≤ o ∧ o < 0xD01000) || decide (0xE00000 ≤ o ∧ o < 0x1000000)

/-- A write by the access codes of R14: RW fields take their bits where they are in range, and a 1 clears a W1C bit. -/
def plainWrite (o v : Nat) (s : State) : State :=
  match regInfo o with
  | none => s
  | some i =>
    let old := regGet s o
    let new := mergeBits old (i.rw - (i.rw &&& badBits o v)) v
    let s := regSet o (new - (new &&& (v &&& i.w1c))) s
    if isSetting o && (old &&& i.rw) != (new &&& i.rw) then journalReg o s else s

/-! ### Registers whose writes do more -/

/-- The number of a register of an array at `base`. -/
def arrayIdx (o base stride n : Nat) : Option Nat :=
  if base ≤ o ∧ o < base + stride * n ∧ (o - base) % stride = 0 then some ((o - base) / stride) else none

/-- A setting that takes effect at the next tick boundary is journalled with the value written. -/
def journalLater (o v : Nat) (s : State) : State := journal 0x03 o false [v] s

/-- Changes the settings that wait for a boundary. -/
def updDeferred (f : Deferred → Deferred) (s : State) : State := { s with deferred := f s.deferred }

/-- TK_PERIOD (R224, R247). -/
def periodWrite (v : Nat) (s : State) : State :=
  let x := fieldGet v 16 0
  if 1000 ≤ x ∧ x ≤ 100000 ∧ 2 * fget s TK_SLACK_BASE_US ≤ x then journalLater TK_PERIOD x (updDeferred (fun d => { d with period := some x }) s) else s

/-- TK_SLACK: BASE_US is at most half of TK_PERIOD (R247). -/
def slackWrite (v : Nat) (s : State) : State :=
  let x := fieldGet v 12 0
  if 100 ≤ x ∧ x ≤ 5000 ∧ 2 * x ≤ s.deferred.period.getD (fget s TK_PERIOD_US) then
    journalReg TK_SLACK (fset TK_SLACK_BASE_US x s)
  else s

/-- CLK_FCLK: 800, 900 or 1000 MHz, in force from the next tick boundary (R372). -/
def fclkWrite (v : Nat) (s : State) : State :=
  let x := fieldGet v 9 0
  if x = 800 ∨ x = 900 ∨ x = 1000 then fset CLK_FCLK_SET_MHZ x s else s

/-- MEM_TEMP: a write that breaks a range leaves the register unchanged (R271). -/
def memTempWrite (v : Nat) (s : State) : State :=
  let l := fieldGet v 15 8
  let r := fieldGet v 7 0
  if 85 ≤ l ∧ l ≤ 95 ∧ 75 ≤ r ∧ r ≤ 85 ∧ r < l then
    journalReg MEM_TEMP (fset MEM_TEMP_LIMIT_C l (fset MEM_TEMP_REFRESH2X_C r s))
  else s

/-- The value that a register of an array has, or takes at the next boundary. -/
def waiting (m : SMap (Option Nat)) (p now : Nat) : Nat := (mapGet none m p).getD now

/-- The sum of a share over the partitions that exist, with `x` for partition `p`. -/
def shareSum (s : State) (p x : Nat) (f : Nat → Nat) : Nat :=
  [0, 1, 2, 3, 4, 5, 6, 7].foldl (fun n q =>
    if q = p then n + x else if fget s (SEC_PART_STATE q) = PART_FREE then n else n + f q) 0

/-- MEM_SHAREp (R260). -/
def shareWrite (p v : Nat) (s : State) : State :=
  let v := v &&& 0x3F3F
  let sum := fun (hi lo : Nat) => shareSum s p (fieldGet v hi lo) (fun q =>
    fieldGet (waiting s.deferred.shares q (regGet s (MEM_SHARE q))) hi lo)
  if 56 < sum 5 0 ∨ 56 < sum 13 8 then fset MEM_STATUS_CFG_REJECT 1 s
  else journalLater (MEM_SHARE p) v (updDeferred (fun d => { d with shares := mapSet none d.shares p (some v) }) s)

/-- The QP range [first, end) of a NET_PARTp word 3. -/
def qpSpan (v : Nat) : Nat × Nat := (fieldGet v 63 54, fieldGet v 63 54 + fieldGet v 53 43)

/-- NET_PARTp word 3 (R332). -/
def netPartWrite (p v : Nat) (s : State) : State :=
  let rw := 2 ^ 64 - 2 ^ 43 + (2 ^ 38 - 2 ^ 32)
  let v := v &&& rw
  let word := fun (q : Nat) => waiting s.deferred.netPart q (regGet s (NET_PART_W3 q) &&& rw)
  let mine := qpSpan v
  let clash := [0, 1, 2, 3, 4, 5, 6, 7].any (fun q =>
    q != p && fget s (SEC_PART_STATE q) != PART_FREE
      && decide (mine.1 < mine.2 ∧ mine.1 < (qpSpan (word q)).2 ∧ (qpSpan (word q)).1 < mine.2))
  let left := s.qps.any (fun e => match e.2 with
    | some x => x.part == p && !decide (mine.1 ≤ e.1 ∧ e.1 < mine.2)
    | none => false)
  if clash ∨ 1024 < mine.2 ∨ 60 < shareSum s p (fieldGet v 37 32) (fun q => fieldGet (word q) 37 32) ∨ left then
    fset NET_STATUS_CFG_REJECT 1 s
  else journalLater (NET_PART_W3 p) v (updDeferred (fun d => { d with netPart := mapSet none d.netPart p (some v) }) s)

/-- NET_HL_BAR2_BASE: one that would carry the window beyond 2^38 is ignored (R331). -/
def barWrite (v : Nat) (s : State) : State :=
  if fieldGet v 37 0 / pfBar2 s * pfBar2 s + pfBar2 s ≤ 2 ^ 38 then plainWrite NET_HL_BAR2_BASE v s else s


/-- The route that EDC_SRC_CFGn would take is refused (R338, R347). -/
def routeBad (v : Nat) : Bool :=
  let o := fieldGet v 27 24
  let c := fieldGet v 20 16
  decide (8 < o) || (decide (28 ≤ c) && c != 31) || (decide (1 ≤ c ∧ c ≤ 8) && decide (32 ≤ fieldGet v 15 8))
    || (decide (o < 8) && !(c == 0 || c == o + 1 || decide (12 ≤ c ∧ c ≤ 27) || c == 31))

/-- EDC registers that change what is eligible notify by R339. -/
def edcWrite (o v : Nat) (s : State) : State := edcUpdate (edcElig s) (plainWrite o v s)

/-- EDC_PENDw: source 0 and source 1023 do not exist (R347). -/
def pendWrite (w v : Nat) (s : State) : State :=
  edcWrite (EDC_PEND w) (if w = 0 then setBit v 0 false else if w = 31 then setBit v 31 false else v) s

/-- EDC_SRC_CFGn. -/
def srcCfgWrite (n v : Nat) (s : State) : State :=
  if n = 0 then s else if routeBad v then fset EDC_STATUS_CFG_REJECT 1 s else edcWrite (EDC_SRC_CFG n) v s

/-- EDC_LOCK: a write of the holder's code releases it. -/
def lockWrite (v : Nat) (s : State) : State :=
  let own := fget s EDC_LOCK_OWNER
  if own ≠ 0 ∧ fieldGet v 2 0 = own then fset EDC_LOCK_OWNER 0 s else s

/-- Registers of codec slot `i` beside CFG: ignored while the slot is enabled (R298). -/
def slotWrite (i k v : Nat) (s : State) : State :=
  if k = 0 then slotCfgWrite i v s
  else if k = 0x58 then (submitGo i (v % 2 ^ 32) (slotGet s i).subStamp s).2
  else if k = 0x60 then slotUpd i (fun x => { x with subStamp := BitVec.ofNat 64 v }) s
  else if k = 0x68 then bufRelease i (v % 2 ^ 32) s
  else if fbit s (VCC_SLOT_CFG_EN i) then s
  else journalSlot i (plainWrite (VCC_SLOT_CFG i + k) v s)

/-- TK_ARMp (R228). -/
def armWrite (p v : Nat) (s : State) : State := addCredits p (fieldGet v 15 0) s

/-! ### HLM (R470, R471) -/

/-- HLM_CTRL. -/
def hlmCtrlWrite (v : Nat) (s : State) : State :=
  let s := plainWrite HLM_CTRL v s
  if bitOf v 31 then restartFollower s else s

/-- HLM_DUTY: a standby is not ACTIVE until a take-over completes (R458); DUTY_OUT follows (R454). -/
def dutyWrite (v : Nat) (s : State) : State :=
  let s := if bitOf v 30 && !fbit s HLM_DUTY_ROLE then fset HLM_DUTY_ACTIVE 0 s else s
  journalHlm 0 (dutySync (plainWrite HLM_DUTY v s))

/-- The managers enabled. -/
def mgrsOn (s : State) : List Nat := [0, 1, 2, 3, 4, 5, 6].filter (fun m => fbit s (HLM_MGR_EN m))

/-- HLM_QUORUM: Q is 2 to 5 and no greater than the managers enabled. -/
def quorumWrite (v : Nat) (s : State) : State :=
  let q := fieldGet v 18 16
  if 2 ≤ q ∧ q ≤ 5 ∧ q ≤ (mgrsOn s).length then journalHlm 3 (fset HLM_QUORUM_Q q s) else fset HLM_STATUS_CFG_REJECT 1 s

/-- HLM_MGRm: a write that clears EN is ignored when fewer than Q managers would remain enabled. -/
def mgrWrite (m v : Nat) (s : State) : State :=
  if fbit s (HLM_MGR_EN m) && !bitOf v 63 && decide ((mgrsOn s).length ≤ fget s HLM_QUORUM_Q) then
    fset HLM_STATUS_CFG_REJECT 1 s
  else journalHlm 3 (plainWrite (HLM_MGR m) v s)

/-! ### FW (R448) -/

/-- FW_CTRL: its actions, from VERIFY to RECOVER. -/
def fwCtrlWrite (v : Nat) (s : State) : State :=
  [(0, verifyGo), (1, activateGo), (2, confirmGo), (3, revertGo), (4, recoverGo)].foldl
    (fun s (x : Nat × (State → State)) => if bitOf v x.1 then x.2 s else s) s

/-! ### One register -/

/-- A write of the single register at offset `o`, where its write does more than R14; none for another. -/
def oneWrite (wr : Agent) (o v : Nat) (s : State) : Option State :=
  if o = TK_PERIOD then some (periodWrite v s)
  else if o = TK_SLACK then some (slackWrite v s)
  else if o = EDC_DOORBELL then some (bellWrite wr v s)
  else if o = EDC_LOCK then some (lockWrite v s)
  else if o = CLK_FCLK then some (fclkWrite v s)
  else if o = THM_SENSOR_CLR then some (sensorClrWrite v s)
  else if o = THM_STATUS then
    some (let s' := plainWrite o v s; if fget s' THM_STATUS_TRIP_SEEN = fget s THM_STATUS_TRIP_SEEN then s' else journalReg o s')
  else if o = RAS_ENG_SEL then some (rasEngSelWrite v s)
  else if o = RAS_ENG_CLR then some (rasEngClrWrite v s)
  else if o = BIST_CTRL then some (bistCtrlWrite v s)
  else if o = SEC_PART_CMD then some (secCmdWrite v s)
  else if o = FW_CTRL then some (fwCtrlWrite v s)
  else if o = FW_RCV_CTRL then some (rcvCtrlWrite v s)
  else if o = HLM_CTRL then some (hlmCtrlWrite v s)
  else if o = HLM_DUTY then some (dutyWrite v s)
  else if o = HLM_QUORUM then some (quorumWrite v s)
  else if o = HLM_LOG_CTRL ∨ o = HLM_LOG_PEER 0 ∨ o = HLM_LOG_PEER 1 then some (journalHlm 4 (plainWrite o v s))
  else if o = HLM_MEMBER then some (journalHlm 1 (plainWrite o v s))
  else if o = HLM_JOB then some (jobWrite v s)
  else if o = PLC_ENG_SEL then some (plcEngSelWrite v s)
  else if o = PLC_HINT_SEL then some (plcHintSelWrite v s)
  else if o = SRV_REQ_SEL then some (reqSelWrite v s)
  else if o = KV_CTX_SEL then some (ctxSelWrite v s)
  else if o = NET_HL_BAR2_BASE then some (barWrite v s)
  else if o = NET_PTP then some (bestMaster (plainWrite o v s))
  else if o = VCC_NTP_OFS then some (fset VCC_STATUS_NTP_SET 1 (plainWrite o v s))
  else if o = MEM_RETRAIN then some (memRetrainWrite v s)
  else if o = MEM_TEMP then some (memTempWrite v s)
  else none

/-- The arrays of registers whose writes do more than R14: base, stride, length, and the write of register `i`. -/
def arrayWrites (wr : Agent) : List (Nat × Nat × Nat × (Nat → Nat → State → State)) :=
  [(TK_ARM 0, 4, 8, armWrite), (EDC_PEND 0, 4, 32, pendWrite), (EDC_MASK 0, 4, 32, fun w => edcWrite (EDC_MASK w))
  , (EDC_SRC_CFG 0, 4, 1023, srcCfgWrite), (EDC_CTX_COMPLETE 0, 32, 28, fun c v => ctxComplete c (fieldGet v 9 0))
  , (EDC_CTX_THRESH 0, 32, 28, fun c => edcWrite (EDC_CTX_THRESH c))
  , (SEC_WIN 0 0, 8, 64, fun i => secWinWrite (i / 8) (i % 8)), (HLM_MGR 0, 8, 7, mgrWrite), (SRV_PART 0, 8, 8, srvPartWrite)
  , (NET_PART_W3 0, 32, 8, netPartWrite), (MEM_SHARE 0, 4, 8, shareWrite)
  , (VCC_SLOT_CFG 0, 8, 1024, fun i => slotWrite (i / 16) (8 * (i % 16)))
  , (0x2000000, 8, 1048576, fun i v s =>
      let p := i / 131072
      let l := i % 131072 / 8
      if l < 128 ∧ i % 8 = 2 then
        cfgWrite (match wr with | .vf n => n.val + 1 | _ => 0) (128 * p + l) v s
      else plainWrite (0x2000000 + 8 * i) v s)]

/-- A write of the register at offset `o`, whole (R14). -/
def regWrite (wr : Agent) (o v : Nat) (s : State) : State :=
  match oneWrite wr o v s with
  | some t => t
  | none =>
    match (arrayWrites wr).findSome? (fun a => (arrayIdx o a.1 a.2.1 a.2.2.1).map (fun i => a.2.2.2 i v s)) with
    | some t => t
    | none => if isStat o then statWrite o v s else plainWrite o v s

/-- What a register at `o` holds that a write of some of its bytes leaves: its RW fields, and of VCC_SLOTn_SUBMIT_STAMP the stamp
written before (R299). -/
def keptBits (s : State) (o rw : Nat) : Nat :=
  match arrayIdx o (VCC_SLOT_CFG 0 + 0x60) 128 64 with
  | some i => (slotGet s i).subStamp.toNat
  | none => regGet s o &&& rw

/-- What a write of some bytes of a register gives all of it: RW fields elsewhere keep their values, and bits that act or clear
are 0 there. -/
def widen (s : State) (o rw mask v : Nat) : Nat := mergeBits (keptBits s o rw) mask v

/-- A write of 4 bytes at offset `o` (R306): of a 32-bit register, or of half of a 64-bit one. -/
def write4 (wr : Agent) (o v : Nat) (s : State) : State :=
  match regInfo o with
  | some i => if i.width = 64 then regWrite wr o (widen s o i.rw 0xFFFFFFFF v) s else regWrite wr o v s
  | none =>
    match regInfo (o - 4) with
    | some i => if i.width = 64 ∧ 4 ≤ o then regWrite wr (o - 4) (widen s (o - 4) i.rw (0xFFFFFFFF * 2 ^ 32) (v * 2 ^ 32)) s else s
    | none => s

/-- A write of 8 bytes at offset `o`: of a 64-bit register, or of two 32-bit ones. -/
def write8 (wr : Agent) (o v : Nat) (s : State) : State :=
  match regInfo o with
  | some i => if i.width = 64 then regWrite wr o v s else write4 wr (o + 4) (v / 2 ^ 32) (write4 wr o (v % 2 ^ 32) s)
  | none => write4 wr (o + 4) (v / 2 ^ 32) (write4 wr o (v % 2 ^ 32) s)

/-- A write to the window of the recovery download (R447). -/
def rcvWindow (o : Nat) : Bool := decide (0x810000 ≤ o ∧ o < 0x820000)

/-- A write of `size` bytes at offset `o` of the PF's BAR0. -/
def barZero (wr : Agent) (o size v : Nat) (s : State) : State :=
  if !blockOn s o then s
  else if rcvWindow o then
    (if mode s = MODE_RECOVERY then rcvPut (fget s FW_RCV_OFS_OFS + (o - 0x810000)) (leBytes size v) s else s)
  else if size = 4 then write4 wr o (v % 2 ^ 32) s else write8 wr o v s

/-- A write of BAR0 of the VF that serves partition `p` (R307, R412): its queues, its context, and its record cursor. -/
def barZeroVf (wr : Agent) (p o size v : Nat) (s : State) : State :=
  if o < 0x2000 then barZero wr (0x2000000 + 0x100000 * p + o) size v s
  else if o = 0x80104 then ctxComplete (p + 1) (fieldGet v 9 0) s
  else if o = 0x80108 then edcWrite (EDC_CTX_THRESH (p + 1)) v s
  else if o = 0x80200 then recSelWrite p (if size = 4 then v % 2 ^ 32 else v) s
  else s

/-- The function through which an agent writes; firmware and the ACX reach the registers as the PF does (log 47). -/
def agentFunc : Agent → Option (Option (Fin 8))
  | .vf n => some (some n)
  | .pf => some none
  | .stewN => some none
  | .stewS => some none
  | .acx => some none
  | .lantern => some none
  | .block => none
  | .program _ => none
  | .codec _ => none

/-- REGISTER_WRITE. A size other than 4 or 8 bytes, or an unaligned offset, is a violation of class 0x05 (R306, R329). -/
def execRegisterWrite (a : Agent) (off : BitVec 32) (size : Nat) (v : BitVec 64) (s : State) : Res :=
  let o := off.toNat
  if !dieOn s then .next s
  else
    match agentFunc a with
    | none => .next s
    | some f =>
      if (size ≠ 4 ∧ size ≠ 8) ∨ o % size ≠ 0 then
        .next (violationFree 0x05 (match f with | none => 0 | some n => n.val + 1) s)
      else
        match f with
        | none => .next (barZero a o size v.toNat s)
        | some n =>
          if !s.power.vfEnabled || vfGone s n.val then .next (answerUr s)
          else .next (barZeroVf a n.val o size v.toNat s)

end Sys2Proof.Machine
end

