-- ==== Sys2Proof/Machine/Requests.lean ====
section
/-!
DEFINITION. Request commands of the rings (R196 to R200, R318).
-/
namespace Sys2Proof.Machine

/-- A word is 0 outside the bits of `mask`. -/
def onlyBits (v mask : Nat) : Bool := v &&& mask == v

/-- Bits [hi:lo] of a word. -/
def fieldMask (hi lo : Nat) : Nat := 2 ^ (hi + 1) - 2 ^ lo

/-- The bits of word 0, word 1 and word 5 that ADMIT names (R318). -/
def admitMask0 : Nat := fieldMask 56 53 + fieldMask 51 44 + fieldMask 35 35 + fieldMask 27 16
def admitMask1 : Nat := fieldMask 63 22
def admitMask5 : Nat := fieldMask 63 16

/-- The bits of word 0 that SET reads (R318). -/
def setMask0 : Nat := fieldMask 56 53 + fieldMask 51 48

/-- A field of ADMIT is outside its range, or MAIN breaks R197. -/
def admitBad (s : State) (p : Nat) (e : ReqEnt) : Bool :=
  let m := rqMain e
  let st := rqState (reqGet s m)
  decide (1048575 < rqPromptLen e) || decide (rqMaxLen e ≤ rqPromptLen e) || decide (1048576 < rqMaxLen e)
    || (decide (1 ≤ rqPageK e) && decide (rqPageK e ≤ 3)) || decide (12 ≤ rqPageK e)
    || (rqCompanion e && !(reqInRange s p m && decide (1 ≤ st) && decide (st ≤ 3) && !rqCompanion (reqGet s m)))
    || (!rqCompanion e && m != 0)

/-- The lowest FREE index of partition `p`'s range (R194). -/
def reqFreeIndex (s : State) (p : Nat) : Option Nat :=
  firstIdx (fun i => rqState (reqGet s i) == RQ_FREE) (fget s (SRV_PART_COUNT p)) (fget s (SRV_PART_BASE p))

/-- ADMIT, in the order of R197. -/
def admitCmd (p : Nat) (e : ReqEnt) (s : State) : CmdOut :=
  if rqPromptLen e = 0 then cmdFail ST_EMPTY_REQUEST s
  else if admitBad s p e then cmdFail ST_REQ_INVALID s
  else
    match reqFreeIndex s p with
    | none => cmdFail ST_TABLE_FULL (fset SRV_STATUS_TABLE_FULL 1 s)
    | some i =>
      let e := rqSet0 59 57 p (rqSet0 63 60 RQ_ADMITTED { e with w2 := s.now })
      cmdOk i (statInc SRV_STAT_ADMITTED (srvSync p (reqUpd i (fun _ => e) s)))

/-- ADMIT. -/
def execReqAdmit (q : QCmd) (w0 : BitVec 64) (w1 : BitVec 64) (deadline : BitVec 64) (w5 : BitVec 64) (s : State) :
    Res :=
  let resv := !onlyBits w0.toNat admitMask0 || !onlyBits w1.toNat admitMask1 || !onlyBits w5.toNat admitMask5
  runCmd (.reqAdmit q w0 w1 deadline w5) q resv (fun s => admitCmd (cmdPart q) { reqFree with w0 := w0, w1 := w1, w3 := deadline, w5 := w5 } s) s

/-- A command on an entry of the queue's partition in one of the states `sts`; else it has no effect (R194, R196). -/
def onReq (q : QCmd) (i : Nat) (sts : List Nat) (f : Nat → State → CmdOut) (s : State) : CmdOut :=
  let p := cmdPart q
  if reqInRange s p i && sts.contains (rqState (reqGet s i)) then f p s else cmdFail ST_REQ_STATE s

/-- A request ends by command (R198). -/
def endCmd (st code i p : Nat) (s : State) : CmdOut := cmdOk 0 (kvSettleNow p (reqStop p st code i s))

/-- CANCEL. -/
def execReqCancel (q : QCmd) (idx : BitVec 16) (s : State) : Res :=
  runCmd (.reqCancel q idx) q false (onReq q idx.toNat [RQ_ADMITTED, RQ_ACTIVE, RQ_PAUSED]
    (endCmd RQ_CANCELLED ST_CANCELLED idx.toNat)) s

/-- FINISH (R199). -/
def execReqFinish (q : QCmd) (idx : BitVec 16) (s : State) : Res :=
  runCmd (.reqFinish q idx) q false (onReq q idx.toNat [RQ_ACTIVE, RQ_PAUSED] (endCmd RQ_DONE ST_OK idx.toNat)) s

/-- PAUSE: at the next step boundary (R207). -/
def execReqPause (q : QCmd) (idx : BitVec 16) (s : State) : Res :=
  runCmd (.reqPause q idx) q false (onReq q idx.toNat [RQ_ACTIVE] (fun _ s =>
    cmdOk 0 (reqUpd idx.toNat (fun e => { rqSet0 52 52 1 e with mark := 3 }) s))) s

/-- RESUME: at the next step boundary (R207). -/
def execReqResume (q : QCmd) (idx : BitVec 16) (s : State) : Res :=
  runCmd (.reqResume q idx) q false (onReq q idx.toNat [RQ_PAUSED] (fun _ s =>
    cmdOk 0 (reqUpd idx.toNat (fun e => { rqSet0 52 52 0 e with mark := 2 }) s))) s

/-- The fields of SET that `mask` selects. -/
def setFields (w0 dl w5 mask : Nat) (e : ReqEnt) : ReqEnt :=
  let e := if bitOf mask 0 then rqSet0 56 54 (fieldGet w0 56 54) e else e
  let e := if bitOf mask 1 then rqSet0 53 53 (fieldGet w0 53 53) e else e
  let e := if bitOf mask 2 then rqSet0 43 40 0 (rqSet0 51 48 (fieldGet w0 51 48) e) else e
  let e := if bitOf mask 3 then rqSet5 63 40 (fieldGet w5 63 40) e else e
  let e := if bitOf mask 4 then rqSet5 39 16 (fieldGet w5 39 16) e else e
  if bitOf mask 5 then { e with w3 := BitVec.ofNat 64 dl } else e

/-- SET; its bytes 10 to 15 are the operand `hole`. -/
def execReqSet (q : QCmd) (idx : BitVec 16) (hole : BitVec 48) (w0 : BitVec 64) (deadline : BitVec 64)
    (w5 : BitVec 64) (mask : BitVec 64) (s : State) : Res :=
  let resv := hole != 0 || !onlyBits w0.toNat setMask0 || !onlyBits w5.toNat admitMask5 || decide (64 ≤ mask.toNat)
  runCmd (.reqSet q idx hole w0 deadline w5 mask) q resv (onReq q idx.toNat [RQ_ADMITTED, RQ_ACTIVE, RQ_PAUSED] (fun _ s =>
    cmdOk 0 (reqUpd idx.toNat (setFields w0.toNat deadline.toNat w5.toNat mask.toNat) s))) s

/-- RETIRE: the entry returns to FREE once every page of the request is FREE. -/
def execReqRetire (q : QCmd) (idx : BitVec 16) (s : State) : Res :=
  runCmd (.reqRetire q idx) q false (onReq q idx.toNat [RQ_CANCELLED, RQ_LAPSED, RQ_DONE] (fun p s =>
    if reqPagesFree s p idx.toNat then cmdOk 0 (reqFreeOut p idx.toNat s)
    else cmdOk 0 (reqUpd idx.toNat (fun e => { e with mark := 4 }) s))) s

/-- The eight words of an entry as bytes. -/
def reqBytes (e : ReqEnt) : List Byte :=
  [e.w0, e.w1, e.w2, e.w3, e.w4, e.w5, e.w6, e.w7].flatMap (fun w => leBytes 8 w.toNat)

/-- QUERY: the eight words go to host memory before the completion. -/
def execReqQuery (q : QCmd) (idx : BitVec 16) (addr : BitVec 64) (dma : Dma) (s : State) : Res :=
  runCmd (.reqQuery q idx addr dma) q false (onReq q idx.toNat [RQ_ADMITTED, RQ_ACTIVE, RQ_PAUSED, RQ_CANCELLED, RQ_LAPSED, RQ_DONE]
    (fun _ s =>
      if dma.ok then cmdMoved q 0 (hostWrite addr.toNat (reqBytes (reqGet s idx.toNat)) s) else cmdFail ST_DMA_FAULT s)) s

end Sys2Proof.Machine
end

