-- ==== Sys2Proof/Machine/Security.lean ====
section
/-!
DEFINITION. Identity, weight keys and attestation (R417 to R422; log 15).
-/
namespace Sys2Proof.Machine

/-- EMSA-PSS encoding with SHA-512 and a 64-byte salt for a modulus of 4096 bits. -/
def pssEncode (msg salt : List Byte) : List Byte :=
  let h := sha512 (List.replicate 8 0 ++ sha512 msg ++ salt)
  let db := xorBytes (List.replicate 382 0 ++ [0x01] ++ salt) (mgf1 h 447)
  beBytes 447 (ofBe db % 2 ^ (8 * 447 - 1)) ++ h ++ [0xBC]

/-- The next salt, which is free (log 3). -/
def saltNext (s : State) : List Byte := tabulate (fun i => BitVec.ofNat 8 (Config.freeAt s.free i)) 64 0

/-- The signature of a message with the identity key, as an octet string. -/
def idSign (s : State) (msg : List Byte) : List Byte := beBytes 512 (Config.rsaPrivate 0 (ofBe (pssEncode msg (saltNext s))))

/-- The message of an RSAES-OAEP block under SHA-512 with an empty label, where it decodes to 64 bytes (R420). -/
def oaepDecode (em : List Byte) : Option (List Byte) :=
  let mdb := em.drop 65
  let seed := xorBytes ((em.drop 1).take 64) (mgf1 mdb 64)
  let db := xorBytes mdb (mgf1 seed 447)
  if em.length == 512 && em.take 1 == [0] && db.take 64 == sha512 [] && (db.drop 64).take 319 == List.replicate 318 0 ++ [0x01] then
    some (db.drop 383)
  else none

/-! ### QUOTE (R422) -/

/-- The tensors that partition `p` has registered from Flask, in the order of their handles. -/
def quoteList (s : State) (p : Nat) : List (Nat × Tensor) :=
  s.tensors.filterMap (fun e => (e.2.filter (fun t => t.part == p && t.flask)).map (fun t => (e.1, t)))

/-- The hash of the image that runs from region `r`, at offset `o` of the bundle's header (R427, R428). -/
def imageHash (s : State) (r o : Nat) : List Byte := bundleBytes (regionByte s r) o 64

/-- The bytes of a quote before its signature. -/
def quoteBody (s : State) (p : Nat) (nonce : BitVec 256) : List Byte :=
  let l := quoteList s p
  let pt := partOf s p
  leBytes 4 0x51544F51 ++ leBytes 2 1 ++ leBytes 1 p ++ leBytes 1 l.length ++ leBytes 8 s.now.toNat
    ++ leBytes 4 (regGet s GEN_ID) ++ leBytes 4 (bundleSvn s s.fw.running) ++ leBytes 8 0 ++ leBytes 32 nonce.toNat
    ++ imageHash s s.fw.imgL 40 ++ imageHash s s.fw.imgN 104 ++ imageHash s s.fw.imgS 104
    ++ (if pt.loaded then sha512 pt.imageBytes else List.replicate 64 0)
    ++ l.flatMap (fun e => leBytes 4 e.1 ++ leBytes 4 e.2.object ++ beBytes 64 e.2.digest)

/-- The partition that a quote is of: a VF's own. -/
def quotePart (q : QCmd) (part : BitVec 8) (s : State) : Nat := if fromVf q s then cmdPart q else part.toNat

/-- QUOTE (R422). While a publish window is open the queue does not take it. -/
def execSecQuote (q : QCmd) (nonce : BitVec 256) (addr : BitVec 64) (len : BitVec 64) (part : BitVec 8) (dma : Dma)
    (s : State) : Res :=
  if windowOpen s then .next s
  else
    runCmd (.secQuote q nonce addr len part dma) q false (fun s =>
      let p := quotePart q part s
      if 8 ≤ p then cmdFail ST_CMD_INVALID s
      else if !s.idReady then cmdFail ST_ID_UNAVAILABLE s
      else if len.toNat < 832 + 72 * (quoteList s p).length then cmdFail ST_CMD_INVALID s
      else if !dma.ok then cmdFail ST_DMA_FAULT s
      else
        let m := quoteBody s p nonce
        cmdMoved q 0 (statInc SEC_STAT_QUOTES (freeUse 1 (hostWrite addr.toNat (m ++ idSign s m) s)))) s

/-- CERT (R419). -/
def execSecCert (q : QCmd) (addr : BitVec 64) (len : BitVec 64) (dma : Dma) (s : State) : Res :=
  runCmd (.secCert q addr len dma) q false (fun s =>
    let n := Config.certLen % 16385
    if len.toNat < 16384 then cmdFail ST_CMD_INVALID s
    else if !dma.ok then cmdFail ST_DMA_FAULT s
    else cmdMoved q n (hostWrite addr.toNat (tabulate (fun i => BitVec.ofNat 8 (Config.certByte i)) n 0) s)) s

/-! ### Weight keys (R420) -/

/-- KEY_IMPORT. -/
def execKeyImport (q : QCmd) (slot : BitVec 8) (pad : BitVec 56) (addr : BitVec 64) (dma : Dma) (s : State) : Res :=
  runCmd (.keyImport q slot pad addr dma) q (pad != 0) (fun s =>
    let i := slot.toNat
    if fromVf q s then cmdFail ST_KEY_SLOT s
    else if 64 ≤ i then cmdFail ST_CMD_INVALID s
    else if !s.idReady then cmdFail ST_ID_UNAVAILABLE s
    else if bitOf (regGet s SEC_KEYS) i then cmdFail ST_KEY_SLOT s
    else if !dma.ok then cmdFail ST_DMA_FAULT s
    else
      match oaepDecode (beBytes 512 (Config.rsaPrivate 1 (ofBe dma.data))) with
      | none => cmdFail ST_KEY_SLOT s
      | some k =>
        let w := Config.keyWrap (ofBe k)
        cmdMoved q 0 (journal 0x09 i false [w] (regSet SEC_KEYS (setBit (regGet s SEC_KEYS) i true)
          { s with wrapped := mapSet none s.wrapped i (some (beBytes 72 w)) }))) s

/-- KEY_DELETE. -/
def execKeyDelete (q : QCmd) (slot : BitVec 8) (s : State) : Res :=
  runCmd (.keyDelete q slot) q false (fun s =>
    let i := slot.toNat
    if fromVf q s then cmdFail ST_KEY_SLOT s
    else if 64 ≤ i then cmdFail ST_CMD_INVALID s
    else if !bitOf (regGet s SEC_KEYS) i then cmdFail ST_KEY_SLOT s
    else
      cmdOk 0 (journal 0x09 i true [] (regSet SEC_KEYS (setBit (regGet s SEC_KEYS) i false)
        { s with wrapped := mapSet none s.wrapped i none }))) s

end Sys2Proof.Machine
end

