-- ==== Sys2Proof/Machine/Selects.lean ====
section
/-!
DEFINITION. Reads through a selector, and the writes that clear a record or set a range (R191, R215, R216, R248, R360, R384,
R401, R414).
-/
namespace Sys2Proof.Machine

/-- SEC_TV_REC_SEL, written through the VF of partition `p`. -/
def execSecTvRecSel (p : Fin 8) (v : BitVec 64) (s : State) : Res :=
  if dieOn s then .next (recSelWrite p.val v.toNat s) else .next s

/-- RAS_ENG_SEL. -/
def execRasEngSel (v : BitVec 64) (s : State) : Res := if dieOn s then .next (rasEngSelWrite v.toNat s) else .next s

/-- RAS_ENG_CLR. -/
def execRasEngClr (v : BitVec 32) (s : State) : Res := if dieOn s then .next (rasEngClrWrite v.toNat s) else .next s

/-- THM_SENSOR_CLR. -/
def execThmSensorClr (v : BitVec 32) (s : State) : Res := if dieOn s then .next (sensorClrWrite v.toNat s) else .next s

/-- PLC_ENG_SEL. -/
def execPlcEngSel (v : BitVec 64) (s : State) : Res := if dieOn s then .next (plcEngSelWrite v.toNat s) else .next s

/-- PLC_HINT_SEL. -/
def execPlcHintSel (v : BitVec 64) (s : State) : Res := if dieOn s then .next (plcHintSelWrite v.toNat s) else .next s

/-- KV_CTX_SEL. -/
def execKvCtxSel (v : BitVec 64) (s : State) : Res := if dieOn s then .next (ctxSelWrite v.toNat s) else .next s

/-- SRV_REQ_SEL. -/
def execSrvReqSel (v : BitVec 64) (s : State) : Res := if dieOn s then .next (reqSelWrite v.toNat s) else .next s

/-- SRV_PART. -/
def execSrvPart (p : Fin 8) (v : BitVec 64) (s : State) : Res :=
  if dieOn s then .next (srvPartWrite p.val v.toNat s) else .next s

end Sys2Proof.Machine
end

