-- ==== Sys2Proof/Machine/Smbus.lean ====
section
/-!
DEFINITION. What Lantern serves over SMBus (R28, R446, R447, R483, R495; log 16).
-/
namespace Sys2Proof.Machine

/-- SLOT_ID_CHANGE: a change of the straps is noted; the latched value stays (R483). -/
def execSlotIdChange (straps : BitVec 5) (s : State) : Res :=
  if mode s = MODE_OFF ∨ straps = s.power.straps then .next s
  else .next (fset GEN_SLOT_SLOT_CHANGED 1 (updPower (fun p => { p with straps := straps }) s))

/-- SMB_ALERT_RESPONSE: SMB_ALERT# is released. -/
def execSmbAlertResponse (s : State) : Res :=
  if mode s = MODE_OFF then .next s else .next (updPower (fun p => { p with alert := false }) s)

/-- The THM block. -/
def inThm (o : Nat) : Bool := decide (0x400000 ≤ o ∧ o < 0x500000)

/-- The value that a read of the register at `o` returns: TB_TIME shows device time (R219, R246). -/
def regShown (s : State) (o : Nat) : Nat := if o = TB_TIME then s.now.toNat else regGet s o

/-- The value that READ returns for offset `o`: 0 where it is not reachable, or its block is unpowered (R495). -/
def smbusValue (s : State) (o : Nat) : Nat :=
  if o = GEN_STATE ∨ o = GEN_SLOT then regShown s o
  else if (inThm o || o == FW_STATUS || o == FW_ACTIVE || o == FW_RCV_CTRL) && (regInfo o).isSome && dieOn s then regShown s o
  else 0

/-- Lantern answers a block read. -/
def smbusAnswer (v : Nat) (s : State) : State := { s with out := .smbus (leBytes 8 v) :: s.out }

/-- SMBUS_READ. -/
def execSmbusRead (off : BitVec 32) (s : State) : Res :=
  if mode s = MODE_OFF then .next s else .next (smbusAnswer (smbusValue s off.toNat) s)

/-- SMBUS_WRITE: the RW and W1C fields of the THM block. -/
def execSmbusWrite (off : BitVec 32) (v : BitVec 64) (s : State) : Res :=
  let o := off.toNat
  if dieOn s && inThm o && !isStat o && o != THM_SENSOR_CLR then .next (regWrite .lantern o v.toNat s) else .next s

/-- SMBUS_RECOVERY_START: 0xF0 with a valid length enters RECOVERY, and the download begins (R446, R447). -/
def execSmbusRecoveryStart (len : BitVec 32) (s : State) : Res :=
  let n := len.toNat
  if !rcvLenOk n then .next s
  else
    let s := recoverGo s
    if mode s = MODE_RECOVERY then .next (rcvStart n s) else .next s

/-- SMBUS_RECOVERY_DATA: 0xF1. -/
def execSmbusRecoveryData (off : BitVec 32) (bytes : List Byte) (s : State) : Res :=
  if mode s = MODE_RECOVERY then .next (rcvPut off.toNat bytes s) else .next s

/-- SMBUS_RECOVERY_FINISH: 0xF2. -/
def execSmbusRecoveryFinish (s : State) : Res := .next (rcvFinish s)

/-- SMBUS_RECOVERY_STATUS: 0xF3 reads FW_RCV_CTRL. -/
def execSmbusRecoveryStatus (s : State) : Res :=
  if mode s = MODE_OFF then .next s else .next (smbusAnswer (smbusValue s FW_RCV_CTRL) s)

end Sys2Proof.Machine
end

