-- ==== Sys2Proof/Machine/StationIssue.lean ====
section
/-!
DEFINITION. The station instructions: each issues under its own checks (R125) and enters its station's queue; what its
station then does unit by unit is in InOps, MxOps and VxOps.
-/
namespace Sys2Proof.Machine

/-- in.load (R133). `errs` are errors that its reads will meet (R268). -/
def execInLoad (p : Fin 8) (w : LoadW) (s : State) : Res :=
  .next (issueStation OP_LOAD (.inLoad p { w with errs := [] }) p w.word (errsCome w.errs s))

/-- in.win (R133, R153 to R157), with errors that its reads will meet (R268). -/
def execInWin (p : Fin 8) (w : LoadW) (s : State) : Res :=
  .next (issueStation OP_WIN (.inWin p { w with errs := [] }) p w.word (errsCome w.errs s))

/-- in.gather (R133, R134). -/
def execInGather (p : Fin 8) (w : StaW) (s : State) : Res := .next (issueStation OP_GATHER (.inGather p w) p w s)

/-- mx.mm (R135, R136). -/
def execMxMm (p : Fin 8) (w : StaW) (s : State) : Res := .next (issueStation OP_MM (.mxMm p w) p w s)

/-- mx.score (R182). -/
def execMxScore (p : Fin 8) (w : StaW) (s : State) : Res := .next (issueStation OP_SCORE (.mxScore p w) p w s)

/-- mx.mix (R185). -/
def execMxMix (p : Fin 8) (w : StaW) (s : State) : Res := .next (issueStation OP_MIX (.mxMix p w) p w s)

/-- vx.ew1 (R137). -/
def execVxEw1 (p : Fin 8) (w : StaW) (s : State) : Res := .next (issueStation OP_EW1 (.vxEw1 p w) p w s)

/-- vx.ew2 (R138). -/
def execVxEw2 (p : Fin 8) (w : StaW) (s : State) : Res := .next (issueStation OP_EW2 (.vxEw2 p w) p w s)

/-- vx.act (R137, R492). -/
def execVxAct (p : Fin 8) (w : StaW) (s : State) : Res := .next (issueStation OP_ACT (.vxAct p w) p w s)

/-- vx.rmsnorm (R137, R493). -/
def execVxRmsnorm (p : Fin 8) (w : StaW) (s : State) : Res := .next (issueStation OP_RMS (.vxRmsnorm p w) p w s)

/-- vx.lnorm (R137, R493). -/
def execVxLnorm (p : Fin 8) (w : StaW) (s : State) : Res := .next (issueStation OP_LN (.vxLnorm p w) p w s)

/-- vx.smax (R184). -/
def execVxSmax (p : Fin 8) (w : StaW) (s : State) : Res := .next (issueStation OP_SMAX (.vxSmax p w) p w s)

/-- vx.merge (R186). -/
def execVxMerge (p : Fin 8) (w : StaW) (s : State) : Res := .next (issueStation OP_MERGE (.vxMerge p w) p w s)

/-- vx.rope (R137, R493). -/
def execVxRope (p : Fin 8) (w : StaW) (s : State) : Res := .next (issueStation OP_ROPE (.vxRope p w) p w s)

/-- vx.silumul (R137, R138). -/
def execVxSilumul (p : Fin 8) (w : StaW) (s : State) : Res := .next (issueStation OP_SILUMUL (.vxSilumul p w) p w s)

/-- vx.reduce (R137, R492). -/
def execVxReduce (p : Fin 8) (w : StaW) (s : State) : Res := .next (issueStation OP_REDUCE (.vxReduce p w) p w s)

/-- vx.pool (R158). -/
def execVxPool (p : Fin 8) (w : StaW) (s : State) : Res := .next (issueStation OP_POOL (.vxPool p w) p w s)

/-- kv.gather (R139, R180, R181), with errors that its reads will meet (R268). -/
def execKvGather (p : Fin 8) (w : LoadW) (s : State) : Res :=
  .next (issueStation OP_KVG (.kvGather p { w with errs := [] }) p w.word (errsCome w.errs s))

/-- kv.accept (R139, R140, R175). -/
def execKvAccept (p : Fin 8) (w : StaW) (s : State) : Res := .next (issueStation OP_KVA (.kvAccept p w) p w s)

/-- out.store (R141). -/
def execOutStore (p : Fin 8) (w : StaW) (s : State) : Res := .next (issueStation OP_STORE (.outStore p w) p w s)

/-- out.append (R141, R173). -/
def execOutAppend (p : Fin 8) (w : StaW) (s : State) : Res := .next (issueStation OP_APPEND (.outAppend p w) p w s)

/-- out.commit (R141; the commit itself is the command COMMIT). -/
def execOutCommit (p : Fin 8) (w : StaW) (s : State) : Res := .next (issueStation OP_COMMIT (.outCommit p w) p w s)

end Sys2Proof.Machine
end

