-- ==== Sys2Proof/Machine/StepLife.lean ====
section
/-!
DEFINITION. What happens to an open step by itself: deadlock (R87), an estimate exceeded (R232), the commit and the end
of its publish window (R103 to R105, R205, R494).
-/
namespace Sys2Proof.Machine

/-- The sequencers of partition `p` issue nothing: they take none, or the station instruction that they stand at finds
its queue full (R75, R87). -/
def seqIdle (s : State) (p : Nat) : Bool :=
  let pt := partOf s p
  !seqRuns s p || (decide (opcodeAt pt pt.pc < 0xA0) && decide (32 ≤ (queueOf pt (opStation (opcodeAt pt pt.pc))).length))

/-- STREAM_DEADLOCK: 256 ACLK cycles in which nothing of the open step moves, counted from where the stations stalled or the
sequencer last issued (R87). -/
def execStreamDeadlock (dt : Nat) (p : Fin 8) (s : State) : Res :=
  let s := elapse dt s
  let pt := partOf s p
  match pt.stuckAt with
  | none => .next s
  | some t =>
    if stalled pt && !dramAsleep s && seqIdle s p && decide (256000 ≤ s.cyc - t) then
      .next (faultStep p ST_STREAM_DEADLOCK noInsn (resumeOf pt) s)
    else .next s

/-- EV_EST_EXCEEDED: the open step has run past its estimate (R232). -/
def execEvEstExceeded (dt : Nat) (p : Fin 8) (s : State) : Res :=
  let s := elapse dt s
  match (partOf s p).step with
  | none => .next s
  | some st =>
    if st.estOver ∨ stepCycles s st ≤ st.est then .next s
    else
      let s := updPart p (fun pt => { pt with step := some { st with estOver := true } }) s
      let s := statInc TK_STAT_EST_OVER (fset (TK_PART_EST_OVER p) 1 s)
      .next (postEvent p .estExceeded 0xFFF 0 (raise .estExceeded p s))

/-- The status of a request dropped at admission: where it has ended since, the end's (R177). -/
def endedStatus (s : State) (x : Nat × Nat) : Nat × Nat :=
  if RQ_CANCELLED ≤ rqState (reqGet s x.1) then (x.1, rqLastStatus (reqGet s x.1)) else x

/-- What the commit at `tc` of the step `st` of partition `p` does (R103, R104, R205). All its data are in place from `tc` on, so a
BAR2 read in the publish window sees the new ones (R106), and its record has STEP_OPEN 1 (R142): both DESIGN CHOICE; log 75. -/
def commitStep (p src : Nat) (st : StepSt) (s : State) : State :=
  let tc := s.now
  let bound := boundReqs st.rows
  let ok := bound.filter (fun r => reqPublishes s p tc r)
  let residue := (partOf s p).streams.any (fun e => !e.2.isEmpty)
  let dropped := (tabulate (fun r => r) st.rows.length 0).any (fun r => !rowPublishes st ok r)
  let flags := flagOr (flagOr st.flags FLAG_STREAM_RESIDUE residue) FLAG_ROWS_DROPPED dropped
  let s := publishStamps st ok (st.stores.foldl (publishOne p st ok) s)
  let a := commitReqs p tc ok st s
  let s := updPart p (fun pt => { pt with
    step := none, queues := [], act := [], streams := []
    pub := some { tc := tc, source := src, statuses := st.statuses.map (endedStatus a.1) ++ a.2, late := [], bound := bound } }) a.1
  let s := fset HLM_STEP_STEPS (fget s HLM_STEP_STEPS + 1) s
  let s := stepMark p (letGo st.holds s)
  postStep p (statusRecord noInsn true flags ST_OK) tc s

/-- A piece of a row that would publish, or a staged row, lies on a stack that has left service since (R270). -/
def lostWrites (s : State) (p : Nat) (st : StepSt) : Bool :=
  st.stores.any (fun x => (tensorOf s p x.handle).any (fun t =>
      let e := elemSpan x.fmt x.elem x.data.codes.length
      !t.flask && onLostStack s (t.home + e.1) e.2))
    || (boundReqs st.rows).any (fun r => (kvTensors s p).any (fun h =>
        (kvPages s (ctxGet s r h.1)).any (fun g => pgState (kvEntry s g) == PG_STAGED && onLostStack s (pgFrame (kvEntry s g)) 1)))

/-- COMMIT: OUT has reached out.commit with every earlier OUT instruction done, and takes Tc (R103). -/
def execCommit (dt : Nat) (p : Fin 8) (s : State) : Res :=
  let s := elapse dt s
  match (partOf s p).step with
  | none => .next s
  | some st =>
    match st.commitAt with
    | none => .next s
    | some src =>
      .next (if lostWrites s p st then faultStep p ST_STACK_LOST noInsn (resumeOf (partOf s p)) s else commitStep p src st s)

/-- PUBLISH_WINDOW_END: the window of the last commit ends (R103): released pages are freed, statuses are posted, the EDC
source signals, and the points that follow a window run (R233, R241, R463, R405); the next STEP is offered. -/
def execPublishWindowEnd (dt : Nat) (p : Fin 8) (s : State) : Res :=
  let s := elapse dt s
  match (partOf s p).pub with
  | none => .next s
  | some b =>
    let s := stepBoundary p (updPart p (fun pt => { pt with pub := none }) s)
    let s := postStatuses p (b.statuses ++ b.late) s
    let s := if b.source = 0 then s else edcRing 4 (some p) false b.source s
    let s := overrunCheck (migrationPoint p s)
    let s := destroyGo p (fenceEntry (selBoundary s))
    .next (offerGo p s)

end Sys2Proof.Machine
end

