-- ==== Sys2Proof/Machine/Tick.lean ====
section
/-!
DEFINITION. The frame tick (R224 to R230): the boundary sequence of R226, the pause policy (R211), the tick plans, and credits (R228).
-/
namespace Sys2Proof.Machine

/-! ### Settings that wait for a boundary -/

/-- The settings of R224, R227, R260, R323, R332 and R372 take effect. A partition that is gone takes none. -/
def settingsTake (s : State) : State :=
  let lives := fun (p : Nat) => fget s (SEC_PART_STATE p) != PART_FREE
  let d := s.deferred
  let s := match d.period with
    | none => s
    | some x => fset TK_PERIOD_US x s
  let s := if s.therm.xoLost then s else fset CLK_FCLK_CUR_MHZ (fget s CLK_FCLK_SET_MHZ) s
  let s := d.shares.foldl (fun s e => if lives e.1 then regSet (MEM_SHARE e.1) (e.2.getD 0) s else s) s
  let s := d.netPart.foldl (fun s e =>
    let v := e.2.getD 0
    if lives e.1 then
      let w := regGet s (NET_PART_W3 e.1)
      regSet (NET_PART_W3 e.1) (fieldSet (fieldSet w 63 43 (fieldGet v 63 43)) 37 32 (fieldGet v 37 32)) s
    else s) s
  let m := fget s MEM_CTRL_MODE
  fset TK_CTRL_SHARED m (fset MEM_CTRL_ACTIVE m
    { s with deferred := { deferredReset with egress := fbit s NET_CTRL_EGRESS_POOLED } })

/-! ### Requests at a boundary (R206, R209, R211) -/

/-- A PAUSED request whose deadline the boundary meets lapses (R206). -/
def lapsePaused (p : Nat) (s : State) (i : Nat) : State :=
  let e := reqGet s i
  if rqState e = RQ_PAUSED ∧ lapsed e s.now then
    kvSettleNow p (reqEnd p i RQ_LAPSED ST_DEADLINE_LAPSED (atRest s p) s)
  else s

/-- The order in which requests are paused: lowest PRIO, newest first. -/
def pauseBefore (s : State) (a b : Nat) : Bool :=
  let x := reqGet s a
  let y := reqGet s b
  decide (rqPrio x < rqPrio y) || (rqPrio x == rqPrio y && decide (y.w2 < x.w2))

/-- The order in which they come back: highest PRIO, oldest first. -/
def resumeBefore (s : State) (a b : Nat) : Bool :=
  let x := reqGet s a
  let y := reqGet s b
  decide (rqPrio y < rqPrio x) || (rqPrio x == rqPrio y && decide (x.w2 < y.w2))

/-- Marks the first PAUSE_MAX of a list for their partition's next step boundary; a mark by the host stays. -/
def markFirst (m : Nat) (l : List Nat) (s : State) : State :=
  (l.take (fget s SRV_PAUSE_PAUSE_MAX)).foldl (fun s i =>
    reqUpd i (fun e => { e with mark := if e.mark = 0 then m else e.mark }) s) s

/-- The pause policy of R211 for partition `p`. -/
def pausePolicy (p : Nat) (s : State) : State :=
  let mains := (reqsOf s p).filter (fun i => !rqCompanion (reqGet s i))
  let st := fun (i : Nat) => rqState (reqGet s i)
  let risky := mains.filter (fun i => (st i == RQ_ADMITTED || st i == RQ_ACTIVE) && rqRisk (reqGet s i))
  if risky.isEmpty then
    let calm := (partOf s p).calm + 1
    let s := updPart p (fun pt => { pt with calm := calm }) s
    if calm < fget s SRV_PAUSE_RESUME_HOLD then s
    else
      let back := mains.filter (fun i => st i == RQ_PAUSED && (reqGet s i).bySteward && !rqHostPause (reqGet s i))
      markFirst 2 (sortBy (resumeBefore s) back) s
  else
    let s := updPart p (fun pt => { pt with calm := 0 }) s
    let top := risky.foldl (fun m i => max m (rqPrio (reqGet s i))) 0
    let cands := mains.filter (fun i => st i == RQ_ACTIVE && !rqNoPause (reqGet s i)
      && decide (rqPrio (reqGet s i) < top) && !rqRisk (reqGet s i))
    markFirst 1 (sortBy (pauseBefore s) cands) s

/-- Order 3 of R226 for partition `p`. -/
def requestsBoundary (p : Nat) (s : State) : State :=
  let s := (reqsOf s p).foldl (sloEval p (fun _ => false)) s
  let s := (reqsOf s p).foldl (lapsePaused p) s
  if fbit s SRV_CTRL_AUTOPAUSE then pausePolicy p s else s

/-! ### Plans (R226, R227, R229) -/

/-- The slack that the tick reserves, in ns. -/
def slackNs (s : State) : Nat :=
  1000 * fget s TK_SLACK_BASE_US + (if fbit s TK_SLACK_RETRAIN then 1500000 else 0)

/-- The budget of partition `p` in the tick that begins, in 1/1000 ACLK cycles. -/
def budgetOf (s : State) (p : Nat) : Int :=
  planTime s (1000 * (fget s TK_PERIOD_US : Int) - slackNs s) - remains s (partOf s p)

/-- The estimate that a plan of partition `p` is made by: its held STEP's, else its last admitted step's. -/
def planEst (pt : Part) : Option Nat :=
  match pt.held with
  | some h => some h.est
  | none => pt.lastEst

/-- Slots of partition `p` in the tick that begins: none without a cluster in service (R226). -/
def slotsOf (s : State) (p : Nat) : Nat :=
  match planEst (partOf s p) with
  | none => 0
  | some e =>
    let n := if (carriers s p).isEmpty then 0 else (budgetOf s p).toNat / (1000 * e)
    if fbit s (TK_PART_MODE p) then min n (fget s (TK_PART_CREDITS p)) else n

/-- The plan of partition `p`. -/
def planPart (p : Nat) (s : State) : State :=
  let pt := partOf s p
  let n := slotsOf s p
  let limit : Int := regGet s TK_NEXT - (slackNs s : Int)
  let est := if budgetOf s p ≤ 0 then pt.est else (planEst pt).getD pt.est
  let s := updPart p (fun pt => { pt with
    carrying := remains s pt, limit := some limit, slots := n, used := 0, deferred := 0, est := est, overrunPosted := false }) s
  fset (TK_PART_SLOTS p) (min 255 n) (fset (TK_PART_USED p) 0 (fset (TK_PART_DEFERRED p) 0
    (fset (TK_PART_CARRY p) (b2n pt.step.isSome) s)))

/-! ### The boundary -/

/-- A partition has used a slot of its plan, or has a step open. -/
def planInUse (s : State) : Bool :=
  s.parts.any (fun e => e.2.step.isSome || e.2.pub.isSome || decide (0 < e.2.used))

/-- READY again: no partition has used its plan since the boundary before, and none does now (R8; log 29). Where MAINT is due at
the same moment, the module takes MAINT (R9, R398). -/
def leaveRun (busy : Bool) (s : State) : State :=
  if !busy && !planInUse s && mode s == MODE_RUN then (if s.bist.noAdmit then maintGo s else setMode MODE_READY s) else s

/-- Order 2 of R226: clusters drained, returned and moved (R78, R396), what a lost stack held (R270), MAINT, HOLD and JOIN as
they come into force (R398, R468, R469). -/
def orderTwo (s : State) : State :=
  let s := bistBoundary (bistAbort s)
  let s := [0, 1, 2, 3, 4, 5, 6, 7].foldl (fun s p => partBoundary p s) s
  let s := [0, 1, 2, 3, 4, 5].foldl (fun s i => lostBoundary i s) (bistStart s)
  let s := updBist (fun b => { b with noAdmit := b.noAdmit || b.enterPending }) s
  joinBoundary (holdBoundary s)

/-- The partitions in the order in which the plan serves them (R227). -/
def planOrder (s : State) : List Nat :=
  if fbit s TK_CTRL_SHARED then byPrio s true
  else [0, 1, 2, 3, 4, 5, 6, 7].filter (fun p => fbit s (TK_PART_VALID p))

/-- The follower has the plans as they are built: under them it offers admission when it takes the helm within the tick (R452;
log 29). -/
def planMirror (s : State) : State :=
  updHelm (fun h => { h with mirror := { h.mirror with plans := (mirrorOf s).plans } }) s

/-- The boundary sequence of R226, with the firmware update that moves at boundaries (R443) once the mirror is current. -/
def boundarySequence (s : State) : State :=
  let busy := planInUse s
  let s := orderTwo (fset TK_COUNT_COUNT (fget s TK_COUNT_COUNT + 1) s)
  let ps := [0, 1, 2, 3, 4, 5, 6, 7].filter (fun p => fbit s (TK_PART_VALID p))
  let s := ps.foldl (fun s p => requestsBoundary p s) s
  let s := fwBoundary (mirrorTake s)
  let s := planMirror ((planOrder s).foldl (fun s p => planPart p s) (retrainBoundary s))
  leaveRun busy ((planOrder s).foldl (fun s p => offerGo p s) s)

/-- Access counts are halved at every boundary (R236). -/
def accessHalve (s : State) : State :=
  { s with tensors := s.tensors.map (fun e => (e.1, e.2.map (fun t => { t with access := t.access / 2 }))) }

/-- TICK_BOUNDARY: TK_NEXT has come. Without a Steward at the helm no sequence runs (R224, R452). -/
def execTickBoundary (dt : Nat) (s : State) : Res :=
  let s := elapse dt s
  if !dieOn s || decide (s.now.toNat < regGet s TK_NEXT) then .next s
  else
    let s := settingsTake (accessHalve s)
    let s := regSet TK_NEXT (boundaryAfter s) s
    .next (if helmHeld s then boundarySequence s else s)

/-! ### Credits (R228) -/

/-- ARM: credits for the queue's partition. -/
def execArmCmd (q : QCmd) (credits : BitVec 32) (s : State) : Res :=
  runCmd (.armCmd q credits) q false (fun s => cmdOk 0 (addCredits (cmdPart q) credits.toNat s)) s

/-- TK_ARM_ADD: a write of TK_ARMp. -/
def execTkArmAdd (p : Fin 8) (v : BitVec 32) (s : State) : Res :=
  .next (if dieOn s then armWrite p.val v.toNat s else s)

end Sys2Proof.Machine
end

