-- ==== Sys2Proof/Machine/Dispatch.lean ====
section
/-!
DEFINITION. One arm per command of the table: each calls that command's meaning.
-/
namespace Sys2Proof.Machine

/-- The effect of a command on everything but the queue. -/
def exec (i : Instr) (s : State) : Host.Outcome State Fault Refusal :=
  match i with
  | .seqNop p w => Sys2Proof.Machine.execSeqNop p w s
  | .seqLi p w => Sys2Proof.Machine.execSeqLi p w s
  | .seqAdd p w => Sys2Proof.Machine.execSeqAdd p w s
  | .seqAddi p w => Sys2Proof.Machine.execSeqAddi p w s
  | .seqSub p w => Sys2Proof.Machine.execSeqSub p w s
  | .seqMul p w => Sys2Proof.Machine.execSeqMul p w s
  | .seqAnd p w => Sys2Proof.Machine.execSeqAnd p w s
  | .seqOr p w => Sys2Proof.Machine.execSeqOr p w s
  | .seqXor p w => Sys2Proof.Machine.execSeqXor p w s
  | .seqShl p w => Sys2Proof.Machine.execSeqShl p w s
  | .seqShr p w => Sys2Proof.Machine.execSeqShr p w s
  | .seqSra p w => Sys2Proof.Machine.execSeqSra p w s
  | .seqCmp p w => Sys2Proof.Machine.execSeqCmp p w s
  | .seqCmpi p w => Sys2Proof.Machine.execSeqCmpi p w s
  | .seqPset p w => Sys2Proof.Machine.execSeqPset p w s
  | .seqDld p w => Sys2Proof.Machine.execSeqDld p w s
  | .seqDmov p w => Sys2Proof.Machine.execSeqDmov p w s
  | .seqDset p w => Sys2Proof.Machine.execSeqDset p w s
  | .seqDget p w => Sys2Proof.Machine.execSeqDget p w s
  | .seqBr p w => Sys2Proof.Machine.execSeqBr p w s
  | .seqLoop p w => Sys2Proof.Machine.execSeqLoop p w s
  | .seqEndloop p w => Sys2Proof.Machine.execSeqEndloop p w s
  | .seqStep p w => Sys2Proof.Machine.execSeqStep p w s
  | .seqWait p w => Sys2Proof.Machine.execSeqWait p w s
  | .seqHalt p w => Sys2Proof.Machine.execSeqHalt p w s
  | .seqSys p w => Sys2Proof.Machine.execSeqSys p w s
  | .inLoad p w => Sys2Proof.Machine.execInLoad p w s
  | .inWin p w => Sys2Proof.Machine.execInWin p w s
  | .inGather p w => Sys2Proof.Machine.execInGather p w s
  | .mxMm p w => Sys2Proof.Machine.execMxMm p w s
  | .mxScore p w => Sys2Proof.Machine.execMxScore p w s
  | .mxMix p w => Sys2Proof.Machine.execMxMix p w s
  | .vxEw1 p w => Sys2Proof.Machine.execVxEw1 p w s
  | .vxEw2 p w => Sys2Proof.Machine.execVxEw2 p w s
  | .vxAct p w => Sys2Proof.Machine.execVxAct p w s
  | .vxRmsnorm p w => Sys2Proof.Machine.execVxRmsnorm p w s
  | .vxLnorm p w => Sys2Proof.Machine.execVxLnorm p w s
  | .vxSmax p w => Sys2Proof.Machine.execVxSmax p w s
  | .vxMerge p w => Sys2Proof.Machine.execVxMerge p w s
  | .vxRope p w => Sys2Proof.Machine.execVxRope p w s
  | .vxSilumul p w => Sys2Proof.Machine.execVxSilumul p w s
  | .vxReduce p w => Sys2Proof.Machine.execVxReduce p w s
  | .vxPool p w => Sys2Proof.Machine.execVxPool p w s
  | .kvGather p w => Sys2Proof.Machine.execKvGather p w s
  | .kvAccept p w => Sys2Proof.Machine.execKvAccept p w s
  | .outStore p w => Sys2Proof.Machine.execOutStore p w s
  | .outAppend p w => Sys2Proof.Machine.execOutAppend p w s
  | .outCommit p w => Sys2Proof.Machine.execOutCommit p w s
  | .checksumItemCompare dt p item => Sys2Proof.Machine.execChecksumItemCompare dt p item s
  | .healthWindowExpiry dt isCore unit => Sys2Proof.Machine.execHealthWindowExpiry dt isCore unit s
  | .streamDeadlock dt p => Sys2Proof.Machine.execStreamDeadlock dt p s
  | .evEstExceeded dt p => Sys2Proof.Machine.execEvEstExceeded dt p s
  | .commit dt p => Sys2Proof.Machine.execCommit dt p s
  | .publishWindowEnd dt p => Sys2Proof.Machine.execPublishWindowEnd dt p s
  | .tickBoundary dt => Sys2Proof.Machine.execTickBoundary dt s
  | .reqAdmit q w0 w1 deadline w5 => Sys2Proof.Machine.execReqAdmit q w0 w1 deadline w5 s
  | .reqCancel q idx => Sys2Proof.Machine.execReqCancel q idx s
  | .reqFinish q idx => Sys2Proof.Machine.execReqFinish q idx s
  | .reqPause q idx => Sys2Proof.Machine.execReqPause q idx s
  | .reqResume q idx => Sys2Proof.Machine.execReqResume q idx s
  | .reqSet q idx hole w0 deadline w5 mask => Sys2Proof.Machine.execReqSet q idx hole w0 deadline w5 mask s
  | .reqRetire q idx => Sys2Proof.Machine.execReqRetire q idx s
  | .reqQuery q idx addr dma => Sys2Proof.Machine.execReqQuery q idx addr dma s
  | .loadImage q addr len dma => Sys2Proof.Machine.execLoadImage q addr len dma s
  | .programResume q => Sys2Proof.Machine.execProgramResume q s
  | .programHalt q => Sys2Proof.Machine.execProgramHalt q s
  | .tensorRegister q r => Sys2Proof.Machine.execTensorRegister q r s
  | .tensorRelease q h => Sys2Proof.Machine.execTensorRelease q h s
  | .tensorWrite q h pad off addr len dma => Sys2Proof.Machine.execTensorWrite q h pad off addr len dma s
  | .tensorRead q h pad off addr len dma => Sys2Proof.Machine.execTensorRead q h pad off addr len dma s
  | .tensorExport q h ro => Sys2Proof.Machine.execTensorExport q h ro s
  | .qpCreate q port => Sys2Proof.Machine.execQpCreate q port s
  | .qpModify q m => Sys2Proof.Machine.execQpModify q m s
  | .qpDestroy q qp => Sys2Proof.Machine.execQpDestroy q qp s
  | .mrReg q h acc => Sys2Proof.Machine.execMrReg q h acc s
  | .mrDereg q rkey => Sys2Proof.Machine.execMrDereg q rkey s
  | .postSend q st => Sys2Proof.Machine.execPostSend q st s
  | .postRecv q qp pad h off len => Sys2Proof.Machine.execPostRecv q qp pad h off len s
  | .vccSubmit q slot pad h stamp => Sys2Proof.Machine.execVccSubmit q slot pad h stamp s
  | .vccReleaseFrame q slot pad h => Sys2Proof.Machine.execVccReleaseFrame q slot pad h s
  | .vccLatest q slot => Sys2Proof.Machine.execVccLatest q slot s
  | .armCmd q credits => Sys2Proof.Machine.execArmCmd q credits s
  | .secQuote q nonce addr len part dma => Sys2Proof.Machine.execSecQuote q nonce addr len part dma s
  | .secCert q addr len dma => Sys2Proof.Machine.execSecCert q addr len dma s
  | .keyImport q slot pad addr dma => Sys2Proof.Machine.execKeyImport q slot pad addr dma s
  | .keyDelete q slot => Sys2Proof.Machine.execKeyDelete q slot s
  | .fwWrite q off addr len dma => Sys2Proof.Machine.execFwWrite q off addr len dma s
  | .logAppend q kind pad idx addr len dma => Sys2Proof.Machine.execLogAppend q kind pad idx addr len dma s
  | .logReadCmd q origin lsn addr len dma => Sys2Proof.Machine.execLogReadCmd q origin lsn addr len dma s
  | .logFetch q origin lsn peer answer => Sys2Proof.Machine.execLogFetch q origin lsn peer answer s
  | .mgrKey q mgr pad addr dma => Sys2Proof.Machine.execMgrKey q mgr pad addr dma s
  | .sqTail q v => Sys2Proof.Machine.execSqTail q v s
  | .cqHead q v => Sys2Proof.Machine.execCqHead q v s
  | .cmdCfg f q v => Sys2Proof.Machine.execCmdCfg f q v s
  | .asyncRecordDiscard dt q => Sys2Proof.Machine.execAsyncRecordDiscard dt q s
  | .edcDoorbell wr v => Sys2Proof.Machine.execEdcDoorbell wr v s
  | .edcCtxClaim c => Sys2Proof.Machine.execEdcCtxClaim c s
  | .edcCtxComplete c v => Sys2Proof.Machine.execEdcCtxComplete c v s
  | .edcLock a wr => Sys2Proof.Machine.execEdcLock a wr s
  | .evEdcLockBreak dt => Sys2Proof.Machine.execEvEdcLockBreak dt s
  | .auxStart dt straps => Sys2Proof.Machine.execAuxStart dt straps s
  | .auxStop dt => Sys2Proof.Machine.execAuxStop dt s
  | .pwrEn dt level stood => Sys2Proof.Machine.execPwrEn dt level stood s
  | .trayPresent dt level stood => Sys2Proof.Machine.execTrayPresent dt level stood s
  | .railFault dt lasted => Sys2Proof.Machine.execRailFault dt lasted s
  | .mainPowerUp dt => Sys2Proof.Machine.execMainPowerUp dt s
  | .bootFlowTimeout dt => Sys2Proof.Machine.execBootFlowTimeout dt s
  | .bootSelfTest dt r => Sys2Proof.Machine.execBootSelfTest dt r s
  | .hostLinkUp dt gen width => Sys2Proof.Machine.execHostLinkUp dt gen width s
  | .dramTraining dt r => Sys2Proof.Machine.execDramTraining dt r s
  | .journalReplay dt => Sys2Proof.Machine.execJournalReplay dt s
  | .flaskReload dt => Sys2Proof.Machine.execFlaskReload dt s
  | .bootComplete dt => Sys2Proof.Machine.execBootComplete dt s
  | .perst dt => Sys2Proof.Machine.execPerst dt s
  | .pfFlr => Sys2Proof.Machine.execPfFlr s
  | .vfFlr n => Sys2Proof.Machine.execVfFlr n s
  | .pcieTlpViolation v => Sys2Proof.Machine.execPcieTlpViolation v s
  | .bar2Access f off acc => Sys2Proof.Machine.execBar2Access f off acc s
  | .completionTimeout dt q ring => Sys2Proof.Machine.execCompletionTimeout dt q ring s
  | .referenceLoss dt r => Sys2Proof.Machine.execReferenceLoss dt r s
  | .pllRelock dt r sound => Sys2Proof.Machine.execPllRelock dt r sound s
  | .powerGovernor dt m => Sys2Proof.Machine.execPowerGovernor dt m s
  | .hotspotSensorSample dt r => Sys2Proof.Machine.execHotspotSensorSample dt r s
  | .rulingTemperature dt => Sys2Proof.Machine.execRulingTemperature dt s
  | .sensorDisagreeTimeout dt h => Sys2Proof.Machine.execSensorDisagreeTimeout dt h s
  | .disWindowRestart dt => Sys2Proof.Machine.execDisWindowRestart dt s
  | .thermalForecast dt est => Sys2Proof.Machine.execThermalForecast dt est s
  | .thetaUpdate dt => Sys2Proof.Machine.execThetaUpdate dt s
  | .lanternDiodeCheck dt => Sys2Proof.Machine.execLanternDiodeCheck dt s
  | .flowLost dt => Sys2Proof.Machine.execFlowLost dt s
  | .flowRestored dt => Sys2Proof.Machine.execFlowRestored dt s
  | .flowLossSafe dt => Sys2Proof.Machine.execFlowLossSafe dt s
  | .thermalCycleSample dt => Sys2Proof.Machine.execThermalCycleSample dt s
  | .thermalCycleJournal dt => Sys2Proof.Machine.execThermalCycleJournal dt s
  | .stackTempRead dt temps => Sys2Proof.Machine.execStackTempRead dt temps s
  | .stackOvertempTrip dt st => Sys2Proof.Machine.execStackOvertempTrip dt st s
  | .sramScrub dt errs => Sys2Proof.Machine.execSramScrub dt errs s
  | .retrainDue dt st => Sys2Proof.Machine.execRetrainDue dt st s
  | .retrainSlackStart dt => Sys2Proof.Machine.execRetrainSlackStart dt s
  | .retrainComplete dt o => Sys2Proof.Machine.execRetrainComplete dt o s
  | .ppsEdge dt => Sys2Proof.Machine.execPpsEdge dt s
  | .ptpMessage dt port m => Sys2Proof.Machine.execPtpMessage dt port m s
  | .tbHoldover dt => Sys2Proof.Machine.execTbHoldover dt s
  | .rtpPacket dt port pkt => Sys2Proof.Machine.execRtpPacket dt port pkt s
  | .rtcpSenderReport dt slot ssrc ntp rtp => Sys2Proof.Machine.execRtcpSenderReport dt slot ssrc ntp rtp s
  | .frameCompleteTimeout dt slot => Sys2Proof.Machine.execFrameCompleteTimeout dt slot s
  | .frameCommit dt slot d => Sys2Proof.Machine.execFrameCommit dt slot d s
  | .sensorGroupCommit dt slot => Sys2Proof.Machine.execSensorGroupCommit dt slot s
  | .sliceEmit dt slot sl => Sys2Proof.Machine.execSliceEmit dt slot sl s
  | .vccSlotSubmit slot h => Sys2Proof.Machine.execVccSlotSubmit slot h s
  | .vccSlotRelease slot h => Sys2Proof.Machine.execVccSlotRelease slot h s
  | .slotEnable slot v => Sys2Proof.Machine.execSlotEnable slot v s
  | .slotDisable slot v => Sys2Proof.Machine.execSlotDisable slot v s
  | .rocePacket dt port pkt => Sys2Proof.Machine.execRocePacket dt port pkt s
  | .roceRetransmitTimeout dt qp => Sys2Proof.Machine.execRoceRetransmitTimeout dt qp s
  | .cnpRateRecovery dt qp => Sys2Proof.Machine.execCnpRateRecovery dt qp s
  | .ethFrameReceive dt port f => Sys2Proof.Machine.execEthFrameReceive dt port f s
  | .evPortLink dt port up mode => Sys2Proof.Machine.execEvPortLink dt port up mode s
  | .dutyGrant dt level stood => Sys2Proof.Machine.execDutyGrant dt level stood s
  | .dutyIn dt level stood => Sys2Proof.Machine.execDutyIn dt level stood s
  | .slotIdChange straps => Sys2Proof.Machine.execSlotIdChange straps s
  | .smbAlertResponse => Sys2Proof.Machine.execSmbAlertResponse s
  | .smbusRead off => Sys2Proof.Machine.execSmbusRead off s
  | .smbusWrite off v => Sys2Proof.Machine.execSmbusWrite off v s
  | .smbusRecoveryStart len => Sys2Proof.Machine.execSmbusRecoveryStart len s
  | .smbusRecoveryData off bytes => Sys2Proof.Machine.execSmbusRecoveryData off bytes s
  | .smbusRecoveryFinish => Sys2Proof.Machine.execSmbusRecoveryFinish s
  | .smbusRecoveryStatus => Sys2Proof.Machine.execSmbusRecoveryStatus s
  | .fwRcvStart v => Sys2Proof.Machine.execFwRcvStart v s
  | .fwRcvFinish v => Sys2Proof.Machine.execFwRcvFinish v s
  | .fwVerify => Sys2Proof.Machine.execFwVerify s
  | .fwActivate => Sys2Proof.Machine.execFwActivate s
  | .mirrorComplete dt st => Sys2Proof.Machine.execMirrorComplete dt st s
  | .evFwUpdateFail dt => Sys2Proof.Machine.execEvFwUpdateFail dt s
  | .fwConfirm => Sys2Proof.Machine.execFwConfirm s
  | .fwRevert => Sys2Proof.Machine.execFwRevert s
  | .fwRecover => Sys2Proof.Machine.execFwRecover s
  | .journalWrite dt => Sys2Proof.Machine.execJournalWrite dt s
  | .journalCommit dt => Sys2Proof.Machine.execJournalCommit dt s
  | .helmClaim dt n st => Sys2Proof.Machine.execHelmClaim dt n st s
  | .helmBeat dt st => Sys2Proof.Machine.execHelmBeat dt st s
  | .helmPass dt st => Sys2Proof.Machine.execHelmPass dt st s
  | .evHelmLapse dt => Sys2Proof.Machine.execEvHelmLapse dt s
  | .dutyHoldExpiry dt => Sys2Proof.Machine.execDutyHoldExpiry dt s
  | .restartFollower => Sys2Proof.Machine.execRestartFollower s
  | .rollcallQuery dt port q => Sys2Proof.Machine.execRollcallQuery dt port q s
  | .vote dt port v => Sys2Proof.Machine.execVote dt port v s
  | .voteWindowExpiry dt cmd => Sys2Proof.Machine.execVoteWindowExpiry dt cmd s
  | .logFrame dt port f => Sys2Proof.Machine.execLogFrame dt port f s
  | .logAck dt peer lsn origin => Sys2Proof.Machine.execLogAck dt peer lsn origin s
  | .logFetchFrame dt port src lsn origin => Sys2Proof.Machine.execLogFetchFrame dt port src lsn origin s
  | .logRetransmit dt peer lsn => Sys2Proof.Machine.execLogRetransmit dt peer lsn s
  | .evLogPeerLag dt peer => Sys2Proof.Machine.execEvLogPeerLag dt peer s
  | .logRetentionExpiry dt => Sys2Proof.Machine.execLogRetentionExpiry dt s
  | .jobHold v => Sys2Proof.Machine.execJobHold v s
  | .jobResume v => Sys2Proof.Machine.execJobResume v s
  | .partCreate v => Sys2Proof.Machine.execPartCreate v s
  | .partAdd v => Sys2Proof.Machine.execPartAdd v s
  | .partRemove v => Sys2Proof.Machine.execPartRemove v s
  | .partDestroy v => Sys2Proof.Machine.execPartDestroy v s
  | .secWindowWrite p w v => Sys2Proof.Machine.execSecWindowWrite p w v s
  | .blanketClearDone dt c => Sys2Proof.Machine.execBlanketClearDone dt c s
  | .evScrubDone dt p w => Sys2Proof.Machine.execEvScrubDone dt p w s
  | .secTvRecSel p v => Sys2Proof.Machine.execSecTvRecSel p v s
  | .tenantViewSample dt energy => Sys2Proof.Machine.execTenantViewSample dt energy s
  | .bistGo v => Sys2Proof.Machine.execBistGo v s
  | .maintEnter v => Sys2Proof.Machine.execMaintEnter v s
  | .maintEntry dt => Sys2Proof.Machine.execMaintEntry dt s
  | .maintExit v => Sys2Proof.Machine.execMaintExit v s
  | .bistTestComplete dt r => Sys2Proof.Machine.execBistTestComplete dt r s
  | .rasEngSel v => Sys2Proof.Machine.execRasEngSel v s
  | .rasEngClr v => Sys2Proof.Machine.execRasEngClr v s
  | .thmSensorClr v => Sys2Proof.Machine.execThmSensorClr v s
  | .plcEngSel v => Sys2Proof.Machine.execPlcEngSel v s
  | .plcHintSel v => Sys2Proof.Machine.execPlcHintSel v s
  | .kvCtxSel v => Sys2Proof.Machine.execKvCtxSel v s
  | .srvReqSel v => Sys2Proof.Machine.execSrvReqSel v s
  | .srvPart p v => Sys2Proof.Machine.execSrvPart p v s
  | .tkArmAdd p v => Sys2Proof.Machine.execTkArmAdd p v s
  | .memForce v => Sys2Proof.Machine.execMemForce v s
  | .statClear off v => Sys2Proof.Machine.execStatClear off v s
  | .registerWrite a off size v => Sys2Proof.Machine.execRegisterWrite a off size v s
  | .flowPulse dt low => Sys2Proof.Machine.execFlowPulse dt low s
  | .moduleRestart dt => Sys2Proof.Machine.execModuleRestart dt s
  | .acxAccess core h off acc => Sys2Proof.Machine.execAcxAccess core h off acc s
  | .acxFrameSend port part bytes => Sys2Proof.Machine.execAcxFrameSend port part bytes s
  | .msixEnable f en vec masked => Sys2Proof.Machine.execMsixEnable f en vec masked s
  | .vfEnable en => Sys2Proof.Machine.execVfEnable en s
  | .lanternRestart dt => Sys2Proof.Machine.execLanternRestart dt s
  | .ptmRequest dt => Sys2Proof.Machine.execPtmRequest dt s

end Sys2Proof.Machine
end

