-- ==== Sys2Proof/Safety.lean ====
section
/-!
DEFINITION. What counts as a safe run, and the terms that the statements use: when a sequencer meets an instruction, what
a command of a ring completes with, and the canonical form of the module's memory.
-/
namespace Sys2Proof.Machine

/-- A step that answers a next state: no fault and no refusal. -/
def Safe (o : Res) : Prop := ∃ t, o = .next t

/-! ### Memory -/

/-- The canonical form of a memory: addresses strictly rising, no entry equal to what an unlisted address reads as (log 4). -/
def Memory.wf (m : List Host.Cell) : Bool := mapWf 0 m

/-- The module's DRAM and the host memory that it writes have the canonical form. -/
abbrev MemInv (s : State) : Prop := Memory.wf s.dram = true ∧ Memory.wf s.hostMem = true

/-! ### What raising events, writing records and completing commands touches -/

/-- The registers and fields in which events, counters, trace and RAS records leave their marks: the event doorbell
controller's pending words, notices, counters and flags (R335 to R339), credits of an armed partition (R228), and the heads
and counters of the trace ring and the RAS log (R244, R379). With `j`, FW_STATUS.DUAL_LOSS (R444); with `p`, CQ_TAIL (R312). -/
def bookFlds (j p : Bool) : List Fld :=
  [EDC_STATUS_FOREIGN, EDC_STATUS_BAD_DOORBELL, ⟨EDC_STAT_DOORBELLS, 63, 0⟩, ⟨EDC_STAT_COALESCED, 63, 0⟩,
    ⟨EDC_STAT_FOREIGN, 63, 0⟩, ⟨TB_TRACE_HEAD, 63, 0⟩, ⟨RAS_LOG_HEAD, 63, 0⟩, RAS_STATUS_LOG_WRAP,
    ⟨RAS_STAT_LOG, 63, 0⟩, ⟨RAS_STAT_UNCHARGED, 63, 0⟩]
  ++ tabulate (fun w => ⟨EDC_PEND w, 63, 0⟩) 32 0 ++ tabulate EDC_CTX_STATUS_NOTIFIED 28 0 ++ tabulate TK_PART_CREDITS 8 0
  ++ (if j then [FW_STATUS_DUAL_LOSS] else [])
  ++ (if p then tabulate (fun q => CMD_PTRS_CQ_TAIL (qPart q) (qLocal q)) 1024 0 else [])

/-- Field `f` shares no bit with a field of the list. -/
def apart (l : List Fld) (f : Fld) : Prop := ∀ g ∈ l, f.reg = g.reg → f.hi < g.lo ∨ g.hi < f.lo

/-- A DRAM address in a copy of the firmware region (R258). -/
def inFwCopy (a : Nat) : Bool :=
  decide ((fwCopy0 ≤ a ∧ a < fwCopy0 + 0x40000000) ∨ (fwCopy1 ≤ a ∧ a < fwCopy1 + 0x40000000))

/-- The heads of the trace ring and of the RAS log lie in their rings, and no mirror stands (R265). -/
abbrev ringsOk (s : State) : Prop :=
  fget s TB_TRACE_HEAD_INDEX < 2097152 ∧ fget s RAS_LOG_HEAD_INDEX < 65536 ∧ mirrorsOf s = []

/-- From `s` to `t` only events were raised and records written: `t` differs from `s` in the marks that these leave, with `j`
also in journal records gathered, with `p` also in records posted to completion rings. -/
def Beside (j p : Bool) (s t : State) : Prop :=
  t = { s with
    regs := t.regs, free := t.free, out := t.out, events := t.events, dram := t.dram, traceSeq := t.traceSeq
    tvSeq := t.tvSeq, tv := t.tv, msixHeld := t.msixHeld, retention := t.retention
    power := { s.power with alert := t.power.alert }
    jGathered := if j then t.jGathered else s.jGathered, jSeq := if j then t.jSeq else s.jSeq
    jGatherAt := if j then t.jGatherAt else s.jGatherAt
    hostMem := if p then t.hostMem else s.hostMem, queues := if p then t.queues else s.queues }
  ∧ (∀ f : Fld, f.lo ≤ f.hi → f.hi < 64 → apart (bookFlds j p) f → fget t f = fget s f)
  ∧ s.events <:+ t.events ∧ s.out <:+ t.out ∧ s.jGathered <+: t.jGathered
  ∧ (ringsOk s → ringsOk t ∧ ∀ a, inFwCopy a = false → dramByte t a = dramByte s a)

/-! ### Sequencers -/

/-- The sequencers of partition `p` come to instruction `i`: they run, and the word at the pc spells it. -/
abbrev SeqComes (s : State) (p : Fin 8) (i : Instr) : Prop := seqRuns s p = true ∧ stands s p i = true

/-- The sequencers of partition `p` take instruction `i` with word `w`, which uses the fields `u`: they come to it, its other fields
are 0, all lie in their ranges, and its predicate holds. -/
abbrev SeqMeets (s : State) (p : Fin 8) (i : Instr) (u : SeqUse) (w : SeqW) : Prop :=
  SeqComes s p i ∧ seqFieldsOk u w = true ∧ predOn (partOf s p) w.pneg w.pred.toNat = true

/-- Instruction `i`, taken, completes with the outcome `o`. -/
abbrev SeqDoes (s : State) (p : Fin 8) (u : SeqUse) (w : SeqW) (i : Instr) (o : Res) : Prop :=
  SeqMeets s p i u w → exec i s = o

/-- Partition `p`, changed by `f`, goes on at instruction `i`; nothing else differs. -/
def seqAt (p i : Nat) (f : Part → Part) (s : State) : State := seqGo p i (updPart p f s)

/-- The sequencer instructions but endloop, with the fields that each uses and their ranges (R127, R128, R131). -/
def seqForms : List ((Fin 8 → SeqW → Instr) × (SeqW → SeqUse)) :=
  let alu : SeqUse := { sd := true, ss1 := true, ss2 := true }
  let cond := fun (w : SeqW) (n : Nat) => decide (w.cond.toNat ≤ n)
  let field := fun (w : SeqW) => decide (w.imm.toNat < 2 ^ 16 ∧ w.imm.toNat / 256 ≠ 0 ∧ w.imm.toNat / 256 ≤ 64
    ∧ w.imm.toNat % 256 + w.imm.toNat / 256 ≤ 256)
  [(.seqNop, fun _ => {}), (.seqLi, fun _ => { sd := true, imm := true }), (.seqAdd, fun _ => alu), (.seqSub, fun _ => alu),
    (.seqMul, fun _ => alu), (.seqAnd, fun _ => alu), (.seqOr, fun _ => alu), (.seqXor, fun _ => alu),
    (.seqShl, fun _ => alu), (.seqShr, fun _ => alu), (.seqSra, fun _ => alu),
    (.seqAddi, fun _ => { sd := true, ss1 := true, imm := true }),
    (.seqCmp, fun w => { pd := true, ss1 := true, ss2 := true, cond := true, range := cond w 5 }),
    (.seqCmpi, fun w => { pd := true, ss1 := true, cond := true, imm := true, range := cond w 5 }),
    (.seqPset, fun w => { pd := true, papb := true, cond := true, range := cond w 4 }),
    (.seqDld, fun _ => { dd := true, ds := true, ss1 := true }), (.seqDmov, fun _ => { dd := true, ds := true }),
    (.seqDset, fun w => { dd := true, ss1 := true, imm := true, range := field w }),
    (.seqDget, fun w => { sd := true, ds := true, imm := true, range := field w }),
    (.seqBr, fun _ => { imm := true }),
    (.seqLoop, fun w => { sd := true, ss1 := decide (w.imm.toNat % 2 ^ 32 = 0), imm := true
                          range := decide (w.imm.toNat < 2 ^ 52) }),
    (.seqStep, fun w => { ds := true, imm := true, range := decide (w.imm ≠ 0 ∧ w.imm.toNat < 2 ^ 32) }),
    (.seqWait, fun w => { imm := true, range := decide (w.imm.toNat < 64) }), (.seqHalt, fun _ => {}),
    (.seqSys, fun w => { sd := true, imm := true, range := decide (w.imm.toNat < 6) })]

/-- The station instructions with their operation codes (R133 to R141); the reads of the first three meet no error of DRAM. -/
def stationForms : List ((Fin 8 → StaW → Instr) × Nat) :=
  [(fun p w => .inLoad p ⟨w, []⟩, OP_LOAD), (fun p w => .inWin p ⟨w, []⟩, OP_WIN), (fun p w => .kvGather p ⟨w, []⟩, OP_KVG),
    (.inGather, OP_GATHER), (.mxMm, OP_MM), (.mxScore, OP_SCORE), (.mxMix, OP_MIX),
    (.vxEw1, OP_EW1), (.vxEw2, OP_EW2), (.vxAct, OP_ACT), (.vxRmsnorm, OP_RMS), (.vxLnorm, OP_LN), (.vxSmax, OP_SMAX),
    (.vxMerge, OP_MERGE), (.vxRope, OP_ROPE), (.vxSilumul, OP_SILUMUL), (.vxReduce, OP_REDUCE), (.vxPool, OP_POOL),
    (.kvAccept, OP_KVA), (.outStore, OP_STORE), (.outAppend, OP_APPEND), (.outCommit, OP_COMMIT)]

/-! ### Commands of a ring -/

/-- Command `c` of queue `q`, once the queue meets it (R310, R314), completes with `st` and `v` and leaves the state `t`. -/
abbrev CmdIs (s : State) (q : QCmd) (c : Instr) (st v : Nat) (t : State) : Prop :=
  cmdMeets s q c = true → q.resv = false → exec c s = .next (cmdEnd q st v t)

/-- Command `c` of queue `q`, once the queue meets it, completes with `st` and `v` and leaves a state that `P` says more of. -/
abbrev CmdGives (s : State) (q : QCmd) (c : Instr) (st v : Nat) (P : State → Prop) : Prop :=
  cmdMeets s q c = true → q.resv = false → ∃ t, exec c s = .next (cmdEnd q st v t) ∧ P t

/-- The same of a command that moves bytes to or from the host: once they are moved a trace record of type 0x11 is written (R244). -/
abbrev CmdMoves (s : State) (q : QCmd) (c : Instr) (v : Nat) (P : State → Prop) : Prop :=
  CmdGives s q c ST_OK v (fun t => ∃ w, t = traceFree 0x11 (cmdPart q) 8 w ∧ P w)

/-! ### Registers of a partition -/

/-- A partition with scalar register `i` set; s0 keeps reading 0 (R113). -/
def withScalar (i : BitVec 5) (v : BitVec 64) (pt : Part) : Part :=
  if i = 0 then pt else { pt with sreg := mapSet 0 pt.sreg i.toNat v }

/-- A partition with predicate register `i` set; p0 keeps reading 1 (R113). -/
def withPred (i : BitVec 3) (v : Bool) (pt : Part) : Part :=
  if i = 0 then pt else { pt with preg := BitVec.ofNat 8 (setBit pt.preg.toNat i.toNat v) }

/-- A partition with descriptor register `i` set. -/
def withDesc (i : Nat) (v : BitVec 256) (pt : Part) : Part := { pt with dreg := mapSet 0 pt.dreg i v }

end Sys2Proof.Machine
end

