-- ==== Sys2Proof/Certificates/Slice0/Obligations.lean ====
section
/-!
DEFINITION. The statements for the provers. What a statement says beyond the spec's words, as a choice of the model, its
docstring names with the log entry.
-/

section
open Sys2Proof Sys2Proof.Machine

/-! ### The machine as a whole -/

/-- A step takes the command at the front of the queue, runs it on the state with the queue's rest, and answers its outcome.
-/
def Obligations.step_runs_the_front_command : Prop :=
  ∀ (c : Instr) (rest : List Instr) (s : State),
    step { s with pending := c :: rest } = exec c { s with pending := rest }

/-- With no command waiting, a step lets 1 ns pass, as the model chooses (log 1): device time and the count of ACLK cycles
move on, but in OFF, and nothing else changes. -/
def Obligations.step_idles : Prop :=
  ∀ s : State, s.pending = [] → ∃ t, step s = .next t ∧ t = { s with now := t.now, cyc := t.cyc }
    ∧ (mode s ≠ MODE_OFF → t.now = s.now + 1 ∧ t.cyc = s.cyc + fget s CLK_ACLK_CUR_MHZ)
    ∧ (mode s = MODE_OFF → t = s)

/-- No step faults or is refused: each command of the table answers a next state, in every state. -/
def Obligations.every_command_completes : Prop :=
  ∀ (c : Instr) (s : State), Safe (exec c s) ∧ ∀ rest, Safe (step { s with pending := c :: rest })

/-- R13, R246 to R248, R299, R308, R335, R384: what auxiliary start leaves: STANDBY after OFF, device time 0, no command,
tensor, program or request, and the registers at the reset values of their tables. -/
def Obligations.reset_state : Prop :=
  let s := State.reset
  mode s = MODE_STANDBY ∧ fget s GEN_STATE_PREV = MODE_OFF ∧ s.now = 0 ∧ s.pending = [] ∧ s.tensors = [] ∧ s.reqs = []
    ∧ (∀ p, (partOf s p).loaded = false ∧ (partOf s p).running = false ∧ (partOf s p).step = none)
    ∧ fget s TK_PERIOD_US = 10000 ∧ fget s TK_SLACK_BASE_US = 500 ∧ fget s TK_COUNT_COUNT = 0
    ∧ fget s TB_STEP_THRESH_US = 1000 ∧ fget s RAS_CTRL_WINDOW_S = 600 ∧ fget s RAS_CTRL_THRESH = 3
    ∧ (∀ p < 8, fget s (TK_PART_VALID p) = 0 ∧ fget s (SEC_PART_STATE p) = PART_FREE)
    ∧ (∀ p < 8, ∀ l < 4, fget s (CMD_CFG_EN p l) = 0 ∧ fget s (CMD_CFG_SQ_LOG2 p l) = 6)
    ∧ (∀ i < 64, fget s (VCC_SLOT_CFG_EN i) = 0 ∧ fget s (VCC_SLOT_CFG_EVT_SRC i) = 0x100 + i)
    ∧ fget s EDC_LOCK_OWNER = 0 ∧ fget s GEN_AVAIL_CLUSTERS_OK = 255 ∧ fget s GEN_AVAIL_STACKS_OK = 63

/-- The module's DRAM and host memory keep their canonical form in every step, from every state that has it: addresses
strictly rising, and no entry for a byte that reads as an unlisted one does (log 4). -/
def Obligations.step_keeps_memory_canonical : Prop :=
  ∀ s t : State, MemInv s → step s = .next t → MemInv t

/-- The invariant of `step_keeps_memory_canonical` holds after auxiliary start. -/
def Obligations.reset_memory_is_canonical : Prop :=
  MemInv State.reset

/-! ### Instruction words and ring entries (R108 to R111, R124, R314, R317, R318) -/

/-- R108 to R110, R124: the fields of a word stand at the bits that the tables of the two formats give them, OPCODE in
[127:120]; each operation of the table is decoded from the word that its instruction is encoded in, with every field as it
was, and a word is no instruction exactly where its OPCODE names an invalid unit or an undefined operation. (Errors that reads
of DRAM meet are no part of a word, R268.) R314, R317, R318: the 64-byte entry of each command of a ring, with CLASS, CODE,
TAG and the operands at their bytes, spells that command back, whatever its operands; bytes 2 and 3 that are not 0 are the
reserved bytes that the command then carries (log 70). A queue that goes on never stands at an entry whose CLASS or CODE is
undefined: it has completed those with ST_CMD_INVALID. -/
def Obligations.words_and_entries : Prop :=
  ((∀ (op : BitVec 8) (w : StaW), (staWord op w).toNat = op.toNat * 2 ^ 120 + w.pneg.toNat * 2 ^ 119 + w.pred.toNat * 2 ^ 116
      + w.so.toNat * 2 ^ 110 + w.sa.toNat * 2 ^ 104 + w.ka.toNat * 2 ^ 103 + w.sb.toNat * 2 ^ 97 + w.kb.toNat * 2 ^ 96
      + w.da.toNat * 2 ^ 88 + w.db.toNat * 2 ^ 80 + w.func.toNat * 2 ^ 72 + w.ofmt.toNat * 2 ^ 64 + w.rtz.toNat * 2 ^ 63
      + w.nosat.toNat * 2 ^ 62 + w.sx.toNat * 2 ^ 57 + w.rsv.toNat * 2 ^ 48 + w.immh.toNat * 2 ^ 32 + w.imm32.toNat)
  ∧ (∀ (op : BitVec 8) (w : SeqW), (seqWord op w).toNat = op.toNat * 2 ^ 120 + w.pneg.toNat * 2 ^ 119 + w.pred.toNat * 2 ^ 116
      + w.sd.toNat * 2 ^ 111 + w.ss1.toNat * 2 ^ 106 + w.ss2.toNat * 2 ^ 101 + w.pd.toNat * 2 ^ 98 + w.dd.toNat * 2 ^ 90
      + w.ds.toNat * 2 ^ 82 + w.cond.toNat * 2 ^ 78 + w.pa.toNat * 2 ^ 75 + w.pb.toNat * 2 ^ 72 + w.rsv.toNat * 2 ^ 64
      + w.imm.toNat)
  ∧ (∀ f ∈ stationForms, ∀ (p : Fin 8) (w : StaW),
      wordOf (f.1 p w) = some (staWord (BitVec.ofNat 8 f.2) w) ∧ insnOf p (staWord (BitVec.ofNat 8 f.2) w) = some (f.1 p w))
  ∧ (∀ k < 26, ∃ f ∈ seqForms.map Prod.fst ++ [.seqEndloop], ∀ (p : Fin 8) (w : SeqW),
      wordOf (f p w) = some (seqWord (BitVec.ofNat 8 (0xA0 + k)) w)
        ∧ insnOf p (seqWord (BitVec.ofNat 8 (0xA0 + k)) w) = some (f p w))
  ∧ (∀ f ∈ seqForms.map Prod.fst ++ [.seqEndloop], ∀ (p : Fin 8) (w : SeqW),
      ∃ v, wordOf (f p w) = some v ∧ insnOf p v = some (f p w))
  ∧ (∀ (p : Fin 8) (v : BitVec 128) (i : Instr), insnOf p v = some i → wordOf i = some v)
  ∧ ∀ (p : Fin 8) (v : BitVec 128), insnOf p v = none ↔ v.toNat / 2 ^ 120 ∉ stationForms.map Prod.snd
      ∧ ¬(0xA0 ≤ v.toNat / 2 ^ 120 ∧ v.toNat / 2 ^ 120 ≤ 0xB9))
  ∧ ((∀ (i : Instr) (x : Spelling) (rsv : BitVec 16), ringSpell i = some x → (x.q.resv = true ↔ rsv ≠ 0) →
    let v := entryOf rsv x
    entrySpells v i = true ∧ entryDefined v = true ∧ v.toNat % 2 ^ 8 = x.cls ∧ v.toNat / 2 ^ 8 % 2 ^ 8 = x.code
      ∧ v.toNat / 2 ^ 16 % 2 ^ 16 = rsv.toNat ∧ v.toNat / 2 ^ 32 % 2 ^ 32 = x.q.tag.toNat
      ∧ ∀ o ∈ x.ops, 8 ≤ o.1 ∧ o.1 + o.2.1 ≤ 64 ∧ v.toNat / 2 ^ (8 * o.1) % 2 ^ (8 * o.2.1) = o.2.2)
  ∧ (∀ (q : QCmd) (n : Nat) (s : State), let k := q.queue.toNat
      qReady s k = true → entryDefined (qEntry s k) = false →
      qSkip (n + 1) k s = qSkip n k (complete { queue := q.queue, tag := BitVec.ofNat 32 ((qEntry s k).toNat / 2 ^ 32 % 2 ^ 32), resv := false }
        ST_CMD_INVALID 0 (qTake k s)))
  ∧ ∀ (q : QCmd) (st v : Nat) (s : State), let k := q.queue.toNat
      fget s (CMD_CFG_SQ_LOG2 (qPart k) (qLocal k)) ≤ 16 →
      (qGet s k).sqTail < 2 ^ fget s (CMD_CFG_SQ_LOG2 (qPart k) (qLocal k)) →
      qReady (cmdEnd q st v s) k = true → entryDefined (qEntry (cmdEnd q st v s) k) = true)

/-! ### Sequencer instructions (R110 to R114, R126 to R131) -/

/-- R114: arithmetic of scalar registers is two's complement of 64 bits and wraps; shifts take their amount modulo 64; the
instruction sets SD, moves on, and nothing else changes: no flag, no fault. -/
def Obligations.scalar_arithmetic : Prop :=
  ∀ (p : Fin 8) (w : SeqW) (s : State),
    let a := sGet (partOf s p) w.ss1
    let b := sGet (partOf s p) w.ss2
    let does := fun (u : SeqUse) (i : Instr) v =>
      SeqDoes s p u w i (.next (seqAt p ((partOf s p).pc + 1) (withScalar w.sd v) s))
    let alu := does { sd := true, ss1 := true, ss2 := true }
    alu (.seqAdd p w) (BitVec.ofInt 64 (a.toInt + b.toInt))
      ∧ alu (.seqSub p w) (BitVec.ofInt 64 (a.toInt - b.toInt))
      ∧ alu (.seqMul p w) (BitVec.ofInt 64 (a.toInt * b.toInt))
      ∧ alu (.seqAnd p w) (a &&& b)
      ∧ alu (.seqOr p w) (a ||| b)
      ∧ alu (.seqXor p w) (a ^^^ b)
      ∧ alu (.seqShl p w) (BitVec.ofNat 64 (a.toNat * 2 ^ (b.toNat % 64)))
      ∧ alu (.seqShr p w) (BitVec.ofNat 64 (a.toNat / 2 ^ (b.toNat % 64)))
      ∧ alu (.seqSra p w) (BitVec.ofInt 64 (a.toInt / 2 ^ (b.toNat % 64)))
      ∧ does { sd := true, ss1 := true, imm := true } (.seqAddi p w) (BitVec.ofInt 64 (a.toInt + w.imm.toInt))

/-- R127, R131: nop does nothing, li writes the immediate, sys the value that its selector names. -/
def Obligations.scalar_moves : Prop :=
  ∀ (p : Fin 8) (w : SeqW) (s : State),
    let does := fun (u : SeqUse) (i : Instr) (f : Part → Part) =>
      SeqDoes s p u w i (.next (seqAt p ((partOf s p).pc + 1) f s))
    let sys := fun v => does { sd := true, imm := true } (.seqSys p w) (withScalar w.sd v)
    does {} (.seqNop p w) (fun pt => pt)
      ∧ does { sd := true, imm := true } (.seqLi p w) (withScalar w.sd w.imm)
      ∧ (w.imm = 0 → sys (BitVec.ofNat 64 (fget s TK_COUNT_COUNT)))
      ∧ (w.imm = 1 → sys s.now)
      ∧ (w.imm = 2 → sys (partOf s p).lastStatus)
      ∧ (w.imm = 3 → sys (BitVec.ofNat 64 (carriers s p).length))
      ∧ (w.imm = 4 → sys (BitVec.ofNat 64
          (((carriers s p).map (fun c => ((List.range 32).filter (fun e => (healthOf s (32 * c + e)).state = 0)).length)).sum)))
      ∧ (w.imm = 5 → sys (BitVec.ofNat 64 (fget s CLK_ACLK_CUR_MHZ)))

/-- R127: cmp, cmpi and pset write PD, by the condition or operation that COND names. -/
def Obligations.predicate_instructions : Prop :=
  ∀ (p : Fin 8) (w : SeqW) (s : State),
    let does := fun (u : SeqUse) (i : Instr) v =>
      SeqDoes s p u w i (.next (seqAt p ((partOf s p).pc + 1) (withPred w.pd v) s))
    let holds := fun (a b : BitVec 64) =>
      if w.cond = 0 then decide (a = b) else if w.cond = 1 then decide (a ≠ b)
      else if w.cond = 2 then decide (a.toInt < b.toInt) else if w.cond = 3 then decide (a.toInt ≤ b.toInt)
      else if w.cond = 4 then decide (a.toNat < b.toNat) else decide (a.toNat ≤ b.toNat)
    let x := sGet (partOf s p) w.ss1
    let a := pGet (partOf s p) w.pa
    let b := pGet (partOf s p) w.pb
    (w.cond.toNat ≤ 5 →
      does { pd := true, ss1 := true, ss2 := true, cond := true } (.seqCmp p w) (holds x (sGet (partOf s p) w.ss2))
        ∧ does { pd := true, ss1 := true, cond := true, imm := true } (.seqCmpi p w) (holds x w.imm))
    ∧ (w.cond.toNat ≤ 4 → does { pd := true, papb := true, cond := true } (.seqPset p w)
        (if w.cond = 0 then a && b else if w.cond = 1 then a || b else if w.cond = 2 then a ^^ b
          else if w.cond = 3 then a && !b else a))

/-- R127: dmov copies a descriptor register; dset writes and dget reads the `n` bits at place `l` that the immediate names.
R127: dld loads row SS1 of a table of `n` descriptors a row into `n` registers from DD on, and leaves the others; its faults
in the order of the table. The load is said for a table that reads without an error, in the partition's windows, and that
nobody outside has written during the step. -/
def Obligations.descriptor_registers : Prop :=
  (∀ (p : Fin 8) (w : SeqW) (s : State),
    let l := w.imm.toNat % 256
    let n := w.imm.toNat / 256
    let d := (dGet (partOf s p) w.dd.toNat).toNat
    let e := (dGet (partOf s p) w.ds.toNat).toNat
    let does := fun (u : SeqUse) (i : Instr) (f : Part → Part) =>
      SeqDoes s p u w i (.next (seqAt p ((partOf s p).pc + 1) f s))
    does { dd := true, ds := true } (.seqDmov p w) (withDesc w.dd.toNat (dGet (partOf s p) w.ds.toNat))
    ∧ (n ≠ 0 → n ≤ 64 → l + n ≤ 256 →
      does { dd := true, ss1 := true, imm := true } (.seqDset p w) (withDesc w.dd.toNat (BitVec.ofNat 256
          (d / 2 ^ (l + n) * 2 ^ (l + n) + (sGet (partOf s p) w.ss1).toNat % 2 ^ n * 2 ^ l + d % 2 ^ l)))
        ∧ does { sd := true, ds := true, imm := true } (.seqDget p w)
            (withScalar w.sd (BitVec.ofNat 64 (e / 2 ^ l % 2 ^ n)))))
  ∧ (∀ (p : Fin 8) (w : SeqW) (s : State),
    let d := dGet (partOf s p) w.ds.toNat
    let t := tdOf d
    let row := (sGet (partOf s p) w.ss1).toNat
    let n := tdDim t 0
    let o := (t.view + row * n) * 32
    let st := ((partOf s p).step).getD stepNone
    let isTable := tdOk [4] d = true ∧ tdAgrees s p t = true
    SeqMeets s p (.seqDld p w) { dd := true, ds := true, ss1 := true } w →
    (¬isTable → exec (.seqDld p w) s = .next (seqFault p ST_DESC_TYPE s))
    ∧ (isTable → (tdDim t 1 ≤ row ∨ 255 < w.dd.toNat + n - 1) → exec (.seqDld p w) s = .next (seqFault p ST_DESC_RANGE s))
    ∧ (isTable → row < tdDim t 1 → w.dd.toNat + n - 1 ≤ 255 → tensorOf s p t.handle = none →
        exec (.seqDld p w) s = .next (seqFault p ST_HANDLE_INVALID s))
    ∧ ∀ x, isTable → row < tdDim t 1 → w.dd.toNat + n - 1 ≤ 255 → tensorOf s p t.handle = some x →
        s.dramErrs = [] → (readTensor p x FMT_INT8 false o (32 * n) s).2 = none → st.wild.contains t.handle = false →
        (x.cls = 1 ∨ x.flask = true ∨ inWins s x.part (x.home + o) (32 * n) = true) →
        ∃ u, exec (.seqDld p w) s = .next u
          ∧ u = seqAt p ((partOf s p).pc + 1) (fun pt => { pt with dreg := (partOf u p).dreg }) (freeUse 1 s)
          ∧ (∀ i < n, dGet (partOf u p) (w.dd.toNat + i) = BitVec.ofNat 256 (ofLe ((List.range 32).map (fun k =>
              tensorByte s st t.handle x (o + 32 * i + k)))))
          ∧ ∀ k, (k < w.dd.toNat ∨ w.dd.toNat + n ≤ k) → dGet (partOf u p) k = dGet (partOf s p) k)

/-- R127, R129: br goes on at its target and pops the loops whose body the target leaves; it faults with ST_BRANCH_TARGET
beyond the program and with ST_LOOP_ORDER into a body from outside. R128: loop opens a loop with its count and counter 0, or
goes past its endloop for a count of 0; endloop counts an iteration, writes SD + 1 and goes back, or ends the loop after the
last. -/
def Obligations.branches_and_loops : Prop :=
  (∀ (p : Fin 8) (w : SeqW) (s : State), SeqMeets s p (.seqBr p w) { imm := true } w →
    let pt := partOf s p
    let i := w.imm.toNat
    let enters := ∃ b ∈ loopBodies pt, inBody b i = true ∧ inBody b pt.pc = false
    (pt.words.length ≤ i → exec (.seqBr p w) s = .next (seqFault p ST_BRANCH_TARGET s))
    ∧ (i < pt.words.length → enters → exec (.seqBr p w) s = .next (seqFault p ST_LOOP_ORDER s))
    ∧ (i < pt.words.length → ¬enters →
        exec (.seqBr p w) s = .next (seqAt p i (fun pt => { pt with loops := popLoops i pt.loops }) s)))
  ∧ (∀ (p : Fin 8) (w : SeqW) (s : State),
    let pt := partOf s p
    let field := w.imm.toNat % 2 ^ 32
    let e := w.imm.toNat / 2 ^ 32 % 2 ^ 20
    let count := if field = 0 then (sGet pt w.ss1).toNat else field
    (SeqMeets s p (.seqLoop p w) { sd := true, ss1 := decide (field = 0), imm := true } w → w.imm.toNat < 2 ^ 52 →
      pt.pc < e → opcodeAt pt e = 0xB5 → count < 2 ^ 32 →
      (count = 0 → exec (.seqLoop p w) s = .next (seqAt p (e + 1) (fun pt => pt) s))
        ∧ (count ≠ 0 → pt.loops.length < 4 → exec (.seqLoop p w) s = .next (seqAt p (pt.pc + 1) (fun pt =>
            withScalar w.sd 0 { pt with loops := { start := pt.pc, stop := e, count := count, ended := 0, sd := w.sd.toNat } :: pt.loops }) s))
        ∧ (count ≠ 0 → 4 ≤ pt.loops.length → exec (.seqLoop p w) s = .next (seqFault p ST_LOOP_DEPTH s)))
    ∧ (SeqComes s p (.seqEndloop p w) → seqFieldsOk {} w = true →
      (∀ f fs, pt.loops = f :: fs → f.stop = pt.pc → f.sd < 32 →
        (f.ended + 1 < f.count →
          exec (.seqEndloop p w) s = .next (seqAt p (f.start + 1) (fun pt =>
            withScalar (BitVec.ofNat 5 f.sd) (sGet pt (BitVec.ofNat 5 f.sd) + 1) { pt with loops := { f with ended := f.ended + 1 } :: fs }) s))
        ∧ (f.count ≤ f.ended + 1 →
          exec (.seqEndloop p w) s = .next (seqAt p (f.stop + 1) (fun pt => { pt with loops := fs }) s)))
      ∧ (pt.loops = [] → exec (.seqEndloop p w) s = .next (seqFault p ST_LOOP_ORDER s))
      ∧ (∀ f fs, pt.loops = f :: fs → f.stop ≠ pt.pc → exec (.seqEndloop p w) s = .next (seqFault p ST_LOOP_ORDER s))))

/-- R101, R127, R130: step holds the sequencer at a step that is not admitted yet; wait stalls by its mask; halt ends
execution. -/
def Obligations.step_wait_halt : Prop :=
  ∀ (p : Fin 8) (w : SeqW) (s : State),
    let pt := partOf s p
    let d := dGet pt w.ds.toNat
    (w.imm.toNat < 2 ^ 32 → w.imm ≠ 0 →
      tdOk [2] d = true → tdAgrees s p (tdOf d) = true → pt.step = none → (tensorOf s p (tdOf d).handle).isSome →
      w.imm.toNat ≤ estBound s → pt.haltNext = false → admitAllowed s p = false →
      SeqDoes s p { ds := true, imm := true } w (.seqStep p w) (.next (fset (TK_PART_HELD p) 1 (setPart p
        { pt with held := some { idx := pt.pc, desc := d, est := w.imm.toNat }, waitMask := none } s))))
    ∧ (w.imm.toNat < 64 → SeqDoes s p { imm := true } w (.seqWait p w) (.next (updPart p (fun pt =>
        { pt with waitMask := if w.imm = 0 then none else some w.imm.toNat }) (seqAt p (pt.pc + 1) (fun pt => pt) s))))
    ∧ (pt.step = none → SeqDoes s p {} w (.seqHalt p w)
        (.next (setPart p { pt with running := false, resumePc := pt.pc + 1, waitMask := none } s)))

/-- R111: every instruction of a program with a field that is not as its operation wants it, an unused one that is not 0 or
one outside its range, faults with ST_INSN_INVALID, a sequencer instruction but endloop also where its predicate is 0, and so
does a word that spells no instruction; an instruction that the program does not stand at changes nothing (log 8). R112: an
instruction, but endloop, whose predicate is 0 moves on without effect: a station instruction enters no queue, and of its
checks only those of fields and ranges are made. (endloop does not look at its predicate: the statement of loops.) R127: on to
an instruction of the program the sequencer only moves; past its last instruction the program halts, and a step that is open
there faults (log 8). R126: an instruction that faults outside a step has no effect of its own: the program halts, goes on
after it when resumed, and the code stands in the status record with STEP_OPEN clear, which selector 2 of sys reads. -/
def Obligations.sequencer_checks : Prop :=
  ((∀ f ∈ seqForms ++ [(.seqEndloop, fun _ => ({} : SeqUse))], ∀ (p : Fin 8) (w : SeqW) (s : State),
    (SeqComes s p (f.1 p w) → seqFieldsOk (f.2 w) w = false → exec (f.1 p w) s = .next (seqFault p ST_INSN_INVALID s))
    ∧ (seqRuns s p = true → wordBad s p = true → exec (f.1 p w) s = .next (seqFault p ST_INSN_INVALID s))
    ∧ (seqRuns s p = true → wordBad s p = false → stands s p (f.1 p w) = false → exec (f.1 p w) s = .next s))
  ∧ ∀ f ∈ stationForms, ∀ (p : Fin 8) (w : StaW) (s : State),
    (SeqComes s p (f.1 p w) → predOn (partOf s p) w.pneg w.pred.toNat = false → (fieldsOk f.2 w && rangesOk f.2 w) = false →
      exec (f.1 p w) s = .next (seqFault p ST_INSN_INVALID s))
    ∧ (seqRuns s p = true → wordBad s p = true → exec (f.1 p w) s = .next (seqFault p ST_INSN_INVALID s))
    ∧ (seqRuns s p = true → wordBad s p = false → stands s p (f.1 p w) = false → exec (f.1 p w) s = .next s))
  ∧ ((∀ f ∈ seqForms, ∀ (p : Fin 8) (w : SeqW) (s : State), SeqComes s p (f.1 p w) → seqFieldsOk (f.2 w) w = true →
    predOn (partOf s p) w.pneg w.pred.toNat = false →
    exec (f.1 p w) s = .next (seqAt p ((partOf s p).pc + 1) (fun pt => pt) s))
  ∧ ∀ f ∈ stationForms, ∀ (p : Fin 8) (w : StaW) (s : State), SeqComes s p (f.1 p w) →
    predOn (partOf s p) w.pneg w.pred.toNat = false → fieldsOk f.2 w = true → rangesOk f.2 w = true →
      exec (f.1 p w) s = .next (seqAt p ((partOf s p).pc + 1) (fun pt => pt) s))
  ∧ (∀ (p : Fin 8) (i : Nat) (s : State),
    let pt := partOf s p
    let on := { pt with pc := i, waitMask := none, stuckAt := pt.stuckAt.map (fun _ => s.cyc) }
    (i < pt.words.length → seqGo p i s = setPart p on s)
    ∧ (pt.words.length ≤ i → seqStep pt = none → seqGo p i s = setPart p { on with running := false, resumePc := i } s)
    ∧ (pt.words.length ≤ i → seqStep pt ≠ none → seqGo p i s = seqFault p ST_STEP_ORDER (setPart p on s)))
  ∧ (∀ (p : Fin 8) (code : Nat) (s : State), (partOf s p).step = none → code < 2 ^ 16 → (partOf s p).pc < 2 ^ 32 →
    let t := seqFault p code s
    (partOf t p).running = false ∧ (partOf t p).resumePc = (partOf s p).pc + 1
      ∧ (partOf t p).lastStatus = BitVec.ofNat 64 ((partOf s p).pc * 2 ^ 32 + code)
      ∧ (partOf t p).sreg = (partOf s p).sreg ∧ (partOf t p).preg = (partOf s p).preg
      ∧ (partOf t p).dreg = (partOf s p).dreg ∧ (partOf t p).loops = (partOf s p).loops
      ∧ t.reqs = s.reqs ∧ t.tensors = s.tensors ∧ t.kvEntries = s.kvEntries)

/-! ### Station instructions (R75, R76, R112, R125, R133 to R141) -/

/-- R75, R76, R125: for each of the 22 station instructions: while its queue holds 32 the sequencer waits; one that fails a
check faults with that check's code; one that passes enters the end of its station's queue with its index and its descriptors
as they stand at issue, and the sequencer moves on. The last part is said for a state in which the stations themselves stand
still (R354), so that nothing else moves; the part before it says the same for every state. Errors that its reads will meet
wait in the stacks (R268); the clauses say the forms without. -/
def Obligations.station_issue : Prop :=
  (∀ (p : Fin 8) (w : StaW) (errs : List DramErr) (s : State),
    exec (.inLoad p ⟨w, errs⟩) s = exec (.inLoad p ⟨w, []⟩) { s with dramErrs := s.dramErrs ++ errs }
      ∧ exec (.inWin p ⟨w, errs⟩) s = exec (.inWin p ⟨w, []⟩) { s with dramErrs := s.dramErrs ++ errs }
      ∧ exec (.kvGather p ⟨w, errs⟩) s = exec (.kvGather p ⟨w, []⟩) { s with dramErrs := s.dramErrs ++ errs })
  ∧ ∀ f ∈ stationForms, ∀ (p : Fin 8) (w : StaW) (s : State) (st : StepSt),
    SeqComes s p (f.1 p w) → predOn (partOf s p) w.pneg w.pred.toNat = true → (partOf s p).step = some st →
    let pt := partOf s p
    let k := opStation f.2
    let a := mapGet 0 pt.dreg w.da.toNat
    let b := mapGet 0 pt.dreg w.db.toNat
    let check := issueCheck s p { pt with step := seqStep pt } f.2 w
    let noFrame := ∀ x, (tensorOf s p (tdOf a).handle = some x ∨ tensorOf s p (tdOf b).handle = some x) → x.slot = none
    (32 ≤ (queueOf pt k).length → exec (f.1 p w) s = .next s)
    ∧ ((queueOf pt k).length < 32 → ∀ c, check = some c → exec (f.1 p w) s = .next (seqFault p c s))
    ∧ ((queueOf pt k).length < 32 → check = none → noFrame →
        exec (f.1 p w) s = .next (enqueue f.2 p w a b .plain .plain s))
    ∧ ((queueOf pt k).length < 32 → check = none → noFrame → pt.pc + 1 < pt.words.length → dramAsleep s = true →
        ∃ t st', exec (f.1 p w) s = .next t ∧ (partOf t p).step = some st'
          ∧ (partOf t p).pc = pt.pc + 1
          ∧ queueOf (partOf t p) k
              = queueOf pt k ++ [{ idx := pt.pc, op := f.2, w := w, dA := a, dB := b, no := st.nextNo }]
          ∧ (∀ i ≠ k, queueOf (partOf t p) i = queueOf pt i)
          ∧ st'.nextNo = st.nextNo + 1 ∧ st'.rows = st.rows ∧ st'.stores = st.stores ∧ st'.scratch = st.scratch
          ∧ st'.commitIdx = (if f.2 = OP_COMMIT then some pt.pc else st.commitIdx)
          ∧ (partOf t p).act = pt.act ∧ (partOf t p).streams = pt.streams ∧ (partOf t p).sreg = pt.sreg
          ∧ (partOf t p).preg = pt.preg ∧ (partOf t p).dreg = pt.dreg
          ∧ (∀ i ≠ p.val, partOf t i = partOf s i) ∧ t.reqs = s.reqs ∧ t.hostMem = s.hostMem)

/-! ### The life of a step (R54, R87, R101 to R104, R126, R148 to R150, R230, R232, R381) -/

/-- R54, R148 to R150: the end of an attempt at a work item. One whose every comparison passes, or which met a NaN or an
infinity and so is not compared (the step then shows NAN_SEEN), gives the item its result; the third is taken whatever it is,
with EV_CHECKSUM_UNRESOLVED where it fails; one that fails before is reported, discarded, and the item goes to an engine that
no attempt used. Said while the stations stand still (R354), so that nothing else moves. With no such item only time passes.
R148, R149: an item passes where every sum passes; the comparison of integer lanes is that of 48 bits, with no tolerance. -/
def Obligations.checksum_items : Prop :=
  (∀ (dt : Nat) (p : Fin 8) (item : CheckItem) (s : State),
    let u := elapse dt s
    let pt := partOf u p
    let c := Instr.checksumItemCompare dt p item
    (itemOf pt item = none → exec c s = .next u)
    ∧ ∀ (a : Active) (x : WorkItem) (st : StepSt),
      let ds := itemDots u.free x
      let cls := classOf pt a.insn
      let odd := itemOdd x ds
      let passes := odd = true ∨ itemPasses u.free (cls / 4 % 4) x item.rows item.cols = true
      let becomes := fun (t : State) (y : WorkItem) => ∃ b, mapGet none (partOf t p).act 1 = some b
        ∧ b.items = a.items.map (fun z => if z.rb = x.rb ∧ z.cb = x.cb ∧ z.seg = x.seg then y else z)
      let result := { x with res := some (itemCodes u.free x ds) }
      itemOf pt item = some (a, x) → item.adder = none → dramAsleep u = true → pt.step = some st →
      (passes → ∃ t st', exec c s = .next t ∧ becomes t result ∧ (partOf t p).step = some st'
        ∧ st'.flags = flagOr (flagOr st.flags FLAG_NAN_SEEN odd) FLAG_ACC_SAT (ds.any (fun l => l.any DotRes.sat))
        ∧ t = { u with parts := t.parts, free := t.free } ∧ ∀ q, q ≠ p.val → partOf t q = partOf u q)
      ∧ (¬passes → x.used.length = 2 → ∃ t, exec c s = .next t ∧ becomes t result ∧ fget t RAS_STATUS_UNRESOLVED = 1
        ∧ (⟨.checksumUnresolved, p, u.now⟩ : EvRec) ∈ t.events ∧ t.reqs = u.reqs ∧ t.tensors = u.tensors)
      ∧ ∀ e cool,
        let v := itemReport p x.engine cls x.cool item (freeUse 1 u)
        ¬passes → x.used.length ≠ 2 →
        retryOf v p cls ((mapGet none (partOf v p).act 1).getD a) (x.used ++ [x.engine]) = some (e, cool) →
        ∃ t, exec c s = .next t ∧ becomes t { x with engine := e, cool := cool, used := x.used ++ [x.engine] }
          ∧ e ≠ x.engine ∧ e ∉ x.used ∧ Beside false false v { t with parts := v.parts } ∧ t.reqs = u.reqs)
  ∧ ((∀ (fam : Nat) (o : BitVec 48) (x : Int), laneOk fam o (.int x) = true ↔ o = BitVec.ofInt 48 x)
  ∧ ∀ (n fam : Nat) (x : WorkItem) (rows cols : List (BitVec 48)), x.bad = [] → itemCounts x rows cols = true →
    (itemPasses n fam x rows cols = true ↔
      (∀ e ∈ rows.zip (rowPreds n x), laneOk fam e.1 e.2 = true) ∧ ∀ e ∈ cols.zip (colPreds n x), laneOk fam e.1 e.2 = true))

/-- R25, R381: a health window that has stood for WINDOW_S closes, whichever engine or core it is of, while a Steward holds
the helm, and nothing else changes; while the latch is FREE, or before, it stays. -/
def Obligations.health_window_closes : Prop :=
  ∀ (dt : Nat) (core : Bool) (unit : BitVec 8) (s : State) (w : HealthWin),
    let key := (if core then 256 else 0) + unit.toNat
    let s' := elapse dt s
    mapGet none s.windows key = some w →
    (helmHeld s' = true → fget s RAS_CTRL_WINDOW_S * 1000000000 ≤ since s' w.openedAt →
      exec (.healthWindowExpiry dt core unit) s = .next { s' with windows := mapSet none s.windows key none })
    ∧ (helmHeld s' = false ∨ since s' w.openedAt < fget s RAS_CTRL_WINDOW_S * 1000000000 →
        exec (.healthWindowExpiry dt core unit) s = .next s')

/-- R87, R102: a step whose stations have been stalled for 256 ACLK cycles while its sequencer issues nothing ends with
ST_STREAM_DEADLOCK: the program halts, its streams and queues are empty, the status record shows the code, and DRAM outside
the firmware region keeps its contents: nothing is published. R232: a step that has run past its estimate sets EST_OVER,
counts and raises EV_EST_EXCEEDED, once; nothing else of the step changes. -/
def Obligations.step_runs_too_long : Prop :=
  (∀ (dt : Nat) (p : Fin 8) (s : State) (st : StepSt),
    let s' := elapse dt s
    ∀ since0, (partOf s p).stuckAt = some since0 → (partOf s p).step = some st → (partOf s p).destroying = 0 →
    stalled (partOf s p) = true → dramAsleep s' = false → seqIdle s' p = true → 256000 ≤ s'.cyc - since0 →
    ∃ t, exec (.streamDeadlock dt p) s = .next t ∧ (partOf t p).step = none ∧ (partOf t p).running = false
      ∧ (partOf t p).streams = [] ∧ (partOf t p).queues = [] ∧ (partOf t p).act = []
      ∧ (partOf t p).lastStatus.toNat % 2 ^ 16 = ST_STREAM_DEADLOCK ∧ (partOf t p).lastStatus.getLsbD 25 = true
      ∧ (partOf t p).sreg = (partOf s p).sreg ∧ (partOf t p).preg = (partOf s p).preg ∧ (partOf t p).dreg = (partOf s p).dreg
      ∧ (ringsOk s → ∀ a, inFwCopy a = false → dramByte t a = dramByte s a))
  ∧ (∀ (dt : Nat) (p : Fin 8) (s : State) (st : StepSt), (partOf s p).step = some st →
    let s' := elapse dt s
    (st.estOver = false → st.est < (s'.cyc - st.admitCyc) / 1000 →
      ∃ t, exec (.evEstExceeded dt p) s = .next t ∧ (⟨.estExceeded, p, s'.now⟩ : EvRec) ∈ t.events
        ∧ Beside false true (statBump TK_STAT_EST_OVER 1 (fset (TK_PART_EST_OVER p) 1
            (updPart p (fun pt => { pt with step := some { st with estOver := true } }) s'))) t)
    ∧ (st.estOver = true ∨ (s'.cyc - st.admitCyc) / 1000 ≤ st.est → exec (.evEstExceeded dt p) s = .next s'))

/-- R90, R103, R104: a commit takes Tc from device time, ends the step with ST_OK, opens the publish window with the step's
source, empties streams and stations, and counts the step. A row of bytes that the step stored publishes: its bytes stand at
their place in the tensor, which takes the row's stamp, and no other byte of DRAM beside the firmware's changes. A batch row
publishes exactly when it is bound to no request, or was not dropped and its request is live with a deadline that has not
lapsed at Tc. R103, R191, R216: a window that ends is gone; with no other window open the snapshots that waited are taken; the
source of the commit signals. -/
def Obligations.commit_and_publish : Prop :=
  (∀ (dt : Nat) (p : Fin 8) (s : State) (st : StepSt) (src : Nat),
    let s' := elapse dt s
    (partOf s p).step = some st → st.commitAt = some src → lostWrites s' p st = false →
    (∃ t b, exec (.commit dt p) s = .next t ∧ (partOf t p).step = none ∧ (partOf t p).pub = some b
      ∧ b.tc = s'.now ∧ b.source = src ∧ b.late = [] ∧ b.bound = boundReqs st.rows
      ∧ (partOf t p).streams = [] ∧ (partOf t p).queues = [] ∧ (partOf t p).act = []
      ∧ (partOf t p).lastStatus.toNat % 2 ^ 16 = ST_OK
      ∧ (partOf t p).pc = (partOf s p).pc ∧ (partOf t p).sreg = (partOf s p).sreg)
    ∧ (∀ (x : HeldStore) (h : Tensor), st.stores = [x] → st.segs = [] → st.rows = [] → st.holds = [] → x.fmt = FMT_INT8 →
        tensorOf s p x.handle = some h → h.flask = false → h.cls ≠ 1 → x.data.scales = [] →
        x.elem + x.data.codes.length ≤ h.size → inWins s p (h.home + x.elem) x.data.codes.length = true →
        ringsOk s → (∀ k < x.data.codes.length, inFwCopy (h.home + x.elem + k) = false) →
        ∃ t h', exec (.commit dt p) s = .next t ∧ tensorOf t p x.handle = some h' ∧ h'.stamp = x.stamp ∧ h'.home = h.home
          ∧ (∀ k < x.data.codes.length, dramByte t (h.home + x.elem + k) = BitVec.ofNat 8 (x.data.codes.getD k 0))
          ∧ ∀ b, inFwCopy b = false → (b < h.home + x.elem ∨ h.home + x.elem + x.data.codes.length ≤ b) → dramByte t b = dramByte s b)
    ∧ ∀ r x, st.rows[r]? = some x →
        (rowPublishes st ((boundReqs st.rows).filter (fun q => reqPublishes s' p s'.now q)) r = true ↔
          (x.bound = false ∨ (x.dropped = false ∧ reqLive s' p x.req = true ∧ reqLapses s' x.req s'.now = false))))
  ∧ (∀ (dt : Nat) (p : Fin 8) (s : State) (b : Pub),
    let u := elapse dt s
    (partOf s p).pub = some b →
    ∃ t, exec (.publishWindowEnd dt p) s = .next t ∧ (partOf t p).pub = none
      ∧ (windowOpen (updPart p (fun pt => { pt with pub := none }) u) = false →
          fget t KV_STATUS_CTX_BUSY = 0 ∧ fget t SRV_STATUS_SEL_BUSY = 0)
      ∧ (dieOn u = true → (partOf s p).destroying = 0 → bellBad b.source = false → b.source < 1024 → fget u (EDC_SRC_CFG_OWNER b.source) = p →
          edcBit t EDC_PEND b.source = true))

/-- R101, R230: a held STEP that is offered a slot it fits opens its step: the slot is used, in armed mode a credit is spent,
and the sequencer stands behind it; one that does not fit stays held and changes nothing. -/
def Obligations.held_step_is_admitted : Prop :=
  ∀ (p : Fin 8) (s : State) (h : HeldStep),
    let pt := partOf s p
    let fits := admitAllowed s p = true ∧ pt.step = none ∧ pt.pub = none ∧ pt.used < pt.slots
      ∧ ((s.now.toNat : Int) * aclk s + 1000 * h.est ≤ (pt.limit.getD 0) * aclk s)
    pt.held = some h →
    (¬fits → offer p s = s)
    ∧ (fits → ∃ st, (partOf (offer p s) p).step = some st ∧ st.idx = h.idx ∧ st.est = h.est ∧ st.rowDesc = h.desc
        ∧ (partOf (offer p s) p).held = none ∧ (partOf (offer p s) p).pc = h.idx + 1
        ∧ (partOf (offer p s) p).used = pt.used + 1 ∧ (partOf (offer p s) p).sreg = pt.sreg
        ∧ (mode (offer p s) = MODE_RUN))

/-- R224 to R226, R452: at a boundary the deferred period takes effect and TK_NEXT moves to the next multiple of it; the
sequence of R226 runs on that state, first counting the tick, only while a Steward holds the helm. Before TK_NEXT, and while
the die is off, only time passes. R229: the plan of a partition: as many slots as its budget holds estimates, in armed mode no
more than its credits; none used, none deferred; the limit stands the reserved slack before TK_NEXT. Nothing of another
partition changes. -/
def Obligations.tick_boundary : Prop :=
  (∀ (dt : Nat) (s : State),
    let s' := elapse dt s
    let u := settingsTake (accessHalve s')
    let next := regSet TK_NEXT ((u.now.toNat / (1000 * max 1 (fget u TK_PERIOD_US)) + 1) * (1000 * max 1 (fget u TK_PERIOD_US))) u
    (dieOn s' = true → regGet s' TK_NEXT ≤ s'.now.toNat →
      (helmHeld next = true → exec (.tickBoundary dt) s = .next (boundarySequence next)
        ∧ fget (boundarySequence next) TK_COUNT_COUNT = (fget s TK_COUNT_COUNT + 1) % 2 ^ 64)
      ∧ (helmHeld next = false → exec (.tickBoundary dt) s = .next next)
      ∧ fget next TK_COUNT_COUNT = fget s TK_COUNT_COUNT)
    ∧ (dieOn s' = false ∨ s'.now.toNat < regGet s' TK_NEXT → exec (.tickBoundary dt) s = .next s'))
  ∧ (∀ (p : Fin 8) (s : State) (e : Nat), planEst (partOf s p) = some e → 0 < e → carriers s p ≠ [] →
    let t := planPart p s
    let budget := ((1000 * (fget s TK_PERIOD_US : Int) - slackNs s) * aclk s - remains s (partOf s p)).toNat
    let n := budget / (1000 * e)
    (partOf t p).slots = (if fbit s (TK_PART_MODE p) then min n (fget s (TK_PART_CREDITS p)) else n)
      ∧ (partOf t p).used = 0 ∧ (partOf t p).deferred = 0
      ∧ (partOf t p).limit = some ((regGet s TK_NEXT : Int) - slackNs s)
      ∧ fget t (TK_PART_SLOTS p) = min 255 (partOf t p).slots ∧ fget t (TK_PART_USED p) = 0
      ∧ fget t (TK_PART_DEFERRED p) = 0
      ∧ (∀ q, q ≠ p.val → partOf t q = partOf s q) ∧ t.reqs = s.reqs ∧ t.tensors = s.tensors ∧ t.dram = s.dram)

/-! ### Command rings and requests (R194 to R200, R308 to R319) -/

/-- R308 to R312, R317: a command that its queue does not meet leaves everything as it is; one that the queue meets moves
SQ_HEAD past its entry and completes, with ST_CMD_INVALID and no other effect where a reserved byte is not 0. Every command of
a ring runs through this one operation. -/
def Obligations.ring_takes_a_command : Prop :=
  ∀ (c : Instr) (q : QCmd) (resv : Bool) (f : State → CmdOut) (s : State),
    let u := qTake q.queue.toNat s
    (cmdMeets s q c = false → runCmd c q resv f s = .next s)
    ∧ (cmdMeets s q c = true → q.resv = true ∨ resv = true → runCmd c q resv f s = .next (cmdEnd q ST_CMD_INVALID 0 u))
    ∧ (cmdMeets s q c = true → q.resv = false → resv = false → (f u).status ≠ ST_DMA_FAULT →
        runCmd c q resv f s = .next (cmdEnd q (f u).status (f u).value (f u).st))
    ∧ (cmdMeets s q c = true → q.resv = false → resv = false → (f u).status = ST_DMA_FAULT →
        ∃ t, runCmd c q resv f s = .next (cmdEnd q ST_DMA_FAULT (f u).value t) ∧ fget t NET_STATUS_HL_ERR = 1
          ∧ fget t NET_HL_STATUS_CAPTURED = 1)

/-- R312, R313, R315: an entry written to a completion ring: its 64 bytes stand in host memory at the ring's base and CQ_TAIL,
with TYPE, PHASE, STATUS, TAG, VALUE and STAMP in their places; CQ_TAIL moves on modulo the ring; the phase turns where it
wraps. No other byte of host memory changes, and beside it only a message may be sent. -/
def Obligations.completion_entry : Prop :=
  ∀ (q : Nat) (e : CqEnt) (s : State), q < 1024 →
    let tail := CMD_PTRS_CQ_TAIL (qPart q) (qLocal q)
    let size := 2 ^ fget s (CMD_CFG_CQ_LOG2 (qPart q) (qLocal q))
    let at_ := fget s (CMD_CQ_BASE_ADDR (qPart q) (qLocal q)) * 4096 + 64 * fget s tail
    let t := cqWrite q e s
    let byte := fun (i : Nat) => (mapGet 0 t.hostMem (at_ + i)).toNat
    byte 0 = e.typ % 256
      ∧ byte 1 = (if (qGet s q).phase then 1 else 0) + (if (qGet s q).lostNext then 2 else 0)
      ∧ byte 2 + 256 * byte 3 = e.status % 2 ^ 16
      ∧ ofLe ((List.range 4).map (fun i => mapGet 0 t.hostMem (at_ + 4 + i))) = e.tag % 2 ^ 32
      ∧ ofLe ((List.range 8).map (fun i => mapGet 0 t.hostMem (at_ + 8 + i))) = e.value % 2 ^ 64
      ∧ ofLe ((List.range 8).map (fun i => mapGet 0 t.hostMem (at_ + 16 + i))) = e.stamp.toNat
      ∧ (∀ a, a < at_ ∨ at_ + 64 ≤ a → mapGet 0 t.hostMem a = mapGet 0 s.hostMem a)
      ∧ fget t tail = (fget s tail + 1) % size % 2 ^ 16
      ∧ (qGet t q).phase = (if (fget s tail + 1) % size = 0 then !(qGet s q).phase else (qGet s q).phase)
      ∧ Beside false true s t

/-- R196, R197, R318: ADMIT checks in order, takes the lowest FREE entry of the partition's range, and answers its index. The
new entry holds the words given, ADMITTED, its partition, and device time as its admission stamp; no other entry changes. -/
def Obligations.request_admit : Prop :=
  ∀ (q : QCmd) (w0 w1 dl w5 : BitVec 64) (s : State),
    let u := qTake q.queue.toNat s
    let p := cmdPart q
    let e : ReqEnt := { reqFree with w0 := w0, w1 := w1, w3 := dl, w5 := w5 }
    let base := fget u (SRV_PART_BASE p)
    let count := fget u (SRV_PART_COUNT p)
    let c := Instr.reqAdmit q w0 w1 dl w5
    onlyBits w0.toNat admitMask0 = true → onlyBits w1.toNat admitMask1 = true → onlyBits w5.toNat admitMask5 = true →
    (rqPromptLen e = 0 → CmdIs s q c ST_EMPTY_REQUEST 0 u)
    ∧ (rqPromptLen e ≠ 0 → admitBad u p e = true → CmdIs s q c ST_REQ_INVALID 0 u)
    ∧ (rqPromptLen e ≠ 0 → admitBad u p e = false →
        (∀ i, base ≤ i → i < base + count → rqState (reqGet u i) ≠ RQ_FREE) →
        CmdIs s q c ST_TABLE_FULL 0 (fset SRV_STATUS_TABLE_FULL 1 u))
    ∧ ∀ i, rqPromptLen e ≠ 0 → admitBad u p e = false → base ≤ i → i < base + count →
        rqState (reqGet u i) = RQ_FREE → (∀ j, base ≤ j → j < i → rqState (reqGet u j) ≠ RQ_FREE) →
        CmdGives s q c ST_OK i (fun v => rqState (reqGet v i) = RQ_ADMITTED ∧ fieldGet (reqGet v i).w0.toNat 59 57 = p
          ∧ fieldGet (reqGet v i).w0.toNat 56 0 = fieldGet w0.toNat 56 0
          ∧ (reqGet v i).w1 = w1 ∧ (reqGet v i).w2 = s.now ∧ (reqGet v i).w3 = dl ∧ (reqGet v i).w4 = 0
          ∧ (reqGet v i).w5 = w5 ∧ (reqGet v i).w6 = 0 ∧ (reqGet v i).w7 = 0
          ∧ (∀ j, j ≠ i → reqGet v j = reqGet u j)
          ∧ v.parts = u.parts ∧ v.tensors = u.tensors ∧ v.kvEntries = u.kvEntries ∧ v.hostMem = u.hostMem)

/-- R194, R196: a request command whose entry is outside the queue's partition, or in a state that the command does not take,
completes with ST_REQ_STATE and has no other effect. -/
def Obligations.request_state_checked : Prop :=
  ∀ (q : QCmd) (idx : BitVec 16) (w0 dl w5 mask addr : BitVec 64) (dma : Dma) (s : State),
    let u := qTake q.queue.toNat s
    onlyBits w0.toNat setMask0 = true → onlyBits w5.toNat admitMask5 = true → mask.toNat < 64 →
    ∀ x ∈ [(Instr.reqCancel q idx, [RQ_ADMITTED, RQ_ACTIVE, RQ_PAUSED]), (Instr.reqFinish q idx, [RQ_ACTIVE, RQ_PAUSED]),
        (Instr.reqPause q idx, [RQ_ACTIVE]), (Instr.reqResume q idx, [RQ_PAUSED]),
        (Instr.reqSet q idx 0 w0 dl w5 mask, [RQ_ADMITTED, RQ_ACTIVE, RQ_PAUSED]),
        (Instr.reqRetire q idx, [RQ_CANCELLED, RQ_LAPSED, RQ_DONE]),
        (Instr.reqQuery q idx addr dma, [RQ_ADMITTED, RQ_ACTIVE, RQ_PAUSED, RQ_CANCELLED, RQ_LAPSED, RQ_DONE])],
      (reqInRange u (cmdPart q) idx.toNat = false ∨ rqState (reqGet u idx.toNat) ∉ x.2) → CmdIs s q x.1 ST_REQ_STATE 0 u

/-- R105, R198, R199: CANCEL and FINISH end a request: its state and LAST_STATUS; while a step is open every other entry but
its companions stays as it is. (A companion is taken here whose main request does not itself wait for RETIRE.) -/
def Obligations.request_ends : Prop :=
  ∀ (q : QCmd) (idx : BitVec 16) (s : State),
    let u := qTake q.queue.toNat s
    let p := cmdPart q
    let i := idx.toNat
    let ends := fun (c : Instr) (st code : Nat) => CmdGives s q c ST_OK 0 (fun v =>
      rqState (reqGet v i) = st ∧ rqLastStatus (reqGet v i) = code ∧ (reqGet v i).w1 = (reqGet u i).w1
      ∧ (reqGet v i).w2 = (reqGet u i).w2 ∧ (reqGet v i).w3 = (reqGet u i).w3
      ∧ ((partOf u p).step.isSome → ∀ j, j ≠ i → j ∉ reqCompanions u p i → reqGet v j = reqGet u j))
    reqInRange u p i = true →
    (rqCompanion (reqGet u i) = true → (reqGet u (rqMain (reqGet u i))).mark ≠ 4) →
    (rqState (reqGet u i) ∈ [RQ_ADMITTED, RQ_ACTIVE, RQ_PAUSED] → ends (.reqCancel q idx) RQ_CANCELLED ST_CANCELLED)
    ∧ (rqState (reqGet u i) ∈ [RQ_ACTIVE, RQ_PAUSED] → ends (.reqFinish q idx) RQ_DONE ST_OK)

/-- R196, R207, R318: PAUSE and RESUME keep the host's wish and mark the entry, and at the next step boundary the request is
PAUSED, or ACTIVE again; SET writes the fields that its mask selects and leaves the rest; QUERY writes the eight words of the
entry to host memory and changes nothing else. -/
def Obligations.request_changes : Prop :=
  ∀ (q : QCmd) (idx : BitVec 16) (w0 dl w5 mask addr : BitVec 64) (dma : Dma) (s : State),
    let u := qTake q.queue.toNat s
    let i := idx.toNat
    let e := reqGet u i
    reqInRange u (cmdPart q) i = true →
    (rqState e = RQ_ACTIVE → CmdGives s q (.reqPause q idx) ST_OK 0 (fun v =>
        v = reqUpd i (fun e => { e with w0 := e.w0 ||| 0x10000000000000, mark := 3 }) u
        ∧ (rqCompanion e = false → rqState (reqGet (pauseBoundary (cmdPart q) v) i) = RQ_PAUSED)))
    ∧ (rqState e = RQ_PAUSED → CmdGives s q (.reqResume q idx) ST_OK 0 (fun v =>
        v = reqUpd i (fun e => { e with w0 := e.w0 &&& ~~~0x10000000000000, mark := 2 }) u
        ∧ (rqCompanion e = false → rqState (reqGet (pauseBoundary (cmdPart q) v) i) = RQ_ACTIVE)))
    ∧ (rqState e ∈ [RQ_ADMITTED, RQ_ACTIVE, RQ_PAUSED] → onlyBits w0.toNat setMask0 = true →
        onlyBits w5.toNat admitMask5 = true → mask.toNat < 64 →
        CmdGives s q (.reqSet q idx 0 w0 dl w5 mask) ST_OK 0 (fun v =>
          v = { u with reqs := v.reqs } ∧ (∀ j, j ≠ i → reqGet v j = reqGet u j)
          ∧ rqPrio (reqGet v i) = (if mask.getLsbD 0 then fieldGet w0.toNat 56 54 else rqPrio e)
          ∧ rqNoPause (reqGet v i) = (if mask.getLsbD 1 then w0.getLsbD 53 else rqNoPause e)
          ∧ rqDraftLen (reqGet v i) = (if mask.getLsbD 2 then fieldGet w0.toNat 51 48 else rqDraftLen e)
          ∧ rqTtftTarget (reqGet v i) = (if mask.getLsbD 3 then fieldGet w5.toNat 63 40 else rqTtftTarget e)
          ∧ rqTbtTarget (reqGet v i) = (if mask.getLsbD 4 then fieldGet w5.toNat 39 16 else rqTbtTarget e)
          ∧ (reqGet v i).w3 = (if mask.getLsbD 5 then dl else e.w3)
          ∧ rqState (reqGet v i) = rqState e ∧ rqFlags (reqGet v i) = rqFlags e ∧ rqMain (reqGet v i) = rqMain e
          ∧ (reqGet v i).w1 = e.w1 ∧ (reqGet v i).w2 = e.w2 ∧ (reqGet v i).w4 = e.w4 ∧ (reqGet v i).w6 = e.w6
          ∧ (reqGet v i).w7 = e.w7))
    ∧ (rqState e ∈ [RQ_ADMITTED, RQ_ACTIVE, RQ_PAUSED, RQ_CANCELLED, RQ_LAPSED, RQ_DONE] → dma.ok = true →
        CmdMoves s q (.reqQuery q idx addr dma) 0 (fun v => v = { u with hostMem := v.hostMem }
          ∧ (∀ k < 8, ofLe ((List.range 8).map (fun b => mapGet 0 v.hostMem (addr.toNat + 8 * k + b)))
              = ([e.w0, e.w1, e.w2, e.w3, e.w4, e.w5, e.w6, e.w7].getD k 0).toNat)
          ∧ ∀ a, a < addr.toNat ∨ addr.toNat + 64 ≤ a → mapGet 0 v.hostMem a = mapGet 0 u.hostMem a))

/-- R196: RETIRE frees an ended entry whose pages are all FREE, its companion with it; otherwise the entry waits as it is. -/
def Obligations.request_retire : Prop :=
  ∀ (q : QCmd) (idx : BitVec 16) (s : State),
    let u := qTake q.queue.toNat s
    let p := cmdPart q
    let i := idx.toNat
    reqInRange u p i = true → rqState (reqGet u i) ∈ [RQ_CANCELLED, RQ_LAPSED, RQ_DONE] →
    (reqPagesFree u p i = true → CmdGives s q (.reqRetire q idx) ST_OK 0 (fun v =>
      (∀ j, reqGet v j = if j = i ∨ j ∈ reqCompanions u p i then reqFree else reqGet u j)
      ∧ v.tensors = u.tensors ∧ v.kvEntries = u.kvEntries ∧ v.hostMem = u.hostMem))
    ∧ (reqPagesFree u p i = false →
        CmdIs s q (.reqRetire q idx) ST_OK 0 (reqUpd i (fun e => { e with mark := 4 }) u))

/-! ### Programs, tensors and queues (R71 to R73, R94, R113, R115, R257, R308 to R313, R317, R319) -/

/-- R73, R113, R319: LOAD_IMAGE: an accepted image resets every register file: scalars and predicates 0, descriptors from the
descriptor block and null above it; the program stands at ENTRY. A running program is refused, and so is a bad image, and a
transfer that fails changes no program. s0 reads 0 and p0 reads 1 always, and what writes them leaves everything. -/
def Obligations.load_image : Prop :=
  ∀ (q : QCmd) (addr len : BitVec 64) (dma : Dma) (s : State),
    let u := qTake q.queue.toNat s
    let p := cmdPart q
    let c := Instr.loadImage q addr len dma
    let h := imgHdr dma.data
    ((partOf u p).running = true → CmdIs s q c ST_PROGRAM_BUSY 0 u)
    ∧ ((partOf u p).running = false → dma.ok = false → CmdGives s q c ST_DMA_FAULT 0 (fun v => v.parts = u.parts
        ∧ fget v NET_STATUS_HL_ERR = 1))
    ∧ ((partOf u p).running = false → dma.ok = true → (dma.data.length ≠ len.toNat ∨ imgOk u p dma.data = false) →
        CmdIs s q c ST_PROGRAM_IMAGE 0 u)
    ∧ ((partOf u p).running = false → dma.ok = true → dma.data.length = len.toNat → imgOk u p dma.data = true →
        CmdMoves s q c 0 (fun v => (∀ i, sGet (partOf v p) i = 0) ∧ (∀ i, pGet (partOf v p) i = decide (i = 0))
          ∧ (∀ i, dGet (partOf v p) i = if i < h.descInit then
              BitVec.ofNat 256 (ofLe ((dma.data.drop (576 + 32 * i)).take 32)) else 0)
          ∧ (partOf v p).pc = h.entry ∧ (partOf v p).running = true ∧ (partOf v p).loops = []
          ∧ (partOf v p).words.length = h.insns ∧ (partOf v p).step = (partOf u p).step
          ∧ fget v (TK_PART_HELD p) = 0
          ∧ (∀ r, r ≠ p → partOf v r = partOf u r) ∧ v = { u with regs := v.regs, parts := v.parts }))
    ∧ (∀ pt x, sGet pt 0 = 0 ∧ pGet pt 0 = true ∧ withScalar 0 x pt = pt)
    ∧ ∀ pt b, withPred 0 b pt = pt

/-- R115, R317: RESUME lets a halted program go on where it stopped, with its registers; HALT takes effect at once where the
program is held at STEP, else at its next STEP; both refuse a partition without a program (log 8). -/
def Obligations.resume_and_halt : Prop :=
  ∀ (q : QCmd) (s : State),
    let u := qTake q.queue.toNat s
    let p := cmdPart q
    let pt := partOf u p
    (pt.loaded = false → CmdIs s q (.programResume q) ST_CMD_INVALID 0 u ∧ CmdIs s q (.programHalt q) ST_CMD_INVALID 0 u)
    ∧ (pt.loaded = true → pt.running = false → pt.resumePc < pt.words.length →
        CmdIs s q (.programResume q) ST_OK 0 (setPart p { pt with
          pc := pt.resumePc, running := true, haltNext := false, loops := popLoops pt.resumePc pt.loops, waitMask := none
          stuckAt := pt.stuckAt.map (fun _ => s.cyc) } u))
    ∧ (pt.loaded = true → pt.running = true → CmdIs s q (.programResume q) ST_OK 0 u)
    ∧ (pt.loaded = true → pt.running = true → pt.held = none →
        CmdIs s q (.programHalt q) ST_OK 0 (setPart p { pt with haltNext := true } u))
    ∧ (∀ h, pt.loaded = true → pt.running = true → pt.held = some h →
        CmdIs s q (.programHalt q) ST_OK 0 (setPart p
          { pt with held := none, running := false, resumePc := h.idx, waitMask := none } (fset (TK_PART_HELD p) 0 u)))
    ∧ (pt.loaded = true → pt.running = false → CmdIs s q (.programHalt q) ST_OK 0 u)

/-- R94, R317: REGISTER gives the tensor a new handle of its partition with the size, class and access that the command names;
RELEASE makes the handle invalid; EXPORT gives the ACX a handle of its own. Every other handle stays as it is. -/
def Obligations.tensor_handles : Prop :=
  ∀ (q : QCmd) (r : RegisterOps) (h : BitVec 32) (ro : BitVec 8) (s : State),
    let u := qTake q.queue.toNat s
    let p := cmdPart q
    let n := u.nextHandle
    (registerBad r = true → CmdIs s q (.tensorRegister q r) ST_CMD_INVALID 0 u)
    ∧ (registerBad r = false →
        (r.cls = 1 ∨ (r.cls = 0 ∧ r.location = 0 ∧ (freeSpot u p r.size.toNat [0, 1, 2, 3, 4, 5]).isSome)
          ∨ (r.cls = 0 ∧ r.location = 1 ∧ flaskBad u p r.object.toNat = none)
          ∨ (r.cls = 2 ∧ kvRegisterBad (tensorNew p r 0) = none ∧ (freeSpot u p r.size.toNat [0, 1, 2, 3, 4, 5]).isSome)) →
        CmdGives s q (.tensorRegister q r) ST_OK n (fun v => ∃ t, tensorOf v p n = some t ∧ t.size = r.size.toNat ∧ t.cls = r.cls.toNat ∧ t.writable = (r.writable == 1)
          ∧ t.flask = (r.cls == 0 && r.location == 1)
          ∧ (r.cls ≠ 1 → r.location = 0 → freeSpot u p r.size.toNat [0, 1, 2, 3, 4, 5] = some t.home)
          ∧ v.nextHandle = n + 1 ∧ (∀ k, k ≠ n → mapGet none v.tensors k = mapGet none u.tensors k)
          ∧ v.parts = u.parts ∧ v.reqs = u.reqs ∧ v.kvEntries = u.kvEntries))
    ∧ (tensorOf u p h.toNat = none → CmdIs s q (.tensorRelease q h) ST_HANDLE_INVALID 0 u
        ∧ (ro.toNat ≤ 1 → CmdIs s q (.tensorExport q h ro) ST_HANDLE_INVALID 0 u))
    ∧ (∀ t, tensorOf u p h.toNat = some t → t.slot = none → h ≠ 0 →
        CmdGives s q (.tensorRelease q h) ST_OK 0 (fun v => tensorOf v p h.toNat = none
          ∧ ∀ k, k ≠ h.toNat → mapGet none v.tensors k = mapGet none u.tensors k))
    ∧ (∀ t, tensorOf u p h.toNat = some t → t.slot = none → t.cls ≠ 1 → ro.toNat ≤ 1 →
        CmdIs s q (.tensorExport q h ro) ST_OK n { u with
          acxHandles := mapSet none u.acxHandles n (some (h.toNat, ro == 1)), nextHandle := n + 1 })

/-- R98, R257, R319: WRITE puts the bytes given into the tensor's home and stamps it, and READ brings them to host memory;
each within the tensor, and each leaves every other byte of its memory as it is. While a step is open a WRITE also marks what
steps then read as open values. -/
def Obligations.tensor_data : Prop :=
  ∀ (q : QCmd) (h : BitVec 32) (off addr len : BitVec 64) (dma : Dma) (s : State) (t : Tensor),
    let u := qTake q.queue.toNat s
    let p := cmdPart q
    let a := t.home + off.toNat
    let write := Instr.tensorWrite q h 0 off addr len dma
    let read := Instr.tensorRead q h 0 off addr len dma
    tensorOf u p h.toNat = some t → t.slot = none →
    (t.cls = 1 ∨ t.size < off.toNat + len.toNat → CmdIs s q write ST_CMD_INVALID 0 u ∧ CmdIs s q read ST_CMD_INVALID 0 u)
    ∧ (t.cls ≠ 1 → t.flask = false → t.lost = false → off.toNat + len.toNat ≤ t.size → dma.ok = true →
        dma.data.length = len.toNat → 0 < len.toNat → inWins u p a len.toNat = true → mirrorsOf u = [] →
        CmdMoves s q write 0 (fun v => (∀ i < len.toNat, dramByte v (a + i) = dma.data.getD i 0)
          ∧ (∀ b, b < a ∨ a + len.toNat ≤ b → dramByte v b = dramByte u b)
          ∧ tensorOf v p h.toNat = some { t with stamp := s.now }
          ∧ v = { u with dram := v.dram, poison := v.poison, tensors := v.tensors, parts := v.parts }
          ∧ (stepIsOpen u = false → v.parts = u.parts))
        ∧ (u.dramErrs = [] → poisoned u a len.toNat = false →
          CmdMoves s q read 0 (fun v => (∀ i < len.toNat, mapGet 0 v.hostMem (addr.toNat + i) = dramByte u (a + i))
            ∧ (∀ b, b < addr.toNat ∨ addr.toNat + len.toNat ≤ b → mapGet 0 v.hostMem b = mapGet 0 u.hostMem b)
            ∧ v = { u with hostMem := v.hostMem, free := u.free + 1 })))
    ∧ (t.cls ≠ 1 → t.flask = true → t.lost = false → off.toNat + len.toNat ≤ t.size → dma.ok = true → 0 < len.toNat →
        dma.data.length = len.toNat →
        CmdMoves s q write 0 (fun v => v = updTensor h.toNat (fun t => { t with stamp := s.now })
            (flaskPut t.object off.toNat dma.data u))
          ∧ CmdMoves s q read 0 (fun v =>
              v = hostWrite addr.toNat ((List.range len.toNat).map (fun i => flaskByte u t.object (off.toNat + i))) u))

/-- R305, R307, R309, R311: a doorbell moves the tail that its queue reads up to, with the entries that the host wrote below
it, and the queue goes on; one of CQ_HEAD is kept; a value beyond the ring stops the queue with ST_QUEUE_ERROR. A doorbell of
a queue that is off does nothing, nor does one of a VF on a queue of another partition; a VF whose partition is gone gets
Unsupported Request. R308, R312: CMD_CFG opens a queue with the ring sizes and vector given, both rings empty, and belonging
to the function that wrote it; clearing EN closes it. Records that have waited 1 ms are discarded and the loss is marked. -/
def Obligations.queue_registers : Prop :=
  (∀ (f : Func) (q : BitVec 10) (v : BitVec 32) (l : List (BitVec 512)) (s : State),
    let n := q.toNat
    let sq := Instr.sqTail ⟨f, q⟩ ⟨v, l⟩
    let cq := Instr.cqHead ⟨f, q⟩ v
    let both := fun (t : State) => exec sq s = .next t ∧ exec cq s = .next t
    let reaches := f = .pf ∨ ∃ k : Fin 8, f = .vf k ∧ k.val = qPart n ∧ vfGone s k = false
    let stopped := fset (CMD_STATUS_ERR_CODE (qPart n) (qLocal n)) ST_QUEUE_ERROR
      (fset (CMD_STATUS_STOPPED (qPart n) (qLocal n)) 1 s)
    let size := 2 ^ fget s (CMD_CFG_SQ_LOG2 (qPart n) (qLocal n))
    (dieOn s = false → both s)
    ∧ (∀ k : Fin 8, f = .vf k → k.val ≠ qPart n → both s)
    ∧ (∀ k : Fin 8, dieOn s = true → f = .vf k → k.val = qPart n → vfGone s k = true → both (answerUr s))
    ∧ (reaches → qOpen s n = false → both s)
    ∧ (reaches → qOpen s n = true →
      (v.toNat < size → v.toNat = (qGet s n).sqTail → exec sq s = .next s)
      ∧ (v.toNat < size → (qGet s n).sqTail < size → v.toNat ≠ (qGet s n).sqTail →
          let k := (v.toNat + size - (qGet s n).sqTail) % size
          ∃ t, exec sq s = .next (qSkip 65536 n t) ∧ t = { s with queues := t.queues } ∧ (∀ m, m ≠ n → qGet t m = qGet s m)
            ∧ qGet t n = { qGet s n with sqTail := v.toNat, ring := (qGet t n).ring }
            ∧ (∀ i, i < k → i < l.length → mapGet 0 (qGet t n).ring (((qGet s n).sqTail + i) % size) = l.getD i 0)
            ∧ ∀ j, (∀ i, i < k → j ≠ ((qGet s n).sqTail + i) % size) → mapGet 0 (qGet t n).ring j = mapGet 0 (qGet s n).ring j)
      ∧ (size ≤ v.toNat → exec sq s = .next stopped)
      ∧ (cqSize s n ≤ v.toNat → exec cq s = .next stopped)
      ∧ (v.toNat < cqSize s n → v.toNat = (qGet s n).cqHead → exec cq s = .next s)
      ∧ (v.toNat < cqSize s n → v.toNat ≠ (qGet s n).cqHead → ∃ t, exec cq s = .next (qSkip 65536 n t)
          ∧ (qGet t n).cqHead = v.toNat ∧ (qGet t n).sqTail = (qGet s n).sqTail
          ∧ ((qGet s n).waiting = [] → t.hostMem = s.hostMem ∧ t.regs = s.regs)
          ∧ t.parts = s.parts ∧ t.reqs = s.reqs ∧ t.dram = s.dram)))
  ∧ (∀ (q : BitVec 10) (v : BitVec 32) (dt : Nat) (s : State),
    let n := q.toNat
    let p := qPart n
    let l := qLocal n
    (dieOn s = true → fget s (CMD_CFG_EN p l) = 0 → v.getLsbD 31 = true →
      4 ≤ fieldGet v.toNat 20 16 → fieldGet v.toNat 20 16 ≤ 16 → 4 ≤ fieldGet v.toNat 12 8 → fieldGet v.toNat 12 8 ≤ 16 →
      fget s (SEC_PART_STATE p) ≠ PART_FREE →
      ∃ t, exec (.cmdCfg .pf q v) s = .next t ∧ fget t (CMD_CFG_EN p l) = 1
        ∧ fget t (CMD_CFG_SQ_LOG2 p l) = fieldGet v.toNat 20 16 ∧ fget t (CMD_CFG_CQ_LOG2 p l) = fieldGet v.toNat 12 8
        ∧ fget t (CMD_CFG_VEC p l) = fieldGet v.toNat 7 0
        ∧ fget t (CMD_PTRS_SQ_HEAD p l) = 0 ∧ fget t (CMD_PTRS_CQ_TAIL p l) = 0
        ∧ qGet t n = queueReset ∧ (∀ k, k ≠ n → qGet t k = qGet s k)
        ∧ t = { s with regs := t.regs, queues := t.queues })
    ∧ (dieOn s = true → fget s (CMD_CFG_EN p l) = 1 → v.getLsbD 31 = false →
      ∃ t, exec (.cmdCfg .pf q v) s = .next t ∧ fget t (CMD_CFG_EN p l) = 0)
    ∧ (dieOn s = true → fget s (CMD_CFG_EN p l) = 1 → v.getLsbD 31 = true → exec (.cmdCfg .pf q v) s = .next s)
    ∧ (let s' := elapse dt s
      let stale := (qGet s n).waiting.filter (fun w => w.async && decide (1000000 ≤ since s' w.since))
      (stale = [] → exec (.asyncRecordDiscard dt q) s = .next s')
      ∧ (stale ≠ [] → ∃ t, exec (.asyncRecordDiscard dt q) s = .next t
        ∧ (qGet t n).waiting = (qGet s n).waiting.filter (fun w => !(w.async && decide (1000000 ≤ since s' w.since)))
        ∧ (qGet t n).lostNext = true ∧ fget t (CMD_STATUS_LOST p l) = 1
        ∧ Beside false false (statBump NET_STAT_CQ_LOST stale.length (fset (CMD_STATUS_LOST p l) 1
            (qUpd n (fun x => { x with waiting := x.waiting.filter (fun w => !(w.async && decide (1000000 ≤ since s' w.since))), lostNext := true }) s'))) t)))

/-! ### Event doorbell controller (R334 to R348) -/

/-- R334, R335, R490: an event raised while the die is up is logged with its unit and device time and sets the pending bit of
its block's source; beside the marks of events nothing changes. -/
def Obligations.event_signals_its_source : Prop :=
  ∀ (e : Ev) (unit : Nat) (s : State), dieOn s = true → bellBad (evSource e) = false →
    let t := raise e unit s
    edcBit t EDC_PEND (evSource e) = true ∧ (⟨e, unit, s.now⟩ : EvRec) ∈ t.events ∧ Beside false false s t
      ∧ (evAlerts e = true → t.power.alert = true)

/-- R335 to R337: a doorbell write of any writer sets the pending bit of the source that it names, or with WITHDRAW clears it;
one that names 0, 1023 or 17 to 63, or has a bit of [30:10] set, only sets BAD_DOORBELL; one of a writer of a partition on a
source that its partition does not own only sets FOREIGN and counts. -/
def Obligations.doorbells : Prop :=
  ∀ (a : Agent) (v : BitVec 32) (s : State), dieOn s = true →
    let n := fieldGet v.toNat 9 0
    let bad := n = 0 ∨ n = 1023 ∨ (17 ≤ n ∧ n ≤ 63) ∨ fieldGet v.toNat 30 10 ≠ 0
    (¬bad → (∀ k, bellOwner s a = some k → k = fget s (EDC_SRC_CFG_OWNER n)) →
      ∃ t, exec (.edcDoorbell a v) s = .next t ∧ edcBit t EDC_PEND n = !v.getLsbD 31
      ∧ (∀ m < 1024, m ≠ n → m ≠ 3 → edcBit t EDC_PEND m = edcBit s EDC_PEND m) ∧ Beside false false s t)
    ∧ (bad → exec (.edcDoorbell a v) s = .next (fset EDC_STATUS_BAD_DOORBELL 1 s))
    ∧ (¬bad → ∀ k, bellOwner s a = some k → k ≠ fget s (EDC_SRC_CFG_OWNER n) →
      ∃ t, exec (.edcDoorbell a v) s = .next t
      ∧ fget t EDC_STATUS_FOREIGN = 1 ∧ (∀ m < 1024, m ≠ 3 → edcBit t EDC_PEND m = edcBit s EDC_PEND m)
      ∧ Beside false false s t)

/-- R339, R340: the source that a claim takes is eligible, and no eligible source of the same context has a higher priority,
nor the same one and a lower number. R340, R341: a claim answers the winner's number, takes it from pending to active and
counts it; with nothing eligible it answers 1023 where the context had been notified, else 0; a completion ends it. -/
def Obligations.claim_and_complete : Prop :=
  (∀ (s : State) (c n : Nat), edcWinner (edcElig s) c = some n →
    n < 1024 ∧ edcEligible s n = true ∧ edcRoute s n = c
      ∧ ∀ m < 1024, edcEligible s m = true → edcRoute s m = c →
        fget s (EDC_SRC_CFG_PRIO m) < fget s (EDC_SRC_CFG_PRIO n)
          ∨ (fget s (EDC_SRC_CFG_PRIO m) = fget s (EDC_SRC_CFG_PRIO n) ∧ n ≤ m))
  ∧ (∀ (c : Fin 28) (v : BitVec 32) (s : State), dieOn s = true →
    (∀ n, edcWinner (edcElig s) c = some n → ∃ t, exec (.edcCtxClaim c) s = .next t
      ∧ t.out.head? = some (.readData (leBytes 4 n)) ∧ edcBit t EDC_PEND n = false ∧ edcBit t EDC_ACTIVE n = true
      ∧ mapGet 0 t.edcCtx n = c + 1
      ∧ fget t (EDC_CTX_STATUS_ACTIVE_COUNT c) = (fget s (EDC_CTX_STATUS_ACTIVE_COUNT c) + 1) % 2 ^ 10
      ∧ t.parts = s.parts ∧ t.reqs = s.reqs ∧ t.dram = s.dram ∧ t.events = s.events)
    ∧ (edcWinner (edcElig s) c = none → fget s (EDC_CTX_STATUS_NOTIFIED c) = 0 →
        exec (.edcCtxClaim c) s = .next { s with out := .readData (leBytes 4 0) :: s.out })
    ∧ (edcWinner (edcElig s) c = none → fget s (EDC_CTX_STATUS_NOTIFIED c) = 1 → ∃ t, exec (.edcCtxClaim c) s = .next t
        ∧ t.out.head? = some (.readData (leBytes 4 1023)))
    ∧ (let n := fieldGet v.toNat 9 0
      (mapGet 0 s.edcCtx n = c + 1 → ∃ t, exec (.edcCtxComplete c v) s = .next t ∧ edcBit t EDC_ACTIVE n = false
        ∧ mapGet 0 t.edcCtx n = 0
        ∧ fget t (EDC_CTX_STATUS_ACTIVE_COUNT c) = fget s (EDC_CTX_STATUS_ACTIVE_COUNT c) - 1
        ∧ (∀ m < 1024, edcBit t EDC_PEND m = edcBit s EDC_PEND m))
      ∧ (mapGet 0 s.edcCtx n ≠ c + 1 → exec (.edcCtxComplete c v) s = .next s)))

/-- R344, R348: the lock: a read by an agent takes it when it is free and answers GRANTED with the agent's code, else the
holder's code; only the holder's code written back releases it; held for more than 100 µs it is broken with its event. -/
def Obligations.edc_lock : Prop :=
  ∀ (a : Agent) (v : BitVec 32) (dt : Nat) (s : State), dieOn s = true →
    let own := fget s EDC_LOCK_OWNER
    (lockCode a ≠ 0 →
      (own = 0 → exec (.edcLock a none) s = .next { fset EDC_LOCK_OWNER (lockCode a) s with
          edcLockAt := s.now, out := .readData (leBytes 4 (2 ^ 31 + lockCode a)) :: s.out })
      ∧ (own ≠ 0 → exec (.edcLock a none) s = .next { s with out := .readData (leBytes 4 own) :: s.out })
      ∧ (own ≠ 0 → v.toNat % 8 = own → exec (.edcLock a (some v)) s = .next (fset EDC_LOCK_OWNER 0 s))
      ∧ (own = 0 ∨ v.toNat % 8 ≠ own → exec (.edcLock a (some v)) s = .next s))
    ∧ (own ≠ 0 → 100000 < since (elapse dt s) s.edcLockAt → ∃ t, exec (.evEdcLockBreak dt) s = .next t
        ∧ (⟨.edcLockBreak, 0, (elapse dt s).now⟩ : EvRec) ∈ t.events ∧ fget t EDC_LOCK_OWNER = 0
        ∧ Beside false false (statBump EDC_STAT_LOCK_BREAK 1 (fset EDC_LOCK_OWNER 0 (elapse dt s))) t)

/-! ### RDMA (R317, R325 to R327, R330) -/

/-- R317, R327: queue pairs: QP_CREATE takes the first number of the partition's range that names none; QP_MODIFY moves RESET
to INIT to RTR to RTS with the attributes of each, to RESET and to ERROR from anywhere, and refuses every other transition;
QP_DESTROY frees the number. A number that is not the partition's is refused. (Which number is taken is log 35.) R317: MR_REG
makes a memory region of a tensor with the access bits given, MR_DEREG ends it; nothing else changes. -/
def Obligations.queue_pairs_and_regions : Prop :=
  (∀ (q : QCmd) (port : BitVec 8) (m : QpModifyOps) (n : BitVec 16) (s : State),
    let u := qTake q.queue.toNat s
    let p := cmdPart q
    let base := fget u (NET_PART_W3_QP_BASE p)
    let count := fget u (NET_PART_W3_QP_COUNT p)
    (4 ≤ port.toNat → CmdIs s q (.qpCreate q port) ST_CMD_INVALID 0 u)
    ∧ (∀ k, port.toNat < 4 → base ≤ k → k < base + count → k < 1024 → mapGet none u.qps k = none →
        (∀ j, base ≤ j → j < k → mapGet none u.qps j ≠ none) →
        CmdIs s q (.qpCreate q port) ST_OK k { u with qps := mapSet none u.qps k (some (qpNew p port.toNat)) })
    ∧ (qpOf u p m.qp.toNat = none → CmdIs s q (.qpModify q m) ST_HANDLE_INVALID 0 u)
    ∧ (qpOf u p n.toNat = none → CmdIs s q (.qpDestroy q n) ST_HANDLE_INVALID 0 u)
    ∧ (∀ x, qpOf u p m.qp.toNat = some x →
        let ans := fun y => CmdIs s q (.qpModify q m) ST_OK 0 { u with qps := mapSet none u.qps m.qp.toNat (some y) }
        (m.state = 1 → x.state = QP_RESET → ans { x with state := QP_INIT })
        ∧ (m.state = 2 → x.state = QP_INIT → 3 ≤ m.mtu.toNat → m.mtu.toNat ≤ 5 → ans { x with
            state := QP_RTR, mtu := m.mtu.toNat, remoteQp := m.remoteQp.toNat % 2 ^ 24, recvPsn := m.recvPsn.toNat % 2 ^ 24
            gid := m.gid, tclass := m.tclass.toNat })
        ∧ (m.state = 3 → x.state = QP_RTR →
            ans { x with state := QP_RTS, sendPsn := m.sendPsn.toNat % 2 ^ 24 })
        ∧ (m.state = 0 → CmdGives s q (.qpModify q m) ST_OK 0 (fun v => ∃ y, mapGet none v.qps m.qp.toNat = some y
            ∧ y.state = QP_RESET ∧ y.sends = [] ∧ y.recvs = []))
        ∧ (m.state = 4 → x.state ≠ QP_ERROR → CmdGives s q (.qpModify q m) ST_OK 0 (fun v => ∃ y,
            mapGet none v.qps m.qp.toNat = some y ∧ y.state = QP_ERROR ∧ y.sends = [] ∧ y.recvs = []
            ∧ (⟨.qpError, m.qp.toNat, s.now⟩ : EvRec) ∈ v.events))
        ∧ ((m.state = 1 ∧ x.state ≠ QP_RESET) ∨ (m.state = 2 ∧ x.state ≠ QP_INIT) ∨ (m.state = 3 ∧ x.state ≠ QP_RTR)
            ∨ 4 < m.state.toNat → CmdIs s q (.qpModify q m) ST_CMD_INVALID 0 u))
    ∧ (∀ x, qpOf u p n.toNat = some x → CmdGives s q (.qpDestroy q n) ST_OK 0 (fun v =>
        mapGet none v.qps n.toNat = none ∧ ∀ k, k ≠ n.toNat → mapGet none v.qps k = mapGet none u.qps k)))
  ∧ (∀ (q : QCmd) (h rkey : BitVec 32) (acc : BitVec 8) (s : State),
    let u := qTake q.queue.toNat s
    let p := cmdPart q
    (∀ t, acc.toNat ≤ 3 → tensorOf u p h.toNat = some t → t.slot = none → t.cls ≠ 1 →
        CmdIs s q (.mrReg q h acc) ST_OK u.nextHandle { u with
          mrs := mapSet none u.mrs u.nextHandle (some { part := p, handle := h.toNat, read := acc.getLsbD 0, write := acc.getLsbD 1 })
          nextHandle := u.nextHandle + 1 })
    ∧ (acc.toNat ≤ 3 → tensorOf u p h.toNat = none → CmdIs s q (.mrReg q h acc) ST_HANDLE_INVALID 0 u)
    ∧ (∀ m, mapGet none u.mrs rkey.toNat = some m → m.part = p →
        CmdIs s q (.mrDereg q rkey) ST_OK 0 { u with mrs := mapSet none u.mrs rkey.toNat none })
    ∧ ((∀ m, mapGet none u.mrs rkey.toNat = some m → m.part ≠ p) →
        CmdIs s q (.mrDereg q rkey) ST_HANDLE_INVALID 0 u))

/-- R325 to R327: POST_SEND on a queue pair in RTS posts the send with the PSNs that its packets take, and its completion
waits for the acknowledgement; POST_RECV adds a buffer. -/
def Obligations.posts : Prop :=
  ∀ (q : QCmd) (x : PostSendOps) (n : BitVec 16) (h : BitVec 32) (off len : BitVec 64) (s : State) (y : Qp) (t : Tensor),
    let u := qTake q.queue.toNat s
    let p := cmdPart q
    (qpOf u p x.qp.toNat = some y → y.state = QP_RTS → mode u ≠ MODE_SAFE → mode u ≠ MODE_FENCED → x.pad = 0 → x.op.toNat ≤ 4 →
      0 < x.len.toNat → x.len.toNat ≤ 2 ^ 31 → tensorOf u p x.handle.toNat = some t → t.slot = none → t.cls ≠ 1 → t.lost = false →
      x.off.toNat + x.len.toNat ≤ t.size →
      cmdMeets s q (.postSend q x) = true → q.resv = false →
      ∃ v z w, exec (.postSend q x) s = .next (qSkip 65536 q.queue.toNat v) ∧ mapGet none v.qps x.qp.toNat = some z
        ∧ z.sendPsn = (y.sendPsn + max 1 ((x.len.toNat + qpMtu y - 1) / qpMtu y)) % 2 ^ 24
        ∧ z.sends.map Posted.no = y.sends.map Posted.no ++ [u.postNo] ∧ w ∈ z.sends ∧ w.no = u.postNo
        ∧ (qGet v q.queue.toNat).order = (qGet u q.queue.toNat).order ++ [(u.postNo, none)] ∧ v.postNo = u.postNo + 1
        ∧ v.tensors = u.tensors)
    ∧ (qpOf u p n.toNat = some y → y.state ≠ QP_ERROR → y.state ≠ QP_RESET → tensorOf u p h.toNat = some t → t.slot = none →
      t.cls ≠ 1 → off.toNat + len.toNat ≤ t.size →
      CmdIs s q (.postRecv q n 0 h off len) ST_OK 0 (qpUpd n.toNat (fun z =>
        { z with recvs := z.recvs ++ [{ handle := h.toNat, off := off.toNat, len := len.toNat }] }) u))

/-- R322, R326, R330: a datagram that no row of the steering table takes is dropped and counted, and so is one for the RoCEv2
engine with a wrong ICRC or for no queue pair of its partition; one in its order that carries a whole SEND message puts its
bytes into the oldest receive buffer, takes the buffer, moves the expected PSN on by 1 and is acknowledged; one out of order
is answered by a sequence error and leaves the queue pair; an acknowledgement ends the sends that it covers. R325: the oldest
send that has waited its time goes out again and is counted, until the last retry puts the queue pair in ERROR; a rate below
the full one recovers by 5 % every 55 µs, never beyond. -/
def Obligations.roce_traffic : Prop :=
  (∀ (dt : Nat) (port : Fin 4) (x : RocePkt) (s : State),
    let s' := elapse dt s
    let n := x.qp.toNat
    let c := Instr.rocePacket dt port x
    let gone := fun (stat : Nat) => ∃ t, exec c s = .next t ∧ fget t NET_STATUS_ETH_DROP = 1
      ∧ Beside false false (fset NET_STATUS_ETH_DROP 1 (statBump stat 1 s')) t
    portUp s' port = true → portsServe s' = true →
    (roceTo s' port x.addr = none → noRow s' port x.addr = true → gone NET_STAT_NO_MATCH)
    ∧ (roceTo s' port x.addr = none → noRow s' port x.addr = false → exec c s = .next s')
    ∧ ∀ m, roceTo s' port x.addr = some m →
      (x.icrcOk = false → gone NET_STAT_ICRC)
      ∧ (x.icrcOk = true → (∀ y, mapGet none s.qps n = some y → qpTakes y m port x = false) → gone NET_STAT_ROCE_BAD)
      ∧ ∀ y, x.icrcOk = true → mapGet none s.qps n = some y → qpTakes y m port x = true → x.valid = true →
        (∀ b rest t, x.op = 0 → x.psn.toNat = y.recvPsn → y.recvs = b :: rest → y.got = 0 → y.wr = none → x.first = true →
          x.last = true → 0 < x.data.length → x.data.length ≤ b.len → tensorOf s y.part b.handle = some t → t.flask = false →
          inWins s' y.part (t.home + b.off) x.data.length = true →
          ringsOk s → (∀ i < x.data.length, inFwCopy (t.home + b.off + i) = false) →
          ∃ t' z, exec c s = .next t' ∧ mapGet none t'.qps n = some z
            ∧ z.recvPsn = (y.recvPsn + 1) % 2 ^ 24 ∧ z.recvs = rest ∧ z.got = 0 ∧ z.sends = y.sends ∧ z.state = y.state
            ∧ (∀ i < x.data.length, dramByte t' (t.home + b.off + i) = x.data.getD i 0)
            ∧ ∀ a, inFwCopy a = false → (a < t.home + b.off ∨ t.home + b.off + x.data.length ≤ a) → dramByte t' a = dramByte s a)
        ∧ (x.op = 0 → x.psn.toNat ≠ y.recvPsn → serialBefore 24 x.psn.toNat y.recvPsn = false →
          ∃ t', exec c s = .next t' ∧ t'.qps = s.qps ∧ t'.tensors = s.tensors)
        ∧ (x.op = 4 → ∃ t' z, exec c s = .next t' ∧ mapGet none t'.qps n = some z ∧ z.recvs = y.recvs
          ∧ z.sends.map Posted.no = (y.sends.filter (fun k =>
              !((underWay 16 y.sends).filter (covered x.psn.toNat)).any (fun a => a.no == k.no))).map Posted.no))
  ∧ (∀ (dt : Nat) (qp : BitVec 10) (s : State) (y : Qp),
    let s' := elapse dt s
    let n := qp.toNat
    mapGet none s.qps n = some y →
    (∀ x rest, y.sends = x :: rest → y.state = QP_RTS → (if x.rnr then 655000 else 67108864) ≤ since s' x.sentAt →
      (7 ≤ (if x.rnr then x.rnrRetries else x.retries) → ∃ t z, exec (.roceRetransmitTimeout dt qp) s = .next t
        ∧ mapGet none t.qps n = some z ∧ z.state = QP_ERROR ∧ z.sends = [])
      ∧ ((if x.rnr then x.rnrRetries else x.retries) < 7 → ∃ t z, exec (.roceRetransmitTimeout dt qp) s = .next t
        ∧ mapGet none t.qps n = some z ∧ z.state = QP_RTS ∧ z.sends.map Posted.no = y.sends.map Posted.no
        ∧ z.sendPsn = y.sendPsn ∧ z.recvs = y.recvs))
    ∧ (y.rate < rateFull → 55000 ≤ since s' y.rateAt → exec (.cnpRateRecovery dt qp) s = .next { s' with
        qps := mapSet none s.qps n (some { y with rate := min rateFull (y.rate + 5 * 2 ^ 32), rateAt := s'.now }) })
    ∧ (rateFull ≤ y.rate → exec (.cnpRateRecovery dt qp) s = .next s'))

/-! ### Identity and keys (R417 to R422) -/

/-- R419, R420, R422: QUOTE writes the quote and its signature to host memory; CERT the certificate chain; KEY_IMPORT takes
the key that the message decrypts to, or refuses one that does not decode; KEY_DELETE clears the slot. None of them changes
anything else; each says first what it refuses. (The keys and the chain are constants without a value, log 15.) -/
def Obligations.identity_commands : Prop :=
  ∀ (q : QCmd) (nonce : BitVec 256) (addr len : BitVec 64) (part slot : BitVec 8) (dma : Dma) (s : State),
    let u := qTake q.queue.toNat s
    let i := slot.toNat
    let quote := Instr.secQuote q nonce addr len part dma
    let cert := Instr.secCert q addr len dma
    let imp := Instr.keyImport q slot 0 addr dma
    let del := Instr.keyDelete q slot
    let only := fun (v : State) => (∀ j < 64, j ≠ i → (regGet v SEC_KEYS).testBit j = (regGet u SEC_KEYS).testBit j)
      ∧ (∀ j, j ≠ i → mapGet none v.wrapped j = mapGet none u.wrapped j)
      ∧ v.tensors = u.tensors ∧ v.parts = u.parts ∧ v.hostMem = u.hostMem
    (windowOpen s = true → exec quote s = .next s)
    ∧ (windowOpen s = false → quotePart q part u < 8 → s.idReady = false → CmdIs s q quote ST_ID_UNAVAILABLE 0 u)
    ∧ (windowOpen s = false → quotePart q part u < 8 → s.idReady = true → dma.ok = true →
        832 + 72 * (quoteList u (quotePart q part u)).length ≤ len.toNat →
        let m := quoteBody u (quotePart q part u) nonce
        CmdMoves s q quote 0 (fun v => v.hostMem = cellsPut (m ++ idSign u m) addr.toNat u.hostMem
          ∧ Beside false true (statBump SEC_STAT_QUOTES 1 u) v))
    ∧ (len.toNat < 16384 → CmdIs s q cert ST_CMD_INVALID 0 u)
    ∧ (16384 ≤ len.toNat → dma.ok = true → ∃ k, k ≤ 16384 ∧ CmdMoves s q cert k (fun v => v = { u with hostMem := v.hostMem }
        ∧ (∀ b < k, mapGet 0 v.hostMem (addr.toNat + b) = BitVec.ofNat 8 (Config.certByte b))
        ∧ ∀ b, b < addr.toNat ∨ addr.toNat + k ≤ b → mapGet 0 v.hostMem b = mapGet 0 u.hostMem b))
    ∧ (fromVf q u = false → i < 64 → s.idReady = true → (regGet u SEC_KEYS).testBit i = false → dma.ok = true →
        match oaepDecode (beBytes 512 (Config.rsaPrivate 1 (ofBe dma.data))) with
        | none => CmdIs s q imp ST_KEY_SLOT 0 u
        | some k => CmdMoves s q imp 0 (fun v => (regGet v SEC_KEYS).testBit i = true
            ∧ mapGet none v.wrapped i = some (beBytes 72 (Config.keyWrap (ofBe k))) ∧ only v))
    ∧ (fromVf q u = false → i < 64 → (regGet u SEC_KEYS).testBit i = true →
        CmdIs s q imp (if s.idReady then ST_KEY_SLOT else ST_ID_UNAVAILABLE) 0 u
        ∧ CmdGives s q del ST_OK 0 (fun v => (regGet v SEC_KEYS).testBit i = false ∧ mapGet none v.wrapped i = none ∧ only v))
    ∧ (fromVf q u = false → i < 64 → (regGet u SEC_KEYS).testBit i = false → CmdIs s q del ST_KEY_SLOT 0 u)
    ∧ (fromVf q u = true → CmdIs s q imp ST_KEY_SLOT 0 u ∧ CmdIs s q del ST_KEY_SLOT 0 u)

/-! ### Codec complex (R273 to R299) -/

/-- R275, R276, R281, R290, R291, R298, R299: enabling a slot stores its settings; a refused one shows CFG_REJECT with its
reason and stays IDLE; an accepted one is ARMED, with its memory piece by piece in the partition's windows, all its buffers
FREE, and its stable handle in LATEST. An enable of an enabled slot is ignored, a disable takes it to IDLE. A submission joins
the slot's list and is refused beside one that is in coding and one that waits; a release makes a READY buffer that no step
holds FREE, and the slot shows it; LATEST answers the alias handle. -/
def Obligations.codec_slots : Prop :=
  ∀ (i : Fin 64) (v : BitVec 64) (h : BitVec 32) (q : QCmd) (stamp : BitVec 64) (s : State), dieOn s = true →
    let u := qTake q.queue.toNat s
    let slot := BitVec.ofNat 16 i
    let joined := fun (st : Stamp) => slotUpd i (fun x => { x with subs := x.subs ++ [(h.toNat, st)] })
    let starts := fun (v r : State) => fget r (VCC_SLOT_CFG_STATE i)
      = (if fget v (VCC_SLOT_CFG_STATE i) = 1 then 2 else fget v (VCC_SLOT_CFG_STATE i))
    let s1 := regSet (VCC_SLOT_CFG i) (mergeBits (regGet s (VCC_SLOT_CFG i)) (2 ^ 60 - 2 ^ 45 + (2 ^ 43 - 2 ^ 28)) (setBit v.toNat 60 true)) s
    let ends := Instr.slotDisable i v
    (fbit s (VCC_SLOT_CFG_EN i) = false →
      (∀ k, enableRefused s1 i = some k → ∃ t, exec (.slotEnable i v) s = .next t
        ∧ fget t VCC_STATUS_CFG_REJECT = 1 ∧ fget t VCC_STATUS_REJECT_REASON = k ∧ fget t (VCC_SLOT_CFG_EN i) = 0
        ∧ fget t (VCC_SLOT_CFG_STATE i) = 0 ∧ t.slots = s.slots ∧ t.tensors = s.tensors ∧ t.nextHandle = s.nextHandle)
      ∧ (enableRefused s1 i = none → ∃ t places, exec (.slotEnable i v) s = .next t ∧ slotPlaces s1 i = some places
        ∧ places.map Prod.snd = slotPieces s1 i
        ∧ fget t (VCC_SLOT_CFG_EN i) = 1 ∧ fget t (VCC_SLOT_CFG_STATE i) = 1
        ∧ fget t (VCC_SLOT_LATEST_ALIAS i) = s.nextHandle % 2 ^ 32 ∧ (slotGet t i).latest = s.nextHandle
        ∧ (slotGet t i).bufs.length = bufCount s1 i ∧ (∀ b ∈ (slotGet t i).bufs, b.state = BUF_FREE)
        ∧ (slotGet t i).mem = places.filter (fun m => m.2 != 0)
        ∧ (slotGet t i).refs = (places.take (refCount s1 i)).map Prod.fst ∧ t.nextHandle = s.nextHandle + 1
        ∧ ∀ j, j ≠ i.val → slotGet t j = slotGet s j))
    ∧ (fbit s (VCC_SLOT_CFG_EN i) = true → exec (.slotEnable i v) s = .next s
      ∧ ∃ t, exec ends s = .next t ∧ fget t (VCC_SLOT_CFG_EN i) = 0 ∧ fget t (VCC_SLOT_CFG_STATE i) = 0
        ∧ fget t (VCC_SLOT_CFG_LOAD i) = 0 ∧ ∀ j, j ≠ i.val → slotGet t j = slotGet s j)
    ∧ (fbit s (VCC_SLOT_CFG_EN i) = false → ∃ t, exec ends s = .next t ∧ fget t (VCC_SLOT_CFG_EN i) = 0
        ∧ fget t (VCC_SLOT_CFG_NBUF_M1 i) = fieldGet v.toNat 42 40 ∧ t.slots = s.slots ∧ t.tensors = s.tensors)
    ∧ (∀ b, (bufList (slotGet s i)).find? (fun b => b.1.handle == h.toNat && h.toNat != 0) = some b →
        fbit s (VCC_SLOT_CFG_EXPLICIT i) = true → b.1.state = BUF_READY → bufHeld s i b.2 = false →
        let freed := slotUpd i (bufUpd b.2 (fun y => { y with state := BUF_FREE })) s
        exec (.vccSlotRelease i h) s = .next (slotShow i freed)
          ∧ fget (slotShow i freed) (VCC_SLOT_CFG_STATE i)
            = (if fget s (VCC_SLOT_CFG_STATE i) = 3 then 2 else fget s (VCC_SLOT_CFG_STATE i))
          ∧ (slotGet freed i).bufs[b.2]? = some { b.1 with state := BUF_FREE }
          ∧ ∀ k, k ≠ b.2 → (slotGet freed i).bufs[k]? = (slotGet s i).bufs[k]?)
    ∧ (∀ t, slotRuns s i KIND_ENCODE = true → tensorOf s (slotPart s i) h.toNat = some t → submitFits s i t = true →
        ((slotGet s i).subs.length < 2 → ∃ r, exec (.vccSlotSubmit i h) s = .next r ∧ starts s r
          ∧ r = { joined (slotGet s i).subStamp s with regs := r.regs })
        ∧ (2 ≤ (slotGet s i).subs.length → ∃ r, exec (.vccSlotSubmit i h) s = .next r
          ∧ Beside false false (statBump VCC_STAT_MALFORMED 1 s) r))
    ∧ (slotOwn u (cmdPart q) i = true →
        CmdIs s q (.vccLatest q slot) ST_OK (fget u (VCC_SLOT_LATEST_ALIAS i)) u
        ∧ ((slotGet u i).bufs.any (fun b => b.handle == h.toNat && h != 0) = true →
            CmdIs s q (.vccReleaseFrame q slot 0 h) ST_OK 0 (bufRelease i h.toNat u))
        ∧ ∀ t, slotRuns u i KIND_ENCODE = true → tensorOf u (slotPart u i) h.toNat = some t → submitFits u i t = true →
            (slotGet u i).subs.length < 2 →
            CmdGives s q (.vccSubmit q slot 0 h stamp) ST_OK 0 (fun r => starts u r
              ∧ r = { joined stamp u with regs := r.regs }))
    ∧ (slotOwn u (cmdPart q) i = false → CmdIs s q (.vccLatest q slot) ST_HANDLE_INVALID 0 u
        ∧ CmdIs s q (.vccReleaseFrame q slot 0 h) ST_HANDLE_INVALID 0 u
        ∧ CmdIs s q (.vccSubmit q slot 0 h stamp) ST_HANDLE_INVALID 0 u)

/-- R244, R284 to R286, R322: a datagram goes to the slot that its address and UDP port name, with a trace record, and to no
partition else; one of another payload type is MALFORMED. A packet takes its place in the frame of its timestamp, or begins
it, and marks the frames before it; one of a frame that has committed is LATE. A sender report is kept with its arrival. A
frame is complete once REORDER_MS or two frame periods have passed for it. R281, R282, R285, R289, R291, R292, R297:
FRAME_COMMIT, of a complete frame before which none is incomplete, and SENSOR_GROUP_COMMIT give it the buffer that is being
written, or a FREE one, with a fresh handle, or drop it where the slot has none; before the first IRAP picture a frame is
discarded. A slice ends where its settings end it, goes to the bitstream ring, and the frame in coding goes on by its CTUs;
with a frame's first slice the oldest submission begins to be coded. -/
def Obligations.codec_streams : Prop :=
  (∀ (i : Fin 64) (port : Fin 4) (pkt : RtpPkt) (ntp : BitVec 64) (dt : Nat) (s : State),
    let u := elapse dt s
    let m := traceFree 0x12 (slotPart u i) 9 u
    let x := slotGet u i
    let e := extendTs x.lastExt pkt.ts.toNat
    let took := fun (x : Slot) => { x with lastExt := some e.1, lastPkt := u.now }
    let place := fun (f : FrameAsm) => if f.ext = e.1 then asmAdd (isH265 u i) pkt f
      else if f.ext < e.1 then { f with laterAt := some (f.laterAt.getD u.now) } else f
    let c := Instr.rtpPacket dt port pkt
    (portUp u port = true → portsServe u = true →
      (slotTo u port pkt.addr pkt.udp = none → noRow u port pkt.addr = true → ∃ t, exec c s = .next t
        ∧ fget t NET_STATUS_ETH_DROP = 1
        ∧ Beside false false (fset NET_STATUS_ETH_DROP 1 (statBump NET_STAT_NO_MATCH 1 u)) t)
      ∧ (slotTo u port pkt.addr pkt.udp = some i.val → slotRuns u i KIND_DECODE = true →
        (pkt.pt.toNat ≠ fget u (VCC_SLOT_NET_PT i) → ∃ t, exec c s = .next t
          ∧ Beside false false (statBump VCC_STAT_MALFORMED 1 u) t)
        ∧ (pkt.pt.toNat = fget u (VCC_SLOT_NET_PT i) → x.ssrc = some pkt.ssrc.toNat → e.2 = false →
          ((∃ y ∈ x.ends, y.1 = e.1) → ∃ t, exec c s = .next t
            ∧ Beside false false (statBump VCC_STAT_LATE 1 (bufAhead i (slotUpd i took m))) t)
          ∧ ((∀ y ∈ x.ends, y.1 ≠ e.1) → (∃ f ∈ x.frames, f.ext = e.1) → exec c s
            = .next (bufAhead i (slotUpd i (fun x => asmSettle { took x with frames := x.frames.map place }) m)))
          ∧ ((∀ y ∈ x.ends, y.1 < e.1) → (∀ f ∈ x.frames, f.ext < e.1) → ∃ t,
            exec c s = .next t ∧ (slotGet t i).frames.length = x.frames.length + 1
            ∧ (∃ f ∈ (slotGet t i).frames, f.ext = e.1 ∧ f.firstAt = u.now ∧ f.pkts = [(pkt.seq.toNat, pkt.data)])
            ∧ (∀ f ∈ (slotGet t i).frames, f.ext ≠ e.1 → f.laterAt ≠ none)
            ∧ ∀ j, j ≠ i.val → slotGet t j = slotGet u j))))
    ∧ (slotRuns u i KIND_DECODE = true → slotReached u i = true → x.ssrc = some pkt.ssrc.toNat → x.lastExt ≠ none →
        exec (.rtcpSenderReport dt i pkt.ssrc ntp pkt.ts) s
          = .next (slotUpd i (fun x => { x with sr := some (x.epoch, ntpNs ntp, e.1, u.now) }) u))
    ∧ (slotRuns u i KIND_DECODE = true → ∃ t, exec (.frameCompleteTimeout dt i) s = .next t
        ∧ (slotGet t i).frames = x.frames.map (fun f =>
          if f.done = true then f
          else if ∃ a, f.laterAt = some a ∧ reorderNs u i ≤ since u a then
            { f with done := true, gap := !asmWhole x f, timeout := false }
          else if twoPeriods u i ≤ since u f.firstAt then { f with done := true, gap := !asmWhole x f, timeout := true }
          else f)
        ∧ t = { u with slots := t.slots, regs := t.regs } ∧ ∀ j, j ≠ i.val → slotGet t j = slotGet u j))
  ∧ (∀ (i : Fin 64) (d : Decoded) (sl : SliceOut) (dt : Nat) (s : State),
    let u := elapse dt s
    let x := slotGet u i
    let total := ctuCols u i * ctuRows u i
    let commits := fun (c : Instr) (gone : Slot → Prop) =>
      (∀ k b, bufOpen u i = some k → x.bufs[k]? = some b → ∃ t b', exec c s = .next t
        ∧ (slotGet t i).bufs[k]? = some b' ∧ b'.handle = u.nextHandle ∧ b'.home = b.home ∧ b'.seq = x.seq
        ∧ (fbit u (VCC_SLOT_CFG_EXPLICIT i) = true → b'.state = BUF_READY)
        ∧ (mapGet none t.tensors u.nextHandle).map Tensor.home = some b.home
        ∧ (slotGet t i).seq = (x.seq + 1) % 2 ^ 24 ∧ gone (slotGet t i))
      ∧ (bufPick u i = none → ∃ t, exec c s = .next t ∧ (slotGet t i).bufs = x.bufs
        ∧ (⟨.vccDrop, i.val, u.now⟩ : EvRec) ∈ t.events
        ∧ (slotGet t i).seq = (x.seq + 1) % 2 ^ 24 ∧ gone (slotGet t i))
    (slotRuns u i KIND_DECODE = true → ∀ f, (committable x)[d.order]? = some f →
      let gone := fun (y : Slot) => y.frames = x.frames.filter (fun g => g.ext != f.ext)
      (fbit u (VCC_SLOT_STATUS_IRAP_SEEN i) = true ∨ f.starts = true ∨ d.irap = true →
        commits (.frameCommit dt i d) gone)
      ∧ (fbit u (VCC_SLOT_STATUS_IRAP_SEEN i) = false → f.starts = false → d.irap = false → ∃ t,
        exec (.frameCommit dt i d) s = .next t ∧ t.tensors = u.tensors ∧ (slotGet t i).seq = x.seq ∧ gone (slotGet t i)))
    ∧ (slotRuns u i KIND_SENSOR = true → x.waiting = [] → ∀ f rest, x.ready = f :: rest →
        commits (.sensorGroupCommit dt i) (fun y => y.ready = rest))
    ∧ (slotRuns u i KIND_ENCODE = true → fbit u (VCC_SLOT_NET_TX i) = false →
      (∀ c, x.coding = some c →
        (sliceOk u i c sl = true → ∃ t, exec (.sliceEmit dt i sl) s = .next t
          ∧ (slotGet t i).bitstream = x.bitstream ++ [sl.data] ∧ (slotGet t i).subs = x.subs
          ∧ (slotGet t i).coding.map Coding.coded = (if c.coded + sl.ctus = total then none else some (c.coded + sl.ctus))
          ∧ t.tensors = u.tensors)
        ∧ (sliceOk u i c sl = false → exec (.sliceEmit dt i sl) s = .next u))
      ∧ (∀ n us y, x.coding = none → x.subs = n :: us → tensorOf u (slotPart u i) n.1 = some y →
        sliceOk u i { handle := n.1, stamp := n.2, source := [], coded := 0, window := none, loaded := 0 } sl = true →
        ∃ t, exec (.sliceEmit dt i sl) s = .next t
          ∧ (slotGet t i).bitstream = x.bitstream ++ [sl.data] ∧ (slotGet t i).subs = us
          ∧ (slotGet t i).coding.map Coding.coded = (if sl.ctus = total then none else some sl.ctus))))

/-! ### Power and boot (R10 to R12, R369, R395, R430 to R435, R445, R476 to R480) -/

/-- R12, R476 to R478, R483: auxiliary power takes the module from OFF to STANDBY with device time 0 and its straps, and to
OFF at once; the main rails up with both contacts lead to BOOT (or, with no image, RECOVERY); a contact lost or a rail fault
takes the die back to STANDBY, with DRAM and programs gone, while Flask and host memory stay. A contact acts when its level
has stood for 1 ms. -/
def Obligations.power_domains : Prop :=
  ∀ (dt stood lasted : Nat) (straps : BitVec 5) (level : Bool) (s : State),
    let u := elapse dt s
    let down := fun (c : Instr) (f : Fld) (v : Nat) => ∃ t, exec c s = .next t ∧ mode t = MODE_STANDBY ∧ fget t f = v
      ∧ t.dram = [] ∧ t.parts = [] ∧ t.tensors = [] ∧ t.reqs = [] ∧ t.queues = [] ∧ t.wrapped = [] ∧ t.idReady = false
      ∧ t.flaskMem = u.flaskMem ∧ t.hostMem = u.hostMem ∧ t.now = u.now
    (mode u = MODE_OFF → exec (.auxStop dt) s = .next u ∧ ∃ t, exec (.auxStart dt straps) s = .next t ∧ mode t = MODE_STANDBY
        ∧ t.now = 0 ∧ fget t GEN_SLOT_SLOT_ID = straps.toNat ∧ (⟨.stateChange, MODE_STANDBY, 0⟩ : EvRec) ∈ t.events
        ∧ t.flaskMem = u.flaskMem ∧ t.dram = [])
    ∧ (mode u ≠ MODE_OFF → exec (.auxStart dt straps) s = .next u ∧ ∃ t, exec (.auxStop dt) s = .next t ∧ mode t = MODE_OFF
        ∧ fget t GEN_STATE_PREV = mode u ∧ t.events = u.events ∧ t.jArea0 = u.jArea0 ∧ t.jArea1 = u.jArea1
        ∧ t.jGathered = [] ∧ t.flaskMem = u.flaskMem ∧ t.hostMem = u.hostMem ∧ t.dram = [] ∧ t.parts = [])
    ∧ (contactNew u GEN_SLOT_PWR_EN level stood = false → exec (.pwrEn dt level stood) s = .next u)
    ∧ (contactNew u GEN_SLOT_TRAY_PRESENT level stood = false → exec (.trayPresent dt level stood) s = .next u)
    ∧ (contactNew u GEN_SLOT_PWR_EN true stood = true → ∃ t, exec (.pwrEn dt true stood) s = .next t
        ∧ fget t GEN_SLOT_PWR_EN = 1 ∧ mode t = mode u
        ∧ t.power.railLatch = (u.power.railLatch &&
            !(u.power.railOffSeen && decide (100000000 ≤ (stoodAt u stood - u.power.railOffAt).toNat)))
        ∧ t.dram = u.dram ∧ t.parts = u.parts)
    ∧ (contactNew u GEN_SLOT_TRAY_PRESENT true stood = true →
        exec (.trayPresent dt true stood) s = .next (fset GEN_SLOT_TRAY_PRESENT 1 u))
    ∧ (contactNew u GEN_SLOT_PWR_EN false stood = true → dieOn u = true → down (.pwrEn dt false stood) GEN_SLOT_PWR_EN 0)
    ∧ (contactNew u GEN_SLOT_TRAY_PRESENT false stood = true → dieOn u = true →
        down (.trayPresent dt false stood) GEN_SLOT_TRAY_PRESENT 0)
    ∧ (dieOn u = true → 100000 ≤ lasted → down (.railFault dt lasted) GEN_SLOT_RAIL_FAULT 1)
    ∧ (mode u = MODE_STANDBY → contactsOn u = true → ∃ t, exec (.mainPowerUp dt) s = .next t
        ∧ (mode t = MODE_BOOT ∨ mode t = MODE_RECOVERY) ∧ t.power.upAt = u.now)
    ∧ (mode u = MODE_SAFE → contactsOn u = true → ∃ t, exec (.moduleRestart dt) s = .next t
        ∧ (mode t = MODE_BOOT ∨ mode t = MODE_RECOVERY) ∧ t.power.upAt = u.now)

/-- R11, R36, R369, R395, R417, R431 to R435, R445: the phases of BOOT, each ended by its command: no flow within 2 s leads to
SAFE with ST_FLOW_LOST; self-test passed with the keys derived leads to training, training to replay, replay to the reload of
Flask, and that to READY, or to FENCED where a fence is recorded. After an update Lantern runs the new image. -/
def Obligations.boot_phases : Prop :=
  ∀ (dt : Nat) (r : SelfTestResult) (tr : List TrainResult) (s : State),
    let u := elapse dt s
    (inPhase u 1 = true → 2000000000 ≤ since u u.power.upAt → flowShown u = false →
      ∃ t, exec (.bootFlowTimeout dt) s = .next t ∧ mode t = MODE_SAFE)
    ∧ (inPhase u 1 = true → flowShown u = true → exec (.bootFlowTimeout dt) s = .next u)
    ∧ (inPhase u 1 = true → flowShown u = true → r.shared = 0xFF → r.logic = 0xFF → r.memory = 0xFF →
      u.fw.fwSvn ≤ bundleSvn u u.fw.running → ∃ t, exec (.bootSelfTest dt r) s = .next t
        ∧ inPhase t 2 = true ∧ t.idReady = (r.pufOk || u.idReady)
        ∧ (r.pufOk = true → fget t SEC_STATUS_ID_READY = 1 ∧ regGet t SEC_ID = Config.secId % 2 ^ 64)
        ∧ (r.pufOk = false → fget t SEC_STATUS_PUF_FAIL = 1 ∧ fget t FW_STATUS_SVN_UNCHECKED = 1
            ∧ (⟨.idFail, 0, u.now⟩ : EvRec) ∈ t.events))
    ∧ (inPhase u 2 = true → tr.length = 6 → (∀ o ∈ tr, o.ok = true) → ∃ t, exec (.dramTraining dt tr) s = .next t
        ∧ inPhase t 3 = true ∧ (∀ i < 6, regGet t (MEM_TRAIN_STAMP i) = u.now.toNat ∧ fget t (MEM_STACK_FAILS i) = 0)
        ∧ t.parts = u.parts ∧ t.tensors = u.tensors ∧ t.hostMem = u.hostMem)
    ∧ (inPhase u 3 = true → jSelect u = none → ∃ t, exec (.journalReplay dt) s = .next t ∧ mode t = MODE_SAFE)
    ∧ (∀ a, inPhase u 3 = true → jSelect u = some a → (jArea u a).epoch = some u.fw.jrnEpoch →
        ∃ t, exec (.journalReplay dt) s = .next t ∧ inPhase t 4 = true ∧ t.jActive = a ∧ t.power.fresh = false)
    ∧ (inPhase u 4 = true → ∃ t, exec (.flaskReload dt) s = .next t ∧ inPhase t 5 = true
        ∧ t = { u with power := t.power, tensors := t.tensors, nextHandle := t.nextHandle, free := t.free }
        ∧ u.nextHandle ≤ t.nextHandle)
    ∧ (inPhase u 5 = true → ∃ t, exec (.bootComplete dt) s = .next t ∧ t.power.phase = 0
        ∧ mode t = (if fbit u HLM_QUORUM_FENCED then MODE_FENCED else MODE_READY)
        ∧ fget t GEN_MEM_ACX_GIB = (if fget u GEN_MEM_ACX_GIB = 0 then 8 else fget u GEN_MEM_ACX_GIB)
        ∧ (⟨.stateChange, mode t, u.now⟩ : EvRec) ∈ t.events ∧ t.parts = u.parts)
    ∧ (dieOn u = true → u.fw.update = 5 → ∃ t, exec (.lanternRestart dt) s = .next t ∧ t.fw.imgL = u.fw.target
        ∧ t.fw.running = u.fw.target ∧ (bootRec t).active = u.fw.target
        ∧ (bootRec t).trial = !(bootRec u).trial ∧ (bootRec t).tries = 0)

/-! ### Host link, functions and frames (R302 to R307, R320 to R324, R329, R331, R339) -/

/-- R302 to R305, R329, R331, R339: training shows its rate and width; PERST# and a reset of the PF take the functions, MSI-X
and every queue to reset, one of a VF its own, and programs halt before their next STEP; a violation is captured unless one
stands; MSI-X sends what was held once its function and vector are open; PTM answers device time. -/
def Obligations.host_link : Prop :=
  ∀ (dt : Nat) (gen : BitVec 3) (width : BitVec 2) (bar : Fin 5) (n : Fin 8) (v : TlpViolation) (f : Func) (en masked ring : Bool)
      (vec : BitVec 8) (q : BitVec 10) (s : State),
    let u := elapse dt s
    let off := fun (t w : State) => t.queues = [] ∧ t.msixOn = [] ∧ t.vecOpen = [] ∧ t.msixHeld = [] ∧ t.power.vfEnabled = false
      ∧ t.power.pfBar2 = 0 ∧ regGet t NET_HL_BAR2_BASE = 0 ∧ t.reqs = w.reqs ∧ t.tensors = w.tensors ∧ t.dram = w.dram
      ∧ ∀ p < 8, (partOf w p).running = true → (partOf w p).held = none →
          (partOf t p).haltNext = true ∧ (partOf t p).step = (partOf w p).step
    dieOn u = true → dieOn s = true →
    (2 ≤ u.power.phase ∨ mode u ≠ MODE_BOOT) → mode u ≠ MODE_RECOVERY →
    (1 ≤ gen.toNat → gen.toNat ≤ 5 → ∃ t, exec (.hostLinkUp dt gen ⟨width, bar⟩) s = .next t ∧ fget t NET_STATUS_HL_UP = 1
        ∧ pfBar2 t = 2 ^ (34 + bar.val)
        ∧ fget t NET_HL_STATUS_GEN = gen.toNat ∧ fget t NET_HL_STATUS_WIDTH = width.toNat
        ∧ fget t NET_HL_STATUS_DEGRADED = (if gen = 5 ∧ width = 3 then 0 else 1)
        ∧ (gen ≠ 5 ∨ width ≠ 3 → (⟨.hostLinkDegraded, 0, u.now⟩ : EvRec) ∈ t.events))
    ∧ (∃ t, exec (.perst dt) s = .next t ∧ off t u ∧ fget t NET_STATUS_HL_UP = 0)
    ∧ (∃ t, exec .pfFlr s = .next t ∧ off t s)
    ∧ (s.power.vfEnabled = true → ∃ t, exec (.vfFlr n) s = .next t ∧ mapGet false t.msixOn (n + 1) = false
        ∧ (∀ k < 1024, (qGet s k).func = n + 1 → fget t (CMD_CFG_EN (qPart k) (qLocal k)) = 0)
        ∧ (∀ i ∈ reqsOf s n, rqCompanion (reqGet s i) = false →
            (reqLive s n i = true → rqState (reqGet t i) = RQ_CANCELLED)
            ∧ (rqState (reqGet s i) = RQ_PAUSED → rqState (reqGet t i) = RQ_PAUSED))
        ∧ ∀ p, p ≠ n.val → partOf t p = partOf s p)
    ∧ (1 ≤ v.cls.toNat → v.cls.toNat ≤ 8 → ∃ t, exec (.pcieTlpViolation v) s = .next t
        ∧ fget t NET_STATUS_HL_ERR = 1 ∧ fget t NET_HL_STATUS_CAPTURED = 1
        ∧ (fbit s NET_HL_STATUS_CAPTURED = false → (⟨.hostLinkErr, v.cls.toNat, s.now⟩ : EvRec) ∈ t.events)
        ∧ (fbit s NET_HL_STATUS_CAPTURED = true → v.cls ∉ [4, 5, 8] → t.events = s.events)
        ∧ fget t NET_HL_STATUS_VCLASS = (if fbit s NET_HL_STATUS_CAPTURED then fget s NET_HL_STATUS_VCLASS else v.cls.toNat)
        ∧ regGet t (NET_HL_HDR 0) = (if fbit s NET_HL_STATUS_CAPTURED then regGet s (NET_HL_HDR 0) else v.hdr0.toNat)
        ∧ t.parts = s.parts ∧ t.reqs = s.reqs ∧ t.tensors = s.tensors)
    ∧ (decide (funcVecs (funcNum f) ≤ vec.toNat) = false → funcNum f = 0 ∨ s.power.vfEnabled = true →
        ∃ t, exec (.msixEnable f en vec masked) s = .next t ∧ mapGet false t.msixOn (funcNum f) = en
          ∧ mapGet false t.vecOpen (funcNum f * 256 + vec.toNat) = !masked
          ∧ (∀ e ∈ s.msixHeld, (mapGet false t.msixOn e.1 && mapGet false t.vecOpen (e.1 * 256 + e.2)) = true →
              .msix e.1 e.2 ∈ t.out ∧ e ∉ t.msixHeld)
          ∧ (∀ e ∈ s.msixHeld, (mapGet false t.msixOn e.1 && mapGet false t.vecOpen (e.1 * 256 + e.2)) = false → e ∈ t.msixHeld)
          ∧ t = { s with msixOn := t.msixOn, vecOpen := t.vecOpen, msixHeld := t.msixHeld, out := t.out })
    ∧ (s.power.vfEnabled = false → exec (.vfEnable true) s
        = .next { s with power := { s.power with vfEnabled := true, vfBar2 := fget s NET_CTRL_VF_BAR2 } })
    ∧ (∃ t, exec (.vfEnable false) s = .next t ∧ t.power.vfEnabled = false ∧ (∀ k, mapGet false t.msixOn (k % 8 + 1) = false)
        ∧ t = { s with regs := t.regs, queues := t.queues, msixOn := t.msixOn, vecOpen := t.vecOpen, msixHeld := t.msixHeld
                       power := { s.power with vfEnabled := false } })
    ∧ (fbit u NET_STATUS_HL_UP = true → exec (.ptmRequest dt) s = .next { u with out := .ptm u.now :: u.out })
    ∧ (qReady u q.toNat = true → ∃ w, fget w NET_STATUS_HL_ERR = 1 ∧ w.queues = u.queues ∧ w.hostMem = u.hostMem
        ∧ (ring = true → ∃ t, exec (.completionTimeout dt q ring) s = .next t
            ∧ fget t (CMD_STATUS_STOPPED (qPart q.toNat) (qLocal q.toNat)) = 1
            ∧ fget t (CMD_STATUS_ERR_CODE (qPart q.toNat) (qLocal q.toNat)) = ST_QUEUE_ERROR ∧ t = { w with regs := t.regs })
        ∧ (ring = false → exec (.completionTimeout dt q ring) s = .next (qSkip 65536 q.toNat (cqOrder q.toNat
            { typ := 1, status := ST_DMA_FAULT, tag := entryBytes (qEntry u q.toNat) 4 4, value := 0, stamp := u.now, payload := 0 }
            (qTake q.toNat w)))))

/-- R256 to R258, R268, R269, R306, R307, R408: an access through BAR2 or an exported handle moves its bytes at the address of
its window or its tensor, and nothing else; a write into the firmware region goes to both copies; a read that meets an
uncorrectable unit answers poisoned data, or an access fault of the ACX. An access beyond the BAR is answered with Unsupported
Request, one through a handle that does not allow it with an access fault, and changes no memory. -/
def Obligations.outside_accesses : Prop :=
  ∀ (core : Fin 16) (h : BitVec 32) (off : BitVec 64) (bs : List Byte) (n : Nat) (k : Fin 8) (e : DramErr) (s : State),
    let plain := fun (a m : Nat) => ∀ b, a ≤ b → b < a + m → inFwCopy b = false
    let moves := fun (c : MemAcc → List DramErr → Instr) (a : Nat) (bad : Out) =>
      mirrorsOf s = [] → dramAsleep s = false → trainingStack s = none → (∀ i < 6, fget s (MEM_STACK_STATE i) = 0) →
      (a + bs.length ≤ dramEnd → bs.length ≤ 2 ^ 30 → ∃ t, exec (c (.write bs) []) s = .next t
          ∧ (∀ i < bs.length, dramByte t (a + i) = bs.getD i 0 ∧ ∀ b, fwTwin (a + i) = some b → dramByte t b = bs.getD i 0)
          ∧ (∀ b, b < a ∨ a + bs.length ≤ b → inFwCopy b = false → dramByte t b = dramByte s b)
          ∧ t = { s with dram := t.dram, poison := t.poison, parts := t.parts })
      ∧ (a + n ≤ dramEnd → plain a n → s.dramErrs = [] →
          (poisoned s a n = false → exec (c (.read n) []) s = .next
            { s with free := s.free + 1, out := .readData (tabulate (dramByte s) n a) :: s.out })
          ∧ (0 < n → e.kind = .uncorrectable → a < e.unit.toNat * 64 + 64 → e.unit.toNat * 64 < a + n → ∃ t,
            exec (c (.read n) [e]) s = .next t ∧ bad ∈ t.out ∧ mapGet false t.poison e.unit.toNat = true))
    let r := fun (f : Func) (acc : MemAcc) (errs : List DramErr) => Instr.bar2Access f off ⟨acc, errs⟩
    let x := fun (acc : MemAcc) (errs : List DramErr) => Instr.acxAccess core h off ⟨acc, errs⟩
    dramOn s = true →
    (off.toNat + n ≤ pfBar2 s → off.toNat + bs.length ≤ pfBar2 s → moves (r .pf) (pfBase s + off.toNat) .poisoned)
    ∧ (pfBar2 s < off.toNat + bs.length → ∃ t, exec (r .pf (.write bs) []) s = .next t ∧ .unsupported ∈ t.out
        ∧ ∀ a, inFwCopy a = false → ringsOk s → dramByte t a = dramByte s a)
    ∧ (s.power.vfEnabled = false → ∃ t, exec (r (.vf k) (.write bs) []) s = .next t ∧ .unsupported ∈ t.out
        ∧ Beside false false (statBump NET_STAT_UR 1 { s with out := .unsupported :: s.out }) t)
    ∧ (s.power.vfEnabled = true → vfGone s k = false → off.toNat + bs.length ≤ vfBar2 s → off.toNat + bs.length ≤ winTotal s k →
        exec (r (.vf k) (.write bs) [e]) s = .next (accGo none (some k) (winPieces (winsOf s k) off.toNat bs.length) (.write bs)
          { s with dramErrs := s.dramErrs ++ [e] }))
    ∧ (∀ th ro t, mapGet none s.acxHandles h.toNat = some (th, ro) → mapGet none s.tensors th = some t → t.flask = false →
        (off.toNat + bs.length ≤ t.size → off.toNat + n ≤ t.size → ro = false → t.lost = false → 0 < n → 0 < bs.length →
          inWins s t.part (t.home + off.toNat) n = true → inWins s t.part (t.home + off.toNat) bs.length = true →
          moves x (t.home + off.toNat) (.acxFault core))
        ∧ (t.size < off.toNat + bs.length ∨ ro = true →
          exec (x (.write bs) []) s = .next { s with out := .acxFault core :: s.out }))
    ∧ (mapGet none s.acxHandles h.toNat = none →
        exec (x (.read n) []) s = .next { s with out := .acxFault core :: s.out })

/-- R244, R320 to R324, R333: a frame that no engine takes joins the receive queue of the partition whose MAC it bears, else
the ACX's own queue where it is for the ACX, else it is dropped and counted; one that is malformed is dropped. A port shows
its link and raises an event when that changes. A frame of the ACX goes out on a port that is up and not gated, in the slots
of its owner. -/
def Obligations.ethernet : Prop :=
  ∀ (dt : Nat) (port : Fin 4) (f : EthFrame) (up : Bool) (md : BitVec 2) (part : Option (Fin 8)) (bytes : List Byte) (s : State),
    let u := elapse dt s
    let c := Instr.ethFrameReceive dt port f
    let k := match part with
      | none => TxKind.mgmt
      | some n => TxKind.acx n.val
    (portUp u port = true → mode u ≠ MODE_OFF → portZeroOnly u = false →
      (badFrame u port f = true → ∃ t, exec c s = .next t ∧ fget t NET_STATUS_ETH_DROP = 1
          ∧ Beside false false (fset NET_STATUS_ETH_DROP 1 (statBump NET_STAT_FCS 1 u)) t)
      ∧ (badFrame u port f = false → unitFrame u port f = true → exec c s = .next u)
      ∧ (badFrame u port f = false → unitFrame u port f = false →
        (∀ n, queueTo u port f.addr = some n → exec c s = .next (acxQueue n f.data u))
        ∧ (queueTo u port f.addr = none → toAcx u port f.addr = true → exec c s = .next (acxQueue 8 f.data u))
        ∧ (queueTo u port f.addr = none → toAcx u port f.addr = false → ∃ t, exec c s = .next t ∧ t.acxRx = u.acxRx
            ∧ fget t NET_STATUS_ETH_DROP = 1
            ∧ Beside false false (fset NET_STATUS_ETH_DROP 1 (statBump NET_STAT_NO_MATCH 1 u)) t)))
    ∧ (up = false ∨ (mode u ≠ MODE_OFF ∧ u.therm.xoLost = false ∧ portZeroOnly u = false ∧ modeOk u port md.toNat = true) →
        ∃ t, exec (.evPortLink dt port up md) s = .next t ∧ portUp t port = up
          ∧ fget t (NET_PORT_STATUS_MODE_UP port) = (if up then md.toNat else 0)
          ∧ (portUp u port ≠ up → (⟨.portLink, port.val, u.now⟩ : EvRec) ∈ t.events)
          ∧ (portUp u port = up → t.events = u.events))
    ∧ (dieOn s = true → txGated s k = false → txPort s k port = true →
        let leaves := leavesAt s port (txOwner k) bytes.length
        ∃ t, exec (.acxFrameSend port part bytes) s = .next t
          ∧ t.out = .frame port (BitVec.ofNat 48 (ofLe (bytes.take 6).reverse)) bytes (leaves.map (BitVec.ofNat 64)) :: s.out
          ∧ (∀ a, leaves = some a → (mapGet 0 t.egress (egressKey s port (txOwner k))).toNat
              = (a + wireNs s port bytes.length) % 2 ^ 64)
          ∧ t = { s with out := t.out, egress := t.egress })
    ∧ (dieOn s = true → txGated s k = true → ∃ t, exec (.acxFrameSend port part bytes) s = .next t
        ∧ Beside false false (statBump NET_STAT_EGRESS_GATED 1 s) t)

/-! ### Clocks, timebase and temperatures (R219 to R223, R328, R330, R349 to R371) -/

/-- R221 to R223, R328, R330, R351, R353, R354, R357: the loss of a reference lets its PLLs coast, with ACLK at 100 MHz and
FCLK at 800 MHz where it is the crystal; after 10 ms they lock again. The governor shows its readings and raises ACLK by at
most one step. An edge, by the count of edges since the last step or by the running PTP estimate, and a Sync, less the delay
measured, give an offset, which is stepped or slewed; an edge that comes early is a glitch; a port in master state answers a
delay request; a message of another domain is ignored, one that the port did not stamp an anomaly; without its source the
timebase goes into holdover. (Log 21, 22: the rate of a slew and the exchanges of the PTP clock are the model's reading.) -/
def Obligations.clocks_and_timebase : Prop :=
  ∀ (dt sound : Nat) (m : PowerMeas) (port : Fin 4) (msg : PtpMsg) (s : State),
    let u := elapse dt s
    let takes := fun (c : Instr) (off : Int) => ∃ t, exec c s = .next t
      ∧ fget t TB_OFFSET_OFFSET = unsigned 64 off ∧ fget t TB_STATUS_HOLDOVER = 0
      ∧ (tbSteps u off = true → t.now = u.now - BitVec.ofInt 64 off ∧ fget t TB_STATUS_STEPPED = 1 ∧ fget t TB_FREQ_ADJ_ADJ = 0
          ∧ (⟨.tbStep, 0, t.now⟩ : EvRec) ∈ t.events)
      ∧ (tbSteps u off = false → t.now = u.now ∧ fget t TB_FREQ_ADJ_ADJ
          = unsigned 32 (clampInt (-(1000 * fget u TB_CTRL_SLEW_PPM : Nat)) (1000 * fget u TB_CTRL_SLEW_PPM : Nat) (-off)))
      ∧ t.time.inWindow = (if off.natAbs ≤ fget u TB_LOCK_NS then min 16 (u.time.inWindow + 1) else 0)
    (dieOn u = true → u.therm.xoLost = false → ∃ t, exec (.referenceLoss dt .xo) s = .next t ∧ t.therm.xoLost = true
        ∧ fget t CLK_ACLK_CUR_MHZ = 100 ∧ fget t CLK_FCLK_CUR_MHZ = 800 ∧ fget t CLK_STATUS_COAST_SEEN = 1
        ∧ fget t CLK_STATUS_COAST &&& 0xDF = 0xDF ∧ fget t TB_STATUS_HOLDOVER = 1 ∧ ∀ p < 4, portUp t p = false)
    ∧ (dieOn u = true → u.therm.refLost = false → ∃ t, exec (.referenceLoss dt .refclk) s = .next t ∧ t.therm.refLost = true
        ∧ fget t CLK_STATUS_COAST &&& 0x20 = 0x20 ∧ fget t NET_STATUS_HL_UP = 0 ∧ fget t CLK_ACLK_CUR_MHZ = fget u CLK_ACLK_CUR_MHZ
        ∧ (⟨.clkCoast, 0x20, u.now⟩ : EvRec) ∈ t.events)
    ∧ (dieOn u = true → u.therm.xoLost = true → 10000000 ≤ sound → ∃ t, exec (.pllRelock dt .xo sound) s = .next t
        ∧ t.therm.xoLost = false ∧ fget t CLK_STATUS_COAST &&& 0xDF = 0 ∧ fget t CLK_STATUS_LOCK &&& 0xDF = 0xDF
        ∧ fget t CLK_FCLK_CUR_MHZ = fget u CLK_FCLK_SET_MHZ)
    ∧ (dieOn u = true → u.therm.refLost = true → 10000000 ≤ sound → ∃ t, exec (.pllRelock dt .refclk sound) s = .next t
        ∧ t.therm.refLost = false ∧ fget t CLK_STATUS_LOCK &&& 0x20 = 0x20 ∧ t.queues = [])
    ∧ (dieOn u = true → 100 ≤ fget u CLK_ACLK_CUR_MHZ → fget u CLK_ACLK_CUR_MHZ ≤ 500 →
        ∃ t, exec (.powerGovernor dt m) s = .next t
          ∧ fget t THM_POWER_P_1MS = min 65535 m.p1ms ∧ fget t THM_POWER_P_100MS = min 65535 m.p100ms
          ∧ fget t THM_COOLANT_INLET = unsigned 16 m.inlet ∧ fget t THM_COOLANT_OUTLET = unsigned 16 m.outlet
          ∧ fget t CLK_ACLK_CUR_MHZ ≤ fget u CLK_ACLK_CUR_MHZ + 50
          ∧ (helmHeld u = false → fget t CLK_ACLK_CUR_MHZ = fget u CLK_ACLK_CUR_MHZ))
    ∧ (mode u ≠ MODE_OFF → edgeEarly u = true → ∃ t, exec (.ppsEdge dt) s = .next t
        ∧ fget t TB_STATUS_PPS_GLITCH = 1 ∧ t.time = u.time
        ∧ Beside false false (statBump TB_STAT_PPS_GLITCH 1 (fset TB_STATUS_PPS_GLITCH 1 u)) t)
    ∧ (mode u ≠ MODE_OFF → edgeEarly u = false →
        (fget u TB_CTRL_SRC = 0 ∨ fget u TB_CTRL_SRC = 2 → ∃ t, exec (.ppsEdge dt) s = .next t
          ∧ regGet t TB_PPS_STAMP = u.now.toNat ∧ fget t TB_STATUS_PPS_OK = 1 ∧ t.now = u.now ∧ t.time.lastEdge = some u.now
          ∧ t.time.edges = u.time.edges + 1)
        ∧ (fget u TB_CTRL_SRC = 1 → takes (.ppsEdge dt)
            ((u.now.toNat : Int) - ((u.time.base + u.time.edges + 1 : Nat) : Int) * 1000000000))
        ∧ (∀ e, fget u TB_CTRL_SRC = 3 → u.time.ptpEst = some e → takes (.ppsEdge dt)
            ((u.now.toNat : Int) - ((u.now.toNat : Int) - e + 500000000) / 1000000000 * 1000000000)))
    ∧ (mode u ≠ MODE_OFF → portZeroOnly u = false → ptpOn u port = true →
        let v := bestMaster u
        let c := Instr.ptpMessage dt port msg
        let slave := fget v NET_PTP_SLAVE_PORT = port.val
        (msg.domain.toNat ≠ fget u NET_PTP_DOMAIN ∨ msg.l2 ≠ fbit u NET_PTP_L2 → exec c s = .next u)
        ∧ (msg.domain.toNat = fget u NET_PTP_DOMAIN → msg.l2 = fbit u NET_PTP_L2 →
          (ptpEvent msg.body = true → msg.stamped = false → ∃ t, exec c s = .next t ∧ fget t NET_STATUS_PTP_ANOMALY = 1
            ∧ t.time = v.time ∧ t.now = u.now)
          ∧ (∀ r, msg.body = .announce r → mapGet none u.time.ptp.masters port = none → ∃ t, exec c s = .next t
            ∧ mapGet none t.time.ptp.masters port = some r ∧ t.now = u.now
            ∧ ((∀ k, k ≠ port.val → mapGet none u.time.ptp.masters k = none) → fget t NET_PTP_SLAVE_PORT = port.val))
          ∧ (∀ t1 y, slave → msg.stamped = true → msg.body = .sync (some t1) → v.time.ptp.delay = some y →
            v.time.ptp.lastSync = some (msg.seq - 1) → fget u TB_CTRL_SRC = 2 →
            takes c ((u.now.toNat : Int) - t1.toNat - y)
            ∧ ∃ t m, exec c s = .next t ∧ .ptp port m ∈ t.out ∧ m.body = (if fbit u NET_PTP_P2P then .pdelayReq else .delayReq))
          ∧ (∀ t3 t4 d, slave → msg.body = .delayResp t4 → v.time.ptp.req = some (msg.seq, t3) → v.time.ptp.diff = some d →
            fbit u NET_PTP_P2P = false → ∃ t, exec c s = .next t
              ∧ t.time.ptp.delay = some ((d + ((t4.toNat : Int) - t3.toNat)) / 2) ∧ t.time.ptp.req = none
              ∧ t = { v with time := t.time })
          ∧ (¬slave → msg.stamped = true → msg.body = .delayReq → fbit u NET_PTP_P2P = false → exec c s = .next
            { v with out := .ptp port { domain := BitVec.ofNat 8 (fget u NET_PTP_DOMAIN), l2 := fbit u NET_PTP_L2, seq := msg.seq
                                        stamped := true, body := .delayResp u.now } :: u.out })))
    ∧ (mode u ≠ MODE_OFF → fget u TB_CTRL_SRC = 2 → 3000000000 ≤ since u u.time.lastSample →
        ∃ t, exec (.tbHoldover dt) s = .next t ∧ fget t TB_STATUS_HOLDOVER = 1 ∧ fget t TB_STATUS_LOCK = 0
          ∧ fget t TB_STATUS_PTP_OK = 0 ∧ fget t TB_FREQ_ADJ_ADJ = fget u TB_FREQ_ADJ_ADJ
          ∧ (fget u TB_STATUS_HOLDOVER = 0 → (⟨.tbHoldover, 0, u.now⟩ : EvRec) ∈ t.events))
    ∧ (mode u ≠ MODE_OFF → fget u TB_CTRL_SRC = 1 ∨ fget u TB_CTRL_SRC = 3 → edgesMissed u = true → ∃ t,
        exec (.tbHoldover dt) s = .next t ∧ fget t TB_STATUS_HOLDOVER = 1 ∧ fget t TB_STATUS_LOCK = 0 ∧ fget t TB_STATUS_PPS_OK = 0)
    ∧ (mode u ≠ MODE_OFF → edgesMissed u = false → since u u.time.lastSample < 3000000000 → exec (.tbHoldover dt) s = .next u)

/-- R359 to R371: samples are shown; two sensors that agree give the hotter one as the ruling temperature, with the band of
the hottest and a trip to SAFE at 110 °C; two that disagree for 60 s leave the one nearer to the model, or with neither near
it the trip limit. Forecast and θ move by a sixteenth and by a ten-thousandth. Flow that is gone drops ACLK to 100 MHz, and
after 2 s leads to SAFE. Thermal cycles are counted by rainflow, and LIFE_PPM follows. -/
def Obligations.temperatures_and_flow : Prop :=
  ∀ (dt low : Nat) (h : Fin 32) (r est : List (BitVec 16 × BitVec 16)) (s : State),
    let u := elapse dt s
    let d := diodeOf u h
    let o := ringOf u h
    let m := modelOf u h
    r.length = 32 → est.length = 32 → dieOn u = true →
    (∃ t, exec (.hotspotSensorSample dt r) s = .next t ∧ t = { u with regs := t.regs }
        ∧ fget t (THM_HS_DIODE h) = (r.getD h (0, 0)).1.toNat ∧ fget t (THM_HS_RING h) = (r.getD h (0, 0)).2.toNat
        ∧ fget t (THM_HS_RULING h) = fget u (THM_HS_RULING h))
    ∧ (helmHeld u = true → (∀ i < 32, fbit u (THM_HS_BOTH_BAD i) = false ∧ fbit u (THM_HS_DIODE_SUSPECT i) = false
          ∧ fbit u (THM_HS_RING_SUSPECT i) = false ∧ (diodeOf u i - ringOf u i).natAbs ≤ 64) →
        ∃ t, exec (.rulingTemperature dt) s = .next t ∧ rulingOf t h = max d o ∧ fget t (THM_HS_DISAGREE h) = 0
          ∧ fget t THM_STATUS_BAND = bandOf (hottest t) ∧ (1760 ≤ hottest t → mode t = MODE_SAFE))
    ∧ (helmHeld u = true → fbit u (THM_HS_BOTH_BAD h) = false → fbit u (THM_HS_DIODE_SUSPECT h) = false →
        fbit u (THM_HS_RING_SUSPECT h) = false → 64 < (d - o).natAbs → fbit u (THM_HS_DISAGREE h) = true →
        60000000000 < since u (spotOf u h).since → ∃ t, exec (.sensorDisagreeTimeout dt h) s = .next t
          ∧ (⟨.sensorSuspect, h.val, u.now⟩ : EvRec) ∈ t.events
          ∧ (if farFrom u d m && farFrom u o m then fget t (THM_HS_BOTH_BAD h) = 1 ∧ rulingOf t h = 1760 ∧ mode t = MODE_SAFE
            else if (o - m).natAbs < (d - m).natAbs then fget t (THM_HS_DIODE_SUSPECT h) = 1 ∧ rulingOf t h = o
            else fget t (THM_HS_RING_SUSPECT h) = 1 ∧ rulingOf t h = d))
    ∧ (fget u THM_DIS_WINDOW_WINDOW_S * 1000000000 ≤ since u u.therm.disWindowAt → ∃ t, exec (.disWindowRestart dt) s = .next t
        ∧ fget t (THM_HS_DIS_COUNT h) = 0 ∧ t.therm.disWindowAt = u.now ∧ fget t (THM_HS_DISAGREE h) = fget u (THM_HS_DISAGREE h))
    ∧ (helmHeld u = true → ∃ t, exec (.thermalForecast dt est) s = .next t ∧ t = { u with regs := t.regs }
        ∧ fget t (THM_FC_PEAK h) = (est.getD h (0, 0)).2.toNat
        ∧ fget t (THM_FC_MODEL h) = (let e := (est.getD h (0, 0)).1.toInt
            if fbit u (THM_HS_BOTH_BAD h) then unsigned 16 e else unsigned 16 (e + (rulingOf u h - e) / 16)))
    ∧ (helmHeld u = true → 1000 ≤ fget u THM_POWER_P_1MS → ∃ t, exec (.thetaUpdate dt) s = .next t
        ∧ t.therm.theta = ((u.therm.theta : Int) + ((hottest u - signed 16 (fget u THM_COOLANT_INLET)) * 625000000000
            / (fget u THM_POWER_P_1MS : Int) - (u.therm.theta : Int)) / 10000).toNat
        ∧ fget t THM_THETA_FILT = min 65535 (t.therm.theta / 100000000) ∧ t.now = u.now)
    ∧ ((∃ i < 32, fbit u (THM_HS_DIODE_SUSPECT i) = false ∧ 1760 ≤ diodeOf u i) → ∃ t, exec (.lanternDiodeCheck dt) s = .next t
        ∧ mode t = MODE_SAFE ∧ (mode u ≠ MODE_SAFE → fget t THM_STATUS_TRIP_SEEN = 1))
    ∧ (flowLost u = false → flowGone u = true → ∃ t, exec (.flowLost dt) s = .next t ∧ flowLost t = true
        ∧ fget t CLK_ACLK_CUR_MHZ = 100 ∧ t.therm.lostAt = some u.now ∧ (⟨.flowLost, 0, u.now⟩ : EvRec) ∈ t.events)
    ∧ (flowLost u = true → flowShown u = true → ∃ t, exec (.flowRestored dt) s = .next t ∧ flowLost t = false
        ∧ t.therm.lostAt = none ∧ (⟨.flowRestored, 0, u.now⟩ : EvRec) ∈ t.events)
    ∧ (flowLost u = true → stoodFor u 2000000000 u.therm.lostAt = true → ∃ t, exec (.flowLossSafe dt) s = .next t
        ∧ mode t = MODE_SAFE)
    ∧ (20000 ≤ low → ∃ t, exec (.flowPulse dt low) s = .next t ∧ t.therm.lastPulse = u.now ∧ fget t THM_FLOW_STATUS_PULSE_OK = 1
        ∧ t.therm.pulseRun.head? = some u.now ∧ t = { u with regs := t.regs, therm := t.therm })
    ∧ (low < 20000 → exec (.flowPulse dt low) s = .next u)
    ∧ (helmHeld u = true → ∃ t, exec (.thermalCycleSample dt) s = .next t
        ∧ (let l := turnPush (hottest u) u.therm.turns
          t.therm.turns = (rainClose l.length l).2)
        ∧ fget t THM_LIFE_LIFE_PPM = min (2 ^ 32 - 1) (lifePpm t) ∧ t.parts = u.parts)
    ∧ (flaskOn u = true → 3600000000000 ≤ since u u.therm.cyclesWrittenAt → ∃ t, exec (.thermalCycleJournal dt) s = .next t
        ∧ t.therm.cyclesWrittenAt = u.now ∧ Beside true false { u with therm := { u.therm with cyclesWrittenAt := u.now } } t)

/-! ### Stacks and SRAM (R252, R253, R263 to R271, R385) -/

/-- R252, R263, R264, R266, R267, R271: a temperature read sets the marks of each stack with 3 °C of hysteresis; 5 °C above
the limit for 1 s is a trip; a stack falls due once; in the reserved slack it trains, unless a step is open; once trained it
serves again and what was held for it is performed. An uncorrectable SRAM word is marked, recorded and queued for repair. -/
def Obligations.stacks : Prop :=
  ∀ (dt : Nat) (i : Fin 6) (temps : List (BitVec 8)) (o : TrainResult) (v : BitVec 64) (e : SramErr) (s : State),
    let u := elapse dt s
    let temp := (temps.getD i 0).toInt
    let due := fun (u t : State) => t = { u with regs := t.regs, hbm := t.hbm, dueCount := u.dueCount + 1 }
      ∧ (hbmOf t i).dueNo = some u.dueCount ∧ ∀ j, j ≠ i.val → hbmOf t j = hbmOf u j
    (dramOn u = true → temps.length = 6 → fget u (MEM_STACK_STATE i) ≠ 2 → ∃ t, exec (.stackTempRead dt temps) s = .next t
        ∧ fget t (MEM_STACK_TEMP i) = unsigned 8 temp ∧ fget t (MEM_STACK_REMAP_24H i) = min 65535 (remapsOf u i)
        ∧ fget t (MEM_STACK_REFRESH2X i) = b2n (hyst (fbit u (MEM_STACK_REFRESH2X i)) (fget u MEM_TEMP_REFRESH2X_C) temp)
        ∧ fget t (MEM_STACK_HOT_LIMIT i) = b2n (hyst (fbit u (MEM_STACK_HOT_LIMIT i)) (fget u MEM_TEMP_LIMIT_C) temp)
        ∧ (fget u (MEM_STACK_HOT_LIMIT i) = 0 → (fget u MEM_TEMP_LIMIT_C : Int) ≤ temp →
            (⟨.stackHot, i.val, u.now⟩ : EvRec) ∈ t.events))
    ∧ (∀ a, dramOn u = true → (hbmOf u i).hotSince = some a → 1000000000 ≤ since u a →
        ∃ t, exec (.stackOvertempTrip dt i) s = .next t ∧ mode t = MODE_SAFE)
    ∧ (dramOn u = true → trainEvery u i ≤ since u (BitVec.ofNat 64 (regGet u (MEM_TRAIN_STAMP i))) →
        (hbmOf u i).dueNo = none → fget u (MEM_STACK_STATE i) ≠ 2 → ∃ t, exec (.retrainDue dt i) s = .next t ∧ due u t)
    ∧ (dieOn s = true → fieldGet v.toNat 18 16 = i → (hbmOf s i).dueNo = none → fget s (MEM_STACK_STATE i) ≠ 2 →
        ∃ t, exec (.memForce v) s = .next t ∧ (hbmOf t i).dueNo = some s.dueCount ∧ fget t MEM_RETRAIN_FORCE_STACK = i
          ∧ fget t MEM_RETRAIN_LEAD = (if 1 ≤ fieldGet v.toNat 43 40 ∧ fieldGet v.toNat 43 40 ≤ 15 then fieldGet v.toNat 43 40
              else fget s MEM_RETRAIN_LEAD))
    ∧ (trainNow u = some i.val → fbit u TK_SLACK_RETRAIN = true → dramOn u = true → fget u (MEM_STACK_STATE i) = 0 →
        slackStart u ≤ u.now.toNat →
        (stepIsOpen u = true → ∃ t, exec (.retrainSlackStart dt) s = .next t ∧ fget t (MEM_STACK_STATE i) = 0
            ∧ (hbmOf t i).trainTick = some (fget u TK_COUNT_COUNT + 1))
        ∧ (stepIsOpen u = false → ∃ t, exec (.retrainSlackStart dt) s = .next t ∧ fget t (MEM_STACK_STATE i) = 1
            ∧ fget t MEM_STATUS_RETRAIN_ACTIVE = 1 ∧ t.hbm = u.hbm))
    ∧ (dramOn u = true → trainingStack u = some i.val → o.ok = true →
        (∀ h ∈ u.heldAccs, ∃ bs, h.acc = .write bs) → ∃ t, exec (.retrainComplete dt o) s = .next t
        ∧ fget t (MEM_STACK_STATE i) = 0 ∧ fget t (MEM_STACK_FAILS i) = 0 ∧ fget t MEM_STATUS_RETRAIN_ACTIVE = 0
        ∧ regGet t (MEM_TRAIN_STAMP i) = u.now.toNat ∧ (hbmOf t i).dueNo = none ∧ (hbmOf t i).trainTick = none ∧ (hbmOf t i).ecs = o.ecs
        ∧ t.heldAccs = [])
    ∧ (dieOn u = true → (e.store = 1 ∨ (e.store = 2 ∧ e.unit.toNat < 8)) → e.double = true →
        ∃ t, exec (.sramScrub dt [e]) s = .next t ∧ mapGet false t.sramPoison (wordKey e) = true ∧ fget t MEM_STATUS_UE = 1
          ∧ regGet t MEM_UE_STAMP = u.now.toNat ∧ (e.store.toNat, e.unit.toNat, e.off.toNat / 8 * 8) ∈ t.repairQueue
          ∧ t.parts = u.parts)
    ∧ (dieOn u = true → exec (.sramScrub dt []) s = .next u)

/-! ### Firmware, journal and SMBus (R426 to R448, R483, R495) -/

/-- R426, R441 to R446: FW_WRITE puts bytes into the idle region; VERIFY shows whether its bundle is accepted; ACTIVATE begins
the update or shows the reason of R442; a Steward that does not come back within 2 s fails it; CONFIRM raises FW_SVN and ends
the trial (unless the replay-protected block refuses, R426); REVERT updates back; RECOVER enters RECOVERY. -/
def Obligations.firmware_update : Prop :=
  ∀ (q : QCmd) (off addr len : BitVec 64) (dma : Dma) (dt : Nat) (st : Steward) (s : State),
    let u := qTake q.queue.toNat s
    let w := elapse dt s
    let c := Instr.fwWrite q off addr len dma
    (fromVf q u = true → CmdIs s q c ST_HANDLE_INVALID 0 u)
    ∧ (fromVf q u = false → bundleRoom < off.toNat + len.toNat ∨ u.fw.update ≠ 0 ∨ flaskOn u = false →
        CmdIs s q c ST_CMD_INVALID 0 u)
    ∧ (fromVf q u = false → off.toNat + len.toNat ≤ bundleRoom → u.fw.update = 0 → flaskOn u = true → dma.ok = true →
        dma.data.length = len.toNat → CmdMoves s q c 0 (fun v =>
          (∀ i < len.toNat, regionByte v (1 - u.fw.running) (off.toNat + i) = dma.data.getD i 0)
          ∧ (∀ o, o < off.toNat ∨ off.toNat + len.toNat ≤ o →
              regionByte v (1 - u.fw.running) o = regionByte u (1 - u.fw.running) o)
          ∧ (u.fw.running < 2 → ∀ o, regionByte v u.fw.running o = regionByte u u.fw.running o)
          ∧ fget v FW_STATUS_IDLE_OK = 0 ∧ v = { u with regs := v.regs, fw := v.fw }))
    ∧ (dieOn s = true → flaskOn s = true → ∃ t, exec .fwVerify s = .next t ∧ t = { s with regs := t.regs }
        ∧ (let r := 1 - s.fw.running
          if accepts s r then fget t FW_IDLE_VERSION = bundleVersion s r % 2 ^ 32
              ∧ fget t FW_STATUS_IDLE_OK = b2n (decide (s.fw.fwSvn ≤ bundleSvn s r))
            else fget t FW_STATUS_IDLE_OK = 0 ∧ regGet t FW_IDLE = 0))
    ∧ (dieOn s = true → s.fw.update = 0 →
        (activateReject s = 0 → ∃ t, exec .fwActivate s = .next t ∧ fget t FW_STATUS_REJECT = 0 ∧ fget t FW_STATUS_UPDATING = 1
          ∧ t.fw = { s.fw with update := 1, target := 1 - s.fw.running } ∧ t = { s with regs := t.regs, fw := t.fw })
        ∧ (activateReject s ≠ 0 → exec .fwActivate s = .next (fset FW_STATUS_REJECT (activateReject s) s)))
    ∧ (dieOn w = true → 2000000000 ≤ since w w.fw.resetAt → w.fw.update = 2 → ∃ t, exec (.evFwUpdateFail dt) s = .next t
        ∧ (⟨.fwUpdateFail, 0, w.now⟩ : EvRec) ∈ t.events ∧ t.fw.update = 0 ∧ t.fw.imgN = w.fw.running
        ∧ fget t FW_STATUS_UPDATING = 0 ∧ t.fw.running = w.fw.running)
    ∧ (dieOn s = true → mode s ≠ MODE_RECOVERY → (bootRec s).trial = true → s.fw.update = 0 →
        (∃ t, exec .fwConfirm s = .next t
          ∧ (((bootRec t).trial = false ∧ t.fw.fwSvn = max s.fw.fwSvn (bundleSvn s s.fw.running) ∧ t.fw.oldFmt = none
                ∧ (bootRec t).active = (bootRec s).active)
            ∨ (bootRec t = bootRec s ∧ t.fw.fwSvn = s.fw.fwSvn)) ∧ t.parts = s.parts)
        ∧ (mode s ≠ MODE_SAFE → ∃ t, exec .fwRevert s = .next t ∧ fget t FW_STATUS_UPDATING = 1
            ∧ t = { s with regs := t.regs, fw := { s.fw with update := 1, target := 1 - s.fw.running } }))
    ∧ (recoverable s = true → ∃ t, exec .fwRecover s = .next t ∧ mode t = MODE_RECOVERY ∧ t.parts = [] ∧ t.idReady = false
        ∧ (⟨.stateChange, MODE_RECOVERY, s.now⟩ : EvRec) ∈ t.events)
    ∧ (dieOn w = true → helmHeld w = true → follows w st = true → ∃ t, exec (.mirrorComplete dt st) s = .next t
        ∧ fget t (stewMirror st) = 1 ∧ t.helm.mirror = mirrorOf w
        ∧ t.fw.update = (match st with
          | .n => if w.fw.update = 2 then 3 else w.fw.update
          | .s => if w.fw.update = 4 then 5 else if w.fw.update = 6 then 7 else w.fw.update))

/-- R28, R437, R438, R446, R447, R483, R495: a download takes its length, its bytes and its end, by PCI Express or SMBus; a
bundle that R428 refuses shows ST_FW_SIGNATURE, one that passes starts BOOT. The journal's records go to Flask in one write
and are then committed. SMBus reads what it reaches, and 0 elsewhere. -/
def Obligations.recovery_journal_smbus : Prop :=
  ∀ (v : BitVec 64) (len off : BitVec 32) (bytes : List Byte) (straps : BitVec 5) (dt : Nat) (s : State),
    let n := fieldGet v.toNat 20 0
    let w := elapse dt s
    let starts := fun (c : Instr) (n : Nat) => ∃ t, exec c s = .next t ∧ mode t = MODE_RECOVERY ∧ t.fw.rcvActive = true
      ∧ t.fw.rcvLen = n ∧ t.fw.rcv = [] ∧ fget t FW_RCV_CTRL_DONE = 0 ∧ fget t FW_RCV_CTRL_LENGTH = n
    let ends := fun (c : Instr) => ∃ t, exec c s = .next t ∧ (if bundleOk (mapGet 0 s.fw.rcv) then
        (mode t = MODE_BOOT ∨ mode t = MODE_RECOVERY) ∧ t.parts = []
      else mode t = MODE_RECOVERY ∧ fget t FW_RCV_CTRL_DONE = 1 ∧ fget t FW_RCV_CTRL_RESULT = ST_FW_SIGNATURE
        ∧ t.fw = { s.fw with rcvActive := false })
    (mode s = MODE_RECOVERY → rcvLenOk n = true → v.getLsbD 62 = false → starts (.fwRcvStart v) n)
    ∧ (mode s = MODE_RECOVERY ∨ recoverable s = true → rcvLenOk len.toNat = true → starts (.smbusRecoveryStart len) len.toNat)
    ∧ (mode s = MODE_RECOVERY → s.fw.rcvActive = true → ∃ t, exec (.smbusRecoveryData off bytes) s = .next t
        ∧ t = { s with fw := t.fw } ∧ (∀ i < bytes.length, off.toNat + i < s.fw.rcvLen →
            mapGet 0 t.fw.rcv (off.toNat + i) = bytes.getD i 0)
        ∧ ∀ o, o < off.toNat ∨ off.toNat + bytes.length ≤ o ∨ s.fw.rcvLen ≤ o → mapGet 0 t.fw.rcv o = mapGet 0 s.fw.rcv o)
    ∧ (mode s = MODE_RECOVERY → s.fw.rcvActive = true → ends .smbusRecoveryFinish
        ∧ (v.getLsbD 63 = false → ends (.fwRcvFinish v)))
    ∧ (mode s ≠ MODE_OFF →
        exec (.smbusRead off) s = .next { s with out := .smbus (leBytes 8 (smbusValue s off.toNat)) :: s.out }
        ∧ exec .smbusRecoveryStatus s = .next { s with out := .smbus (leBytes 8 (smbusValue s FW_RCV_CTRL)) :: s.out }
        ∧ exec .smbAlertResponse s = .next { s with power := { s.power with alert := false } }
        ∧ (straps ≠ s.power.straps → exec (.slotIdChange straps) s
          = .next (fset GEN_SLOT_SLOT_CHANGED 1 { s with power := { s.power with straps := straps } }))
        ∧ exec (.slotIdChange s.power.straps) s = .next s)
    ∧ (dieOn s = true → exec (.smbusWrite (BitVec.ofNat 32 THM_STATUS) v) s = .next (regWrite .lantern THM_STATUS v.toNat s))
    ∧ (flaskOn w = true → stewardUp w = true →
        exec (.journalWrite dt) s = .next { w with jWritten := w.jWritten ++ w.jGathered, jGathered := [] }
        ∧ (let a := jArea w w.jActive
          jFill { a with recs := a.recs ++ w.jWritten } < 75 → ∃ t, exec (.journalCommit dt) s = .next t ∧ t.jWritten = []
            ∧ (jArea t w.jActive).recs = a.recs ++ w.jWritten ∧ t.jGathered = w.jGathered
            ∧ fget t FW_JOURNAL_FILL_PCT = jFill (jArea t w.jActive) ∧ t.parts = w.parts))

/-! ### Helm, duty pair, membership and input log (R450 to R471) -/

/-- R450, R451, R453 to R457: a claim takes the helm where the latch is FREE, and is a contest where it is held; of two claims
in one cycle Steward-N's wins. A beat renews, a pass moves the helm to a Steward with a full mirror, a late beat frees it. A
Steward that takes the helm from the other goes on from its mirror. The duty contacts take a level that has stood 10 µs, and
DUTY_OUT follows the conditions of R454. -/
def Obligations.helm_and_duty : Prop :=
  ∀ (dt stood : Nat) (st : Steward) (level : Bool) (s : State),
    let u := elapse dt s
    let n := st == Steward.n
    let free := (stewGet u st).up = true ∧ fbit u (stewHeld st) = false
    (dieOn u = true →
      (helmHeld u = false → free → ∃ t, exec (.helmClaim dt n !n) s = .next t ∧ fget t HLM_HELM_STATE = stewCode st
          ∧ (stewGet t st).beat = u.now
          ∧ (u.helm.last ≠ 0 → u.helm.last ≠ stewCode st → t.windows = u.helm.mirror.windows))
      ∧ (helmHeld u = false → (∀ x, (stewGet u x).up = true ∧ fbit u (stewHeld x) = false) →
          ∃ t, exec (.helmClaim dt true true) s = .next t ∧ fget t HLM_HELM_STATE = 1 ∧ fget t HLM_STATUS_CONTEST = 1
            ∧ (⟨.helmContest, 2, u.now⟩ : EvRec) ∈ t.events)
      ∧ (holds u (stewOther st) = true → beatLate u = false → free → ∃ t, exec (.helmClaim dt n !n) s = .next t
          ∧ fget t HLM_HELM_STATE = stewCode (stewOther st) ∧ fget t HLM_STATUS_CONTEST = 1
          ∧ (⟨.helmContest, stewCode st, u.now⟩ : EvRec) ∈ t.events
          ∧ (2 ≤ recentContests u st → fget t (stewHeld st) = 1 ∧ (stewGet t st).up = false))
      ∧ ((stewGet u st).up = true → holds u st = true →
          exec (.helmBeat dt st) s = .next (stewUpd st (fun x => { x with beat := u.now }) u))
      ∧ (holds u st = true → (stewGet u (stewOther st)).up = true → fbit u (stewMirror (stewOther st)) = true →
          ∃ t, exec (.helmPass dt st) s = .next t ∧ fget t HLM_HELM_STATE = stewCode (stewOther st)
            ∧ t.windows = u.windows ∧ t.parts = u.parts)
      ∧ (beatLate u = true → ∃ t, exec (.evHelmLapse dt) s = .next t ∧ helmHeld t = false ∧ fget t HLM_STATUS_LAPSE = 1
          ∧ t.helm.freeSince = some u.now ∧ (⟨.helmLapse, 0, u.now⟩ : EvRec) ∈ t.events))
    ∧ (dieOn s = true → fbit s (stewHeld st) = true → ∃ t, exec .restartFollower s = .next t ∧ fget t (stewHeld st) = 0
        ∧ (stewGet t st).up = true ∧ (stewGet t st).contests = []
        ∧ (match st with | .n => t.fw.imgN | .s => t.fw.imgS) = s.fw.running)
    ∧ (mode u ≠ MODE_OFF → helmLapseLong u = true → ∃ t, exec (.dutyHoldExpiry dt) s = .next t
        ∧ fget t HLM_DUTY_DUTY_OUT = b2n (dutyFit u) ∧ t = { u with regs := t.regs })
    ∧ (mode u ≠ MODE_OFF → 10000 ≤ stood → exec (.dutyIn dt level stood) s = .next (fset HLM_DUTY_DUTY_IN (b2n level) u)
        ∧ ∃ t, exec (.dutyGrant dt level stood) s = .next t ∧ fget t HLM_DUTY_GRANT = b2n level
          ∧ (fbit u HLM_DUTY_GRANT ≠ level → (⟨.dutyChange, b2n level, u.now⟩ : EvRec) ∈ t.events)
          ∧ (fbit u HLM_DUTY_GRANT = level → t = u))
    ∧ (mode u ≠ MODE_OFF → stood < 10000 → ∀ c ∈ [Instr.dutyIn dt level stood, Instr.dutyGrant dt level stood],
        ∃ t, exec c s = .next t ∧ Beside false false (statBump HLM_STAT_DUTY_GLITCH 1 u) t)

/-- R459 to R463, R467 to R469: a query is answered with the HEALTH word and its nonce, the first 64 of a port in 1 ms; a VOTE
that R461 refuses is answered with 2, another is counted, and the one that completes the quorum acts and raises FENCE_EPOCH;
windows close after 2 s. A manager's key is loaded; HOLD waits for the tick boundary, and RESUME counts with a higher epoch.
-/
def Obligations.membership : Prop :=
  ∀ (dt : Nat) (port : Fin 4) (rq : RcQuery) (vt : RcVote) (cmd : BitVec 8) (q : QCmd) (mgr : BitVec 8) (addr : BitVec 64)
      (dma : Dma) (v : BitVec 64) (s : State),
    let u := elapse dt s
    let a := mapGet (0, 0) u.helm.answers port
    let ms := u.now.toNat / 1000000
    let w := (voteWin u vt.cmd.toNat).getD { openedAt := u.now, mgrs := 0 }
    let mgrs := setBit w.mgrs vt.mgr.toNat true
    let sent := fun (t : State) (mac : BitVec 48) (vlan : Option (BitVec 12)) (typ : Nat) (body : List Byte) => ∃ at_,
      .frame port mac ((vlan.map (fun v => [0x81, 0x00] ++ beBytes 2 v.toNat)).getD [] ++ rollFrame typ body) at_ ∈ t.out
    let answered := fun (t : State) (r n : Nat) => sent t vt.src vt.vlan 4 (leBytes 1 vt.mgr.toNat
      ++ leBytes 1 vt.cmd.toNat ++ leBytes 1 r ++ leBytes 1 n ++ leBytes 8 vt.target.toNat)
    (rollOn u port = true →
      (a.1 ≠ ms ∨ a.2 < 64 → ∃ t rest, exec (.rollcallQuery dt port rq) s = .next t
          ∧ sent t rq.src rq.vlan 2 (leBytes 4 (healthWord u) ++ leBytes 8 rq.nonce.toNat ++ rest)
          ∧ mapGet (0, 0) t.helm.answers port = (ms, (if a.1 = ms then a.2 else 0) + 1) ∧ t.parts = u.parts)
      ∧ (a.1 = ms → 64 ≤ a.2 → ∃ t, exec (.rollcallQuery dt port rq) s = .next t
          ∧ Beside false false (statBump HLM_STAT_FRAME_BAD 1 u) t)
      ∧ (voteRefused u vt = true → ∃ t n, exec (.vote dt port vt) s = .next t ∧ answered t 2 n
          ∧ t.helm = u.helm ∧ fget t HLM_QUORUM_FENCE_EPOCH = fget u HLM_QUORUM_FENCE_EPOCH)
      ∧ (voteRefused u vt = false → bitOf w.mgrs vt.mgr.toNat = false →
          (popCount 7 mgrs < fget u HLM_QUORUM_Q → ∃ t, exec (.vote dt port vt) s = .next t
            ∧ answered t 0 (popCount 7 mgrs) ∧ mapGet none t.helm.windows vt.cmd.toNat = some { w with mgrs := mgrs }
            ∧ fget t HLM_QUORUM_FENCE_EPOCH = fget u HLM_QUORUM_FENCE_EPOCH)
          ∧ (fget u HLM_QUORUM_Q ≤ popCount 7 mgrs → ∃ t, exec (.vote dt port vt) s = .next t
            ∧ fget t HLM_QUORUM_FENCE_EPOCH = (fget u HLM_QUORUM_FENCE_EPOCH + 1) % 2 ^ 32 ∧ t.helm.windows = []
            ∧ (vt.cmd = 1 → fget t HLM_QUORUM_FENCED = 1 ∧ fget t HLM_QUORUM_EXPELLED = 0)
            ∧ (vt.cmd = 2 → fget t HLM_QUORUM_FENCED = 1 ∧ fget t HLM_QUORUM_EXPELLED = 1 ∧ fget t HLM_MEMBER_MEMBER = 0)
            ∧ (vt.cmd = 3 → t.helm.joinPending = true))))
    ∧ (∀ x, mapGet none u.helm.windows cmd.toNat = some x → 2000000000 ≤ since u x.openedAt →
        ∃ t, exec (.voteWindowExpiry dt cmd) s = .next t ∧ mapGet none t.helm.windows cmd.toNat = none
          ∧ (∀ k, k ≠ cmd.toNat → mapGet none t.helm.windows k = mapGet none u.helm.windows k)
          ∧ t = { u with regs := t.regs, helm := t.helm })
    ∧ (let u := qTake q.queue.toNat s
      let c := Instr.mgrKey q mgr 0 addr dma
      (fromVf q u = false → mgr.toNat ≤ 6 → dma.ok = true → 32 ≤ dma.data.length → CmdMoves s q c 0 (fun t =>
          mapGet none t.helm.keys mgr.toNat = some (BitVec.ofNat 256 (ofLe (dma.data.take 32)))
          ∧ (∀ k, k ≠ mgr.toNat → mapGet none t.helm.keys k = mapGet none u.helm.keys k)
          ∧ fget t (HLM_MGR_KEY_SET mgr.toNat) = 1))
      ∧ (fromVf q u = false → 6 < mgr.toNat → CmdIs s q c ST_CMD_INVALID 0 u)
      ∧ (fromVf q u = true → CmdIs s q c ST_HANDLE_INVALID 0 u))
    ∧ (dieOn s = true →
        (∃ t, exec (.jobHold v) s = .next t ∧ fget t HLM_JOB_HOLD = 1 ∧ fget t HLM_JOB_JOB_EPOCH = fieldGet v.toNat 63 32
          ∧ t.helm.holdPending = true ∧ t.helm.resumePending = false ∧ t.helm.holdInForce = s.helm.holdInForce)
        ∧ (fget s HLM_JOB_JOB_EPOCH < fieldGet v.toNat 63 32 → ∃ t, exec (.jobResume v) s = .next t ∧ fget t HLM_JOB_HOLD = 0
          ∧ fget t HLM_JOB_JOB_EPOCH = fieldGet v.toNat 63 32 ∧ t.helm.resumePending = true ∧ t.helm.holdPending = false)
        ∧ (fieldGet v.toNat 63 32 ≤ fget s HLM_JOB_JOB_EPOCH → exec (.jobResume v) s = .next s))

/-- R465 to R467: LOG_APPEND gives the record the next LSN, which it answers, and keeps it in the ring; LOG_READ writes whole
records to host memory; a peer's record that is whole is acknowledged and stored once; an acknowledgement ends the wait for
it, a record unacknowledged for 1 ms is sent again, for 100 ms marks the peer; records beyond RETAIN_S are discarded. -/
def Obligations.input_log : Prop :=
  ∀ (q : QCmd) (kind : BitVec 8) (idx : BitVec 16) (addr len lsn : BitVec 64) (dma : Dma) (dt : Nat) (port : Fin 4)
      (peer : Fin 2) (f : LogFrame) (src : BitVec 48) (origin : BitVec 64) (s : State),
    let u := qTake q.queue.toNat s
    let w := elapse dt s
    let sent := fun (t : State) (p : Nat) (mac : BitVec 48) (typ : Nat) (body : List Byte) =>
      ∃ at_, .frame p mac (rollFrame typ body) at_ ∈ t.out
    let append := Instr.logAppend q kind 0 idx addr len dma
    let read := Instr.logReadCmd q origin lsn addr len dma
    (1048576 < len.toNat → CmdIs s q append ST_LOG_TOO_BIG 0 u)
    ∧ (len.toNat ≤ 1048576 → dma.ok = true → dma.data.length = len.toNat → 64 + len.toNat ≤ logRing u →
        CmdMoves s q append ((fget u HLM_LOG_STATUS_LSN + 1) % 2 ^ 56) (fun v =>
          fget v HLM_LOG_STATUS_LSN = (fget u HLM_LOG_STATUS_LSN + 1) % 2 ^ 56 ∧ v.parts = u.parts ∧ ∃ r, r ∈ v.helm.log
            ∧ r.lsn = BitVec.ofNat 64 (fget u HLM_LOG_STATUS_LSN + 1) ∧ r.data = dma.data ∧ r.origin = moduleId u
            ∧ r.stamp = s.now ∧ r.kind = kind ∧ r.part.toNat = cmdPart q ∧ r.crc.toNat = logCrc r % 2 ^ 32))
    ∧ (let l := logHeld u origin
      (logGone l lsn.toNat = true → CmdIs s q read ST_LOG_GONE 0 u)
      ∧ (logGone l lsn.toNat = false → dma.ok = true →
        let bs := logFit len.toNat (l.filter (fun r => decide (lsn.toNat ≤ r.lsn.toNat)
          && (!fromVf q u || r.part.toNat == cmdPart q)))
        bs.length ≤ len.toNat ∧ CmdMoves s q read bs.length (fun v => v = hostWrite addr.toNat bs u)))
    ∧ (fromVf q u = false → fbit u (HLM_LOG_PEER_EN peer) = true → txPort u .rollcall (fget u (HLM_LOG_PEER_PORT peer)) = true →
        CmdGives s q (.logFetch q origin lsn (BitVec.ofNat 8 peer) []) ST_OK 0 (fun v =>
          sent v (fget u (HLM_LOG_PEER_PORT peer)) (BitVec.ofNat 48 (fget u (HLM_LOG_PEER_MAC peer))) 7
            (leBytes 8 lsn.toNat ++ leBytes 8 origin.toNat) ∧ v.helm.log = u.helm.log))
    ∧ (rollOn w port = true → helmHeld w = true → dieOn w = true →
        (f.off = 0 → f.total.toNat ≤ 9000 → logCrc f.record = f.record.crc.toNat → ∃ t, exec (.logFrame dt port f) s = .next t
          ∧ sent t port f.src 6 (leBytes 8 f.record.lsn.toNat ++ leBytes 8 f.record.origin.toNat)
          ∧ (w.helm.log.any (fun x => x.origin == f.record.origin && x.lsn == f.record.lsn) = true → t.helm.log = w.helm.log)
          ∧ (w.helm.log.any (fun x => x.origin == f.record.origin && x.lsn == f.record.lsn) = false →
              logSize f.record ≤ logRing w → f.record ∈ t.helm.log))
        ∧ ∃ t, exec (.logFetchFrame dt port src lsn origin) s = .next t ∧ t = { w with out := t.out, egress := t.egress }
          ∧ ∀ r ∈ logHeld w origin, lsn.toNat ≤ r.lsn.toNat → ∀ g ∈ logFrags (logBytes r),
              sent t port src 5 (leBytes 8 r.lsn.toNat ++ leBytes 8 r.origin.toNat ++ leBytes 4 g.1
                ++ leBytes 4 (logBytes r).length ++ g.2))
    ∧ (dieOn w = true → helmHeld w = true →
        (∃ t, exec (.logAck dt peer lsn (moduleId w)) s = .next t ∧ fbit t (logLag peer) = false
          ∧ (∀ x ∈ mapGet [] t.helm.peers peer, x.lsn ≠ lsn.toNat)
          ∧ (fbit w (logLag peer) = false → mapGet [] t.helm.peers peer
              = (mapGet [] w.helm.peers peer).filter (fun x => x.lsn != lsn.toNat)))
        ∧ (fbit w (logLag peer) = false → (∃ x ∈ mapGet [] w.helm.peers peer, 100000000 ≤ since w x.firstAt) →
            ∃ t, exec (.evLogPeerLag dt peer) s = .next t ∧ fbit t (logLag peer) = true
              ∧ (⟨.logPeerLag, peer.val, w.now⟩ : EvRec) ∈ t.events ∧ t.helm = w.helm)
        ∧ (∀ x r, (mapGet [] w.helm.peers peer).find? (fun x => x.lsn == lsn.toNat) = some x →
            w.helm.log.find? (fun r => r.origin == moduleId w && r.lsn == lsn) = some r → 1000000 ≤ since w x.sentAt →
            ∃ t, exec (.logRetransmit dt peer lsn) s = .next t ∧ t.helm.log = w.helm.log
              ∧ ∀ y ∈ mapGet [] t.helm.peers peer, y.lsn = lsn.toNat → y.sentAt = w.now)
        ∧ ∃ t, exec (.logRetentionExpiry dt) s = .next t ∧ t = { w with regs := t.regs, helm := t.helm }
          ∧ ∀ r, r ∈ t.helm.log ↔ r ∈ w.helm.log ∧ since w r.stamp ≤ fget w HLM_LOG_CTRL_RETAIN_S * 1000000000)

/-! ### Partitions, windows, Blanket, the tenant view and self-test (R391 to R398, R404 to R414) -/

/-- R404, R405, R407, R409, R410, R413, R414: the operations on partitions, each refused in whole with its code where R404
asks it, else begun: CREATE is complete at once, ADD and REMOVE wait for the tick boundary, DESTROY without an open step drops
what the partition had. Windows are enabled over free memory and scrubbed when they go; the tenant view takes a sample and a
record. -/
def Obligations.partitions : Prop :=
  ∀ (v : BitVec 64) (p w c : Fin 8) (energy : List Nat) (dt : Nat) (s : State),
    let u := elapse dt s
    let n := fieldGet v.toNat 58 56
    let m := fieldGet v.toNat 7 0
    let st := fget s (SEC_PART_STATE n)
    let refused := fun (c : Instr) (code : Nat) => ∃ t, exec c s = .next t ∧ fget t SEC_PART_CMD_DONE = 1
      ∧ fget t SEC_PART_CMD_RESULT = code ∧ fget t SEC_STATUS_CFG_REJECT = 1 ∧ t = { s with regs := t.regs }
      ∧ fget t (SEC_PART_STATE n) = st ∧ fget t (SEC_PART_CLUSTERS n) = fget s (SEC_PART_CLUSTERS n)
    let begun := fun (c : Instr) (op : Nat) => ∃ t, exec c s = .next t ∧ fget t (SEC_PART_STATE n) = PART_CHANGING
      ∧ fget t SEC_PART_CMD_DONE = 0 ∧ fget t SEC_STATUS_CMD_BUSY = 1 ∧ t.secOp = some (op, n, m)
      ∧ (partOf t n).joining = (if op = 2 then m else (partOf s n).joining)
      ∧ (partOf t n).leaving = (if op = 3 then m else (partOf s n).leaving)
      ∧ fget t (SEC_PART_CLUSTERS n) = fget s (SEC_PART_CLUSTERS n)
    (dieOn s = true → v.getLsbD 63 = true → s.secOp = none →
      (st ≠ PART_FREE → refused (.partCreate v) ST_PART_CONFIG)
      ∧ (st = PART_FREE → ∀ k, clustersCheck s m = some k → refused (.partCreate v) k)
      ∧ (st = PART_FREE → clustersCheck s m = none → ∃ t, exec (.partCreate v) s = .next t
          ∧ fget t (SEC_PART_STATE n) = PART_ACTIVE ∧ fget t (SEC_PART_CLUSTERS n) = m ∧ fget t SEC_PART_CMD_RESULT = ST_OK
          ∧ fget t SEC_PART_CMD_DONE = 1 ∧ t.secOp = none ∧ (⟨.partChange, n, s.now⟩ : EvRec) ∈ t.events
          ∧ fget t (MEM_SHARE_NORTH n) = 14 * halfCount m 0 ∧ fget t (TK_PART_VALID n) = 1 ∧ fget t (KV_POOL_VALID n) = 1)
      ∧ (st ≠ PART_ACTIVE → ∀ c ∈ [Instr.partAdd v, .partRemove v, .partDestroy v], refused c ST_PART_CONFIG)
      ∧ (st = PART_ACTIVE → ∀ k, clustersCheck s m = some k → refused (.partAdd v) k)
      ∧ (st = PART_ACTIVE → clustersCheck s m = none → begun (.partAdd v) 2)
      ∧ (st = PART_ACTIVE → removeOk s n m = true → begun (.partRemove v) 3)
      ∧ (st = PART_ACTIVE → removeOk s n m = false → refused (.partRemove v) ST_PART_CONFIG)
      ∧ (st = PART_ACTIVE → (partOf s n).step.isSome = true → begun (.partDestroy v) 4)
      ∧ (st = PART_ACTIVE → (partOf s n).step = none → (partOf s n).pub = none → ∃ t, exec (.partDestroy v) s = .next t
          ∧ fget t (SEC_PART_STATE n) = PART_SCRUBBING ∧ (partOf t n).running = false ∧ (partOf t n).vfDown = true
          ∧ t.secOp = some (4, n, m) ∧ ∀ h x, h ≠ 0 → mapGet none t.tensors h = some x → x.part ≠ n))
    ∧ (dieOn s = true → fbit s (SEC_WIN_EN p w) = false → v.getLsbD 63 = true →
        let b := fieldGet v.toNat 37 26
        let k := fieldGet v.toNat 25 14
        (winEnableOk s p w b k = true → ∃ t, exec (.secWindowWrite p w v) s = .next t ∧ fget t (SEC_WIN_EN p w) = 1
            ∧ fget t (SEC_WIN_BASE p w) = b ∧ fget t (SEC_WIN_SIZE p w) = k ∧ t.scrubs = s.scrubs)
        ∧ (winEnableOk s p w b k = false → exec (.secWindowWrite p w v) s = .next (fset SEC_STATUS_CFG_REJECT 1 s)))
    ∧ (dieOn s = true → fbit s (SEC_WIN_EN p w) = true → v.getLsbD 63 = false →
        let span := (fget s (SEC_WIN_BASE p w) * winUnit, fget s (SEC_WIN_SIZE p w) * winUnit)
        (winEmpty s p span = true → ∃ t, exec (.secWindowWrite p w v) s = .next t ∧ fget t (SEC_WIN_EN p w) = 0
            ∧ fget t (SEC_WIN_SCRUB p w) = 1 ∧ t.scrubs = s.scrubs ++ [{ part := p, win := w, base := span.1, len := span.2 }])
        ∧ (winEmpty s p span = false → exec (.secWindowWrite p w v) s = .next (fset SEC_STATUS_CFG_REJECT 1 s)))
    ∧ (dieOn u = true → bitOf u.uncleared c = true → ∃ t, exec (.blanketClearDone dt c) s = .next t
        ∧ bitOf t.uncleared c = false ∧ (∀ k, k / pagesPerCluster = c → kvEntry t k = 0)
        ∧ (⟨.scrubDone, c.val, u.now⟩ : EvRec) ∈ t.events)
    ∧ (∀ x, u.scrubs.find? (fun x => x.part == p.val && x.win == w.val) = some x → dramOn u = true →
        fget u (MEM_STACK_STATE (stackOf x.base)) ≠ 1 → ∃ t, exec (.evScrubDone dt p w) s = .next t
          ∧ (ringsOk u → ∀ a, x.base ≤ a → a < x.base + x.len → inFwCopy a = false → dramByte t a = 0)
          ∧ (∀ y ∈ t.scrubs, y.part ≠ p.val ∨ y.win ≠ w.val) ∧ (⟨.scrubDone, p.val, u.now⟩ : EvRec) ∈ t.events)
    ∧ (dieOn u = true → fget u (SEC_PART_STATE p) ≠ PART_FREE → ∃ t, exec (.tenantViewSample dt energy) s = .next t
        ∧ (partOf t p).power.toNat % 2 ^ 16 = min 65535 (tenantPower u p energy)
        ∧ (partOf t p).power.toNat / 2 ^ 16 = ((partOf u p).power.toNat / 2 ^ 16 + 1) % 2 ^ 48
        ∧ Beside false false { u with parts := t.parts } t ∧ (partOf t p).step = (partOf u p).step)
    ∧ (dieOn s = true → v.getLsbD 63 = true → ∀ r rest, (mapGet tvEmpty s.tv (2 * p + v.toNat % 2)).recs = r :: rest →
        ∃ t, exec (.secTvRecSel p v) s = .next t ∧ (partOf t p).recData = r
          ∧ mapGet tvEmpty t.tv (2 * p + v.toNat % 2) = { recs := rest, lost := false }
          ∧ t = { s with parts := t.parts, tv := t.tv })

/-- R391, R393, R394, R396 to R398: a request for self-test is queued or refused in whole; a test that ends shows its results,
and a cluster that passes returns to service while one that fails leaves it with its event. MAINT is entered once nothing is
open, and left once nothing runs. -/
def Obligations.self_test : Prop :=
  ∀ (v : BitVec 32) (r : BistResult) (x : BistRun) (dt : Nat) (s : State),
    let u := elapse dt s
    let g := fieldSet v.toNat 31 31 1
    let k := fieldGet v.toNat 10 8
    (dieOn s = true → v.getLsbD 30 = false → v.getLsbD 29 = false →
      mode s = MODE_READY ∨ mode s = MODE_RUN ∨ mode s = MODE_MAINT →
      (bistRefused s g = true → ∃ t, exec (.bistGo v) s = .next t ∧ fget t BIST_STATUS_CFG_REJECT = 1 ∧ t.bist = s.bist)
      ∧ (bistRefused s g = false → ∃ t, exec (.bistGo v) s = .next t
          ∧ (∀ c < 8, v.getLsbD c = true → (c, k) ∈ t.bist.queue ∨ t.bist.run.map (fun y => (y.block, y.kind)) = some (c, k)
              ∨ bistWaits s c = true)
          ∧ (∀ y, s.bist.run = some y → t.bist.run = some y)))
    ∧ (dieOn s = true → v.getLsbD 31 = false → v.getLsbD 29 = false → mode s = MODE_READY ∨ mode s = MODE_RUN →
        ∃ t, exec (.maintEnter v) s = .next t ∧ t.bist = { s.bist with enterPending := true } ∧ mode t = mode s)
    ∧ (u.bist.noAdmit = true → anyStepOpen u = false → mode u = MODE_READY ∨ mode u = MODE_RUN →
        ∃ t, exec (.maintEntry dt) s = .next t ∧ mode t = MODE_MAINT ∧ t.bist.enterPending = false
          ∧ (⟨.stateChange, MODE_MAINT, u.now⟩ : EvRec) ∈ t.events)
    ∧ (dieOn s = true → v.getLsbD 31 = false → v.getLsbD 30 = false → mode s = MODE_MAINT →
        ∃ t, exec (.maintExit v) s = .next t
          ∧ (if s.bist.run.isNone && s.bist.queue.isEmpty && s.bist.sharedQueue.isEmpty then mode t = MODE_READY
              ∧ t.bist.exitPending = false ∧ t.bist.noAdmit = false
            else mode t = MODE_MAINT ∧ t.bist.exitPending = true))
    ∧ (u.bist.run = some x → x.block < 8 → 1 ≤ x.kind → x.kind ≤ 3 → testNs x.block x.kind ≤ since u x.startedAt →
        ∃ t, exec (.bistTestComplete dt r) s = .next t ∧ regGet t (BIST_STAMP x.block) = u.now.toNat
          ∧ bitOf (fget t GEN_AVAIL_CLUSTERS_OK) x.block = r.pass
          ∧ (r.pass = true → (x.kind ≠ 2 → fget t (BIST_RESULT_LOGIC x.block) = 1)
              ∧ (x.kind ≠ 1 → fget t (BIST_RESULT_MEMORY x.block) = 1))
          ∧ (r.pass = false → (⟨.bistFail, x.block, u.now⟩ : EvRec) ∈ t.events))

/-! ### Registers (R14, R191, R215, R216, R228, R248, R306, R329, R360, R384, R401) -/

/-- R191, R215, R216, R248, R360, R384, R401: a selector with GO latches what it names and sets DONE, with ERR where it names
nothing; while a publish window is open the snapshot waits. A range of the request table is taken where it clashes with none;
engine and sensor records are cleared in MAINT after the tests passed. -/
def Obligations.selectors : Prop :=
  ∀ (v : BitVec 64) (c : BitVec 32) (p : Fin 8) (s : State), dieOn s = true →
    let r := fieldGet v.toNat 43 32
    let h := fieldGet v.toNat 31 0
    let i := fieldGet v.toNat 11 0
    let e := fieldGet v.toNat 7 0
    let win := mapGet none s.windows (256 * fieldGet v.toNat 61 61 + e)
    (v.getLsbD 63 = true → windowOpen s = false → fbit s SRV_STATUS_SEL_BUSY = false → ∃ t, exec (.kvCtxSel v) s = .next t
        ∧ t = { s with regs := t.regs } ∧ fget t KV_CTX_SEL_DONE = 1 ∧ fget t KV_STATUS_CTX_BUSY = 0
        ∧ fget t KV_CTX_SEL_ERR = b2n (!ctxExists s r h)
        ∧ (ctxExists s r h = true → regGet t (KV_CTX_DATA 0) = ctxWord (ctxGet s r h) r h % 2 ^ 64
            ∧ regGet t (KV_CTX_DATA 1) = ctxWord (ctxGet s r h) r h / 2 ^ 64 % 2 ^ 64))
    ∧ (v.getLsbD 63 = true → windowOpen s = true → ∃ t, exec (.kvCtxSel v) s = .next t ∧ fget t KV_CTX_SEL_DONE = 0
        ∧ fget t KV_STATUS_CTX_BUSY = 1 ∧ regGet t (KV_CTX_DATA 0) = regGet s (KV_CTX_DATA 0))
    ∧ (v.getLsbD 63 = true → windowOpen s = false → fbit s KV_STATUS_CTX_BUSY = false → ∃ t, exec (.srvReqSel v) s = .next t
        ∧ t = { s with regs := t.regs } ∧ fget t SRV_REQ_SEL_DONE = 1 ∧ fget t SRV_STATUS_SEL_BUSY = 0
        ∧ fget t SRV_REQ_SEL_ERR = b2n (rqState (reqGet s i) == RQ_FREE)
        ∧ (rqState (reqGet s i) ≠ RQ_FREE → regGet t (SRV_REQ_DATA 0) = (reqGet s i).w0.toNat
            ∧ regGet t (SRV_REQ_DATA 3) = (reqGet s i).w3.toNat ∧ regGet t (SRV_REQ_DATA 7) = (reqGet s i).w7.toNat))
    ∧ (v.getLsbD 63 = true → ∃ t, exec (.rasEngSel v) s = .next t ∧ t = { s with regs := t.regs } ∧ fget t RAS_ENG_SEL_DONE = 1
        ∧ fget t RAS_ENG_DATA_COUNT = min 15 ((win.map (fun w => w.reports)).getD []).length
        ∧ regGet t RAS_ENG_WIN = (win.map (fun w => w.openedAt.toNat)).getD 0
        ∧ (fieldGet v.toNat 61 61 = 0 → fget t RAS_ENG_DATA_STATE = (healthOf s e).state % 4))
    ∧ (v.getLsbD 63 = true → ∃ t, exec (.plcEngSel v) s = .next t ∧ t = { s with regs := t.regs } ∧ fget t PLC_ENG_SEL_DONE = 1
        ∧ fget t PLC_ENG_DATA_HOTSPOT = e / 8 ∧ fget t PLC_ENG_DATA_FORECAST = fget s (THM_FC_PEAK (e / 8))
        ∧ fget t PLC_ENG_DATA_STATE = (healthOf s e).state % 4)
    ∧ (v.getLsbD 63 = true → ∃ t, exec (.plcHintSel v) s = .next t ∧ t = { s with regs := t.regs } ∧ fget t PLC_HINT_SEL_DONE = 1
        ∧ (match mapGet none s.tensors h with
          | some x => if x.part = fieldGet v.toNat 42 40 then fget t PLC_HINT_SEL_ERR = 0
              ∧ fget t PLC_HINT_DATA_LEVEL = x.level % 4 ∧ fget t PLC_HINT_DATA_DECLINES = min 65535 x.declines
              else fget t PLC_HINT_SEL_ERR = 1
          | none => fget t PLC_HINT_SEL_ERR = 1))
    ∧ (let b := fieldGet v.toNat 11 0
      let n := fieldGet v.toNat 28 16
      let ok := b + n ≤ 4096 ∧ rangeClash s p b n = false ∧ (reqsOf s p).all (fun i => decide (b ≤ i ∧ i < b + n)) = true
      (ok → ∃ t, exec (.srvPart p v) s = .next t ∧ fget t (SRV_PART_BASE p) = b ∧ fget t (SRV_PART_COUNT p) = n ∧ t.reqs = s.reqs)
      ∧ (¬ok → exec (.srvPart p v) s = .next (fset SRV_STATUS_CFG_REJECT 1 s)))
    ∧ (let x := fieldGet c.toNat 7 0
      c.getLsbD 31 = true →
        (mode s = MODE_MAINT → bitOf s.bist.passedLogic (x / 32) = true → ∃ t, exec (.rasEngClr c) s = .next t
          ∧ healthOf t x = healthFresh ∧ ∀ j, j ≠ x → healthOf t j = healthOf s j)
        ∧ (mode s ≠ MODE_MAINT → exec (.rasEngClr c) s = .next (fset RAS_STATUS_CFG_REJECT 1 s)
            ∧ exec (.thmSensorClr c) s = .next s))
    ∧ (let x := fieldGet c.toNat 4 0
      c.getLsbD 31 = true → mode s = MODE_MAINT → bitOf s.bist.passedCalib (x / 4) = true →
        ∃ t, exec (.thmSensorClr c) s = .next t ∧ fget t (THM_HS_DIODE_SUSPECT x) = 0 ∧ fget t (THM_HS_RING_SUSPECT x) = 0
          ∧ fget t (THM_HS_BOTH_BAD x) = 0 ∧ fget t (THM_HS_RULING x) = fget s (THM_HS_RULING x))

/-- R14, R228, R306, R329: a write of a setting takes a value in its range and no other; a STAT counter clears with CLR; an
access of a wrong size or alignment is a violation of class 0x05 and writes nothing, as is one of a VF that is gone an
Unsupported Request. Credits add up to 65 535, by ARM or by TK_ARM. (Log 47: which widths compose.) -/
def Obligations.registers : Prop :=
  ∀ (a : Agent) (off : BitVec 32) (size : Nat) (v : BitVec 64) (n : Fin 8) (q : QCmd) (k : BitVec 32) (s : State),
    let u := qTake q.queue.toNat s
    let o := off.toNat
    (dieOn s = true →
      (mode s ≠ MODE_RECOVERY →
        (v.toNat % 2 ^ 32 < 1 ∨ 1000000 < v.toNat % 2 ^ 32 → ∃ t, exec (.registerWrite .pf (BitVec.ofNat 32 TB_STEP_THRESH) 4 v) s
            = .next t ∧ ∀ r, regGet t r = regGet s r)
        ∧ (1 ≤ v.toNat % 2 ^ 32 → v.toNat % 2 ^ 32 ≤ 1000000 →
            ∃ t, exec (.registerWrite .pf (BitVec.ofNat 32 TB_STEP_THRESH) 4 v) s = .next t
              ∧ fget t TB_STEP_THRESH_US = v.toNat % 2 ^ 32 ∧ ∀ r, r ≠ TB_STEP_THRESH → regGet t r = regGet s r))
      ∧ ((size ≠ 4 ∧ size ≠ 8) ∨ o % size ≠ 0 → agentFunc a = some none →
          ∃ t, exec (.registerWrite a off size v) s = .next t ∧ fget t NET_STATUS_HL_ERR = 1
            ∧ (fbit s NET_HL_STATUS_CAPTURED = false → (⟨.hostLinkErr, 5, s.now⟩ : EvRec) ∈ t.events) ∧ t.parts = s.parts ∧ t.tensors = s.tensors ∧ t.queues = s.queues)
      ∧ (s.power.vfEnabled = false → (size = 4 ∨ size = 8) → o % size = 0 → ∃ t, exec (.registerWrite (.vf n) off size v) s = .next t
          ∧ Beside false false (statBump NET_STAT_UR 1 { s with out := .unsupported :: s.out }) t)
      ∧ (blockOn s o = true → isStat o = true → v.getLsbD 62 = true →
          exec (.statClear off v) s = .next (regSet o 0 s) ∧ regGet (regSet o 0 s) o = 0)
      ∧ (v.getLsbD 62 = false → exec (.statClear off v) s = .next s)
      ∧ (fbit s (TK_PART_VALID n) = true → ∃ t, exec (.tkArmAdd n k) s = .next t ∧ t = { s with regs := t.regs }
          ∧ fget t (TK_PART_CREDITS n) = min 65535 (fget s (TK_PART_CREDITS n) + fieldGet k.toNat 15 0)))
    ∧ (fbit u (TK_PART_VALID (cmdPart q)) = true → CmdGives s q (.armCmd q k) ST_OK 0 (fun t => t = { u with regs := t.regs }
        ∧ fget t (TK_PART_CREDITS (cmdPart q)) = min 65535 (fget u (TK_PART_CREDITS (cmdPart q)) + k.toNat)))

end
end

