-- ==== Sys2Proof/Laws/Map.lean ====
section
/-!
SUPPORT. The laws of finite maps: a read after a write, writes at the same key, and that every write keeps the canonical
form.
-/
namespace Sys2Proof.Machine

variable {α : Type} {d : α}

theorem mapGet_mapErase_same (m : SMap α) (k : Nat) : mapGet d (mapErase m k) k = d := by
  induction m with
  | nil => rfl
  | cons e m ih => obtain ⟨k', v⟩ := e; by_cases h : k' = k <;> simp_all [mapErase, mapGet]

theorem mapGet_mapErase_other (m : SMap α) {k j : Nat} (h : j ≠ k) : mapGet d (mapErase m k) j = mapGet d m j := by
  induction m with
  | nil => rfl
  | cons e m ih =>
    obtain ⟨k', v⟩ := e
    by_cases hk : k' = k
    · subst hk
      simp [mapErase, mapGet, ih, Ne.symm h]
    · simp [mapErase, mapGet, ih, hk]

theorem mapGet_mapInsert_same (m : SMap α) (k : Nat) (v : α) (h : mapErase m k = m) : mapGet d (mapInsert m k v) k = v := by
  induction m with
  | nil => simp [mapInsert, mapGet]
  | cons e m ih =>
    obtain ⟨k', w⟩ := e
    have hk : k' ≠ k := by
      rintro rfl
      have h2 : (mapErase m k').length ≤ m.length := by
        clear h ih
        induction m with
        | nil => simp [mapErase]
        | cons e m ih => obtain ⟨k, v⟩ := e; by_cases h : k = k' <;> simp [mapErase, h] <;> omega
      have h3 := congrArg List.length h
      simp [mapErase] at h3
      omega
    have hm : mapErase m k = m := by simpa [mapErase, hk] using h
    by_cases hl : k < k'
    · simp [mapInsert, hl, mapGet]
    · simp [mapInsert, hl, mapGet, hk, ih hm]

theorem mapErase_mapErase (m : SMap α) (k : Nat) : mapErase (mapErase m k) k = mapErase m k := by
  induction m with
  | nil => rfl
  | cons e m ih => obtain ⟨k', v⟩ := e; by_cases h : k' = k <;> simp [mapErase, h, ih]

theorem mapErase_mapInsert (m : SMap α) (k : Nat) (v : α) : mapErase (mapInsert m k v) k = mapErase m k := by
  induction m with
  | nil => simp [mapInsert, mapErase]
  | cons e m ih =>
    obtain ⟨k', w⟩ := e
    by_cases hl : k < k'
    · simp [mapInsert, hl, mapErase]
    · by_cases hk : k' = k <;> simp [mapInsert, hl, mapErase, hk, ih]

theorem mapGet_mapInsert_other (m : SMap α) {k j : Nat} (v : α) (h : j ≠ k) :
    mapGet d (mapInsert m k v) j = mapGet d m j := by
  induction m with
  | nil => simp [mapInsert, mapGet, Ne.symm h]
  | cons e m ih =>
    obtain ⟨k', w⟩ := e
    by_cases hl : k < k' <;> simp [mapInsert, hl, mapGet, Ne.symm h, ih]

/-- A read at the key written gives the value written. -/
@[simp] theorem mapGet_mapSet_same [DecidableEq α] (m : SMap α) (k : Nat) (v : α) : mapGet d (mapSet d m k v) k = v := by
  unfold mapSet
  split
  · rename_i h; rw [mapGet_mapErase_same, h]
  · exact mapGet_mapInsert_same _ _ _ (mapErase_mapErase m k)

/-- A read at any other key gives what it gave before. -/
@[simp] theorem mapGet_mapSet_other [DecidableEq α] (m : SMap α) {k j : Nat} (v : α) (h : j ≠ k) :
    mapGet d (mapSet d m k v) j = mapGet d m j := by
  unfold mapSet
  split
  · exact mapGet_mapErase_other m h
  · rw [mapGet_mapInsert_other _ _ h, mapGet_mapErase_other m h]

theorem mapGet_mapSet [DecidableEq α] (m : SMap α) (k j : Nat) (v : α) :
    mapGet d (mapSet d m k v) j = if j = k then v else mapGet d m j := by
  by_cases h : j = k
  · subst h; simp
  · simp [h]

/-- Of two writes at one key the later stands. -/
@[simp] theorem mapSet_mapSet [DecidableEq α] (m : SMap α) (k : Nat) (v w : α) : mapSet d (mapSet d m k v) k w = mapSet d m k w := by
  have h : mapErase (mapSet d m k v) k = mapErase m k := by
    unfold mapSet
    split
    · exact mapErase_mapErase m k
    · rw [mapErase_mapInsert, mapErase_mapErase]
  generalize mapSet d m k v = m' at h ⊢
  simp only [mapSet, h]

/-! ### The canonical form -/

theorem mapAbove_trans {k j : Nat} (m : SMap α) (h : k ≤ j) (hm : mapAbove j m = true) : mapAbove k m = true := by
  induction m with
  | nil => rfl
  | cons e m ih =>
    obtain ⟨k', v⟩ := e
    simp only [mapAbove, Bool.and_eq_true, decide_eq_true_eq] at hm ⊢
    exact ⟨by omega, ih hm.2⟩

theorem mapAbove_mapErase {j : Nat} (m : SMap α) (k : Nat) (hm : mapAbove j m = true) :
    mapAbove j (mapErase m k) = true := by
  induction m with
  | nil => rfl
  | cons e m ih =>
    obtain ⟨k', v⟩ := e
    simp only [mapAbove, Bool.and_eq_true, decide_eq_true_eq] at hm
    by_cases h : k' = k <;> simp [mapErase, h, mapAbove, ih hm.2] <;> omega

theorem mapAbove_mapInsert {j : Nat} (m : SMap α) (k : Nat) (v : α) (hk : j < k) (hm : mapAbove j m = true) :
    mapAbove j (mapInsert m k v) = true := by
  induction m with
  | nil => simp [mapInsert, mapAbove, hk]
  | cons e m ih =>
    obtain ⟨k', w⟩ := e
    have hm' := hm
    simp only [mapAbove, Bool.and_eq_true, decide_eq_true_eq] at hm
    by_cases h : k < k'
    · simp only [mapInsert, h, if_true, mapAbove, Bool.and_eq_true, decide_eq_true_eq]
      exact ⟨hk, hm.1, hm.2⟩
    · simp [mapInsert, h, mapAbove, hm.1, ih hm.2]

theorem mapWf_mapErase [DecidableEq α] (m : SMap α) (k : Nat) (h : mapWf d m = true) : mapWf d (mapErase m k) = true := by
  induction m with
  | nil => rfl
  | cons e m ih =>
    obtain ⟨k', v⟩ := e
    simp only [mapWf, Bool.and_eq_true, decide_eq_true_eq] at h
    by_cases hk : k' = k
    · simp [mapErase, hk, ih h.2]
    · simp only [mapErase, hk, if_false, mapWf, Bool.and_eq_true, decide_eq_true_eq]
      exact ⟨⟨h.1.1, mapAbove_mapErase m k h.1.2⟩, ih h.2⟩

theorem mapWf_mapInsert [DecidableEq α] (m : SMap α) (k : Nat) (v : α) (hv : v ≠ d) (hk : ∀ e ∈ m, e.1 ≠ k) (h : mapWf d m = true) :
    mapWf d (mapInsert m k v) = true := by
  induction m with
  | nil => simp [mapInsert, mapWf, mapAbove, hv]
  | cons e m ih =>
    obtain ⟨k', w⟩ := e
    have hne : k' ≠ k := hk (k', w) (by simp)
    simp only [mapWf, Bool.and_eq_true, decide_eq_true_eq] at h
    by_cases hl : k < k'
    · simp only [mapInsert, hl, if_true, mapWf, mapAbove, Bool.and_eq_true, decide_eq_true_eq]
      exact ⟨⟨hv, trivial, mapAbove_trans m (by omega) h.1.2⟩, h.1, h.2⟩
    · simp only [mapInsert, hl, if_false, mapWf, Bool.and_eq_true, decide_eq_true_eq]
      exact ⟨⟨h.1.1, mapAbove_mapInsert m k v (by omega) h.1.2⟩, ih (fun e he => hk e (by simp [he])) h.2⟩

theorem mapErase_free (m : SMap α) (k : Nat) : ∀ e ∈ mapErase m k, e.1 ≠ k := by
  induction m with
  | nil => simp [mapErase]
  | cons e m ih =>
    obtain ⟨k', v⟩ := e
    by_cases hk : k' = k
    · simpa [mapErase, hk] using ih
    · intro e he
      simp only [mapErase, hk, if_false, List.mem_cons] at he
      rcases he with rfl | he
      · exact hk
      · exact ih e he

/-- Every write keeps the canonical form. -/
theorem mapWf_mapSet [DecidableEq α] (m : SMap α) (k : Nat) (v : α) (h : mapWf d m = true) : mapWf d (mapSet d m k v) = true := by
  unfold mapSet
  split
  · exact mapWf_mapErase m k h
  · rename_i hv
    exact mapWf_mapInsert _ k v hv (mapErase_free m k) (mapWf_mapErase m k h)

theorem mapWf_mapUpd [DecidableEq α] (m : SMap α) (k : Nat) (f : α → α) (h : mapWf d m = true) : mapWf d (mapUpd d m k f) = true :=
  mapWf_mapSet m k _ h

theorem mapAbove_filter {j : Nat} (m : SMap α) (q : Nat × α → Bool) (h : mapAbove j m = true) :
    mapAbove j (m.filter q) = true := by
  induction m with
  | nil => rfl
  | cons e m ih =>
    obtain ⟨k, v⟩ := e
    simp only [mapAbove, Bool.and_eq_true, decide_eq_true_eq] at h
    by_cases hq : q (k, v) <;> simp [hq, mapAbove, ih h.2, h.1]

/-- Dropping entries keeps the canonical form. -/
theorem mapWf_filter [DecidableEq α] (m : SMap α) (q : Nat × α → Bool) (h : mapWf d m = true) : mapWf d (m.filter q) = true := by
  induction m with
  | nil => rfl
  | cons e m ih =>
    obtain ⟨k, v⟩ := e
    simp only [mapWf, Bool.and_eq_true, decide_eq_true_eq] at h
    by_cases hq : q (k, v)
    · simp only [List.filter_cons, hq, if_true, mapWf, Bool.and_eq_true, decide_eq_true_eq]
      exact ⟨⟨h.1.1, mapAbove_filter m q h.1.2⟩, ih h.2⟩
    · simp [hq, ih h.2]

end Sys2Proof.Machine
end

