-- ==== Sys2Proof/Laws/State.lean ====
section
/-!
SUPPORT. What each named update leaves in every field of State, true by rfl; and what a register, a partition or a request
reads after it has been set.
-/
namespace Sys2Proof.Machine

/-! ### regSet -/

@[simp] theorem regSet_now (o v : Nat) (s : State) : (regSet o v s).now = s.now := rfl
@[simp] theorem regSet_cyc (o v : Nat) (s : State) : (regSet o v s).cyc = s.cyc := rfl
@[simp] theorem regSet_free (o v : Nat) (s : State) : (regSet o v s).free = s.free := rfl
@[simp] theorem regSet_pending (o v : Nat) (s : State) : (regSet o v s).pending = s.pending := rfl
@[simp] theorem regSet_out (o v : Nat) (s : State) : (regSet o v s).out = s.out := rfl
@[simp] theorem regSet_events (o v : Nat) (s : State) : (regSet o v s).events = s.events := rfl
@[simp] theorem regSet_hostMem (o v : Nat) (s : State) : (regSet o v s).hostMem = s.hostMem := rfl
@[simp] theorem regSet_parts (o v : Nat) (s : State) : (regSet o v s).parts = s.parts := rfl
@[simp] theorem regSet_tensors (o v : Nat) (s : State) : (regSet o v s).tensors = s.tensors := rfl
@[simp] theorem regSet_nextHandle (o v : Nat) (s : State) : (regSet o v s).nextHandle = s.nextHandle := rfl
@[simp] theorem regSet_acxHandles (o v : Nat) (s : State) : (regSet o v s).acxHandles = s.acxHandles := rfl
@[simp] theorem regSet_kvEntries (o v : Nat) (s : State) : (regSet o v s).kvEntries = s.kvEntries := rfl
@[simp] theorem regSet_kvCtxs (o v : Nat) (s : State) : (regSet o v s).kvCtxs = s.kvCtxs := rfl
@[simp] theorem regSet_kvLow (o v : Nat) (s : State) : (regSet o v s).kvLow = s.kvLow := rfl
@[simp] theorem regSet_kvStamps (o v : Nat) (s : State) : (regSet o v s).kvStamps = s.kvStamps := rfl
@[simp] theorem regSet_reqs (o v : Nat) (s : State) : (regSet o v s).reqs = s.reqs := rfl
@[simp] theorem regSet_traceSeq (o v : Nat) (s : State) : (regSet o v s).traceSeq = s.traceSeq := rfl
@[simp] theorem regSet_tvSeq (o v : Nat) (s : State) : (regSet o v s).tvSeq = s.tvSeq := rfl
@[simp] theorem regSet_tv (o v : Nat) (s : State) : (regSet o v s).tv = s.tv := rfl
@[simp] theorem regSet_health (o v : Nat) (s : State) : (regSet o v s).health = s.health := rfl
@[simp] theorem regSet_windows (o v : Nat) (s : State) : (regSet o v s).windows = s.windows := rfl
@[simp] theorem regSet_sramCe (o v : Nat) (s : State) : (regSet o v s).sramCe = s.sramCe := rfl
@[simp] theorem regSet_sramPoison (o v : Nat) (s : State) : (regSet o v s).sramPoison = s.sramPoison := rfl
@[simp] theorem regSet_repairQueue (o v : Nat) (s : State) : (regSet o v s).repairQueue = s.repairQueue := rfl
@[simp] theorem regSet_dram (o v : Nat) (s : State) : (regSet o v s).dram = s.dram := rfl
@[simp] theorem regSet_flaskMem (o v : Nat) (s : State) : (regSet o v s).flaskMem = s.flaskMem := rfl
@[simp] theorem regSet_poison (o v : Nat) (s : State) : (regSet o v s).poison = s.poison := rfl
@[simp] theorem regSet_dramErrs (o v : Nat) (s : State) : (regSet o v s).dramErrs = s.dramErrs := rfl
@[simp] theorem regSet_remapped (o v : Nat) (s : State) : (regSet o v s).remapped = s.remapped := rfl
@[simp] theorem regSet_hbm (o v : Nat) (s : State) : (regSet o v s).hbm = s.hbm := rfl
@[simp] theorem regSet_dueCount (o v : Nat) (s : State) : (regSet o v s).dueCount = s.dueCount := rfl
@[simp] theorem regSet_heldAccs (o v : Nat) (s : State) : (regSet o v s).heldAccs = s.heldAccs := rfl
@[simp] theorem regSet_deferred (o v : Nat) (s : State) : (regSet o v s).deferred = s.deferred := rfl
@[simp] theorem regSet_edcCtx (o v : Nat) (s : State) : (regSet o v s).edcCtx = s.edcCtx := rfl
@[simp] theorem regSet_edcLockAt (o v : Nat) (s : State) : (regSet o v s).edcLockAt = s.edcLockAt := rfl
@[simp] theorem regSet_msixOn (o v : Nat) (s : State) : (regSet o v s).msixOn = s.msixOn := rfl
@[simp] theorem regSet_vecOpen (o v : Nat) (s : State) : (regSet o v s).vecOpen = s.vecOpen := rfl
@[simp] theorem regSet_msixHeld (o v : Nat) (s : State) : (regSet o v s).msixHeld = s.msixHeld := rfl
@[simp] theorem regSet_retention (o v : Nat) (s : State) : (regSet o v s).retention = s.retention := rfl
@[simp] theorem regSet_queues (o v : Nat) (s : State) : (regSet o v s).queues = s.queues := rfl
@[simp] theorem regSet_slots (o v : Nat) (s : State) : (regSet o v s).slots = s.slots := rfl
@[simp] theorem regSet_qps (o v : Nat) (s : State) : (regSet o v s).qps = s.qps := rfl
@[simp] theorem regSet_mrs (o v : Nat) (s : State) : (regSet o v s).mrs = s.mrs := rfl
@[simp] theorem regSet_egress (o v : Nat) (s : State) : (regSet o v s).egress = s.egress := rfl
@[simp] theorem regSet_postNo (o v : Nat) (s : State) : (regSet o v s).postNo = s.postNo := rfl
@[simp] theorem regSet_acxRx (o v : Nat) (s : State) : (regSet o v s).acxRx = s.acxRx := rfl
@[simp] theorem regSet_spots (o v : Nat) (s : State) : (regSet o v s).spots = s.spots := rfl
@[simp] theorem regSet_therm (o v : Nat) (s : State) : (regSet o v s).therm = s.therm := rfl
@[simp] theorem regSet_time (o v : Nat) (s : State) : (regSet o v s).time = s.time := rfl
@[simp] theorem regSet_wrapped (o v : Nat) (s : State) : (regSet o v s).wrapped = s.wrapped := rfl
@[simp] theorem regSet_idReady (o v : Nat) (s : State) : (regSet o v s).idReady = s.idReady := rfl
@[simp] theorem regSet_uncleared (o v : Nat) (s : State) : (regSet o v s).uncleared = s.uncleared := rfl
@[simp] theorem regSet_scrubs (o v : Nat) (s : State) : (regSet o v s).scrubs = s.scrubs := rfl
@[simp] theorem regSet_secOp (o v : Nat) (s : State) : (regSet o v s).secOp = s.secOp := rfl
@[simp] theorem regSet_fw (o v : Nat) (s : State) : (regSet o v s).fw = s.fw := rfl
@[simp] theorem regSet_jArea0 (o v : Nat) (s : State) : (regSet o v s).jArea0 = s.jArea0 := rfl
@[simp] theorem regSet_jArea1 (o v : Nat) (s : State) : (regSet o v s).jArea1 = s.jArea1 := rfl
@[simp] theorem regSet_jActive (o v : Nat) (s : State) : (regSet o v s).jActive = s.jActive := rfl
@[simp] theorem regSet_jGathered (o v : Nat) (s : State) : (regSet o v s).jGathered = s.jGathered := rfl
@[simp] theorem regSet_jWritten (o v : Nat) (s : State) : (regSet o v s).jWritten = s.jWritten := rfl
@[simp] theorem regSet_jSeq (o v : Nat) (s : State) : (regSet o v s).jSeq = s.jSeq := rfl
@[simp] theorem regSet_jGatherAt (o v : Nat) (s : State) : (regSet o v s).jGatherAt = s.jGatherAt := rfl
@[simp] theorem regSet_helm (o v : Nat) (s : State) : (regSet o v s).helm = s.helm := rfl
@[simp] theorem regSet_bist (o v : Nat) (s : State) : (regSet o v s).bist = s.bist := rfl
@[simp] theorem regSet_power (o v : Nat) (s : State) : (regSet o v s).power = s.power := rfl

/-! ### freeUse -/

@[simp] theorem freeUse_now (n : Nat) (s : State) : (freeUse n s).now = s.now := rfl
@[simp] theorem freeUse_cyc (n : Nat) (s : State) : (freeUse n s).cyc = s.cyc := rfl
@[simp] theorem freeUse_free (n : Nat) (s : State) : (freeUse n s).free = s.free + n := rfl
@[simp] theorem freeUse_regs (n : Nat) (s : State) : (freeUse n s).regs = s.regs := rfl
@[simp] theorem freeUse_pending (n : Nat) (s : State) : (freeUse n s).pending = s.pending := rfl
@[simp] theorem freeUse_out (n : Nat) (s : State) : (freeUse n s).out = s.out := rfl
@[simp] theorem freeUse_events (n : Nat) (s : State) : (freeUse n s).events = s.events := rfl
@[simp] theorem freeUse_hostMem (n : Nat) (s : State) : (freeUse n s).hostMem = s.hostMem := rfl
@[simp] theorem freeUse_parts (n : Nat) (s : State) : (freeUse n s).parts = s.parts := rfl
@[simp] theorem freeUse_tensors (n : Nat) (s : State) : (freeUse n s).tensors = s.tensors := rfl
@[simp] theorem freeUse_nextHandle (n : Nat) (s : State) : (freeUse n s).nextHandle = s.nextHandle := rfl
@[simp] theorem freeUse_acxHandles (n : Nat) (s : State) : (freeUse n s).acxHandles = s.acxHandles := rfl
@[simp] theorem freeUse_kvEntries (n : Nat) (s : State) : (freeUse n s).kvEntries = s.kvEntries := rfl
@[simp] theorem freeUse_kvCtxs (n : Nat) (s : State) : (freeUse n s).kvCtxs = s.kvCtxs := rfl
@[simp] theorem freeUse_kvLow (n : Nat) (s : State) : (freeUse n s).kvLow = s.kvLow := rfl
@[simp] theorem freeUse_kvStamps (n : Nat) (s : State) : (freeUse n s).kvStamps = s.kvStamps := rfl
@[simp] theorem freeUse_reqs (n : Nat) (s : State) : (freeUse n s).reqs = s.reqs := rfl
@[simp] theorem freeUse_traceSeq (n : Nat) (s : State) : (freeUse n s).traceSeq = s.traceSeq := rfl
@[simp] theorem freeUse_tvSeq (n : Nat) (s : State) : (freeUse n s).tvSeq = s.tvSeq := rfl
@[simp] theorem freeUse_tv (n : Nat) (s : State) : (freeUse n s).tv = s.tv := rfl
@[simp] theorem freeUse_health (n : Nat) (s : State) : (freeUse n s).health = s.health := rfl
@[simp] theorem freeUse_windows (n : Nat) (s : State) : (freeUse n s).windows = s.windows := rfl
@[simp] theorem freeUse_sramCe (n : Nat) (s : State) : (freeUse n s).sramCe = s.sramCe := rfl
@[simp] theorem freeUse_sramPoison (n : Nat) (s : State) : (freeUse n s).sramPoison = s.sramPoison := rfl
@[simp] theorem freeUse_repairQueue (n : Nat) (s : State) : (freeUse n s).repairQueue = s.repairQueue := rfl
@[simp] theorem freeUse_dram (n : Nat) (s : State) : (freeUse n s).dram = s.dram := rfl
@[simp] theorem freeUse_flaskMem (n : Nat) (s : State) : (freeUse n s).flaskMem = s.flaskMem := rfl
@[simp] theorem freeUse_poison (n : Nat) (s : State) : (freeUse n s).poison = s.poison := rfl
@[simp] theorem freeUse_dramErrs (n : Nat) (s : State) : (freeUse n s).dramErrs = s.dramErrs := rfl
@[simp] theorem freeUse_remapped (n : Nat) (s : State) : (freeUse n s).remapped = s.remapped := rfl
@[simp] theorem freeUse_hbm (n : Nat) (s : State) : (freeUse n s).hbm = s.hbm := rfl
@[simp] theorem freeUse_dueCount (n : Nat) (s : State) : (freeUse n s).dueCount = s.dueCount := rfl
@[simp] theorem freeUse_heldAccs (n : Nat) (s : State) : (freeUse n s).heldAccs = s.heldAccs := rfl
@[simp] theorem freeUse_deferred (n : Nat) (s : State) : (freeUse n s).deferred = s.deferred := rfl
@[simp] theorem freeUse_edcCtx (n : Nat) (s : State) : (freeUse n s).edcCtx = s.edcCtx := rfl
@[simp] theorem freeUse_edcLockAt (n : Nat) (s : State) : (freeUse n s).edcLockAt = s.edcLockAt := rfl
@[simp] theorem freeUse_msixOn (n : Nat) (s : State) : (freeUse n s).msixOn = s.msixOn := rfl
@[simp] theorem freeUse_vecOpen (n : Nat) (s : State) : (freeUse n s).vecOpen = s.vecOpen := rfl
@[simp] theorem freeUse_msixHeld (n : Nat) (s : State) : (freeUse n s).msixHeld = s.msixHeld := rfl
@[simp] theorem freeUse_retention (n : Nat) (s : State) : (freeUse n s).retention = s.retention := rfl
@[simp] theorem freeUse_queues (n : Nat) (s : State) : (freeUse n s).queues = s.queues := rfl
@[simp] theorem freeUse_slots (n : Nat) (s : State) : (freeUse n s).slots = s.slots := rfl
@[simp] theorem freeUse_qps (n : Nat) (s : State) : (freeUse n s).qps = s.qps := rfl
@[simp] theorem freeUse_mrs (n : Nat) (s : State) : (freeUse n s).mrs = s.mrs := rfl
@[simp] theorem freeUse_egress (n : Nat) (s : State) : (freeUse n s).egress = s.egress := rfl
@[simp] theorem freeUse_postNo (n : Nat) (s : State) : (freeUse n s).postNo = s.postNo := rfl
@[simp] theorem freeUse_acxRx (n : Nat) (s : State) : (freeUse n s).acxRx = s.acxRx := rfl
@[simp] theorem freeUse_spots (n : Nat) (s : State) : (freeUse n s).spots = s.spots := rfl
@[simp] theorem freeUse_therm (n : Nat) (s : State) : (freeUse n s).therm = s.therm := rfl
@[simp] theorem freeUse_time (n : Nat) (s : State) : (freeUse n s).time = s.time := rfl
@[simp] theorem freeUse_wrapped (n : Nat) (s : State) : (freeUse n s).wrapped = s.wrapped := rfl
@[simp] theorem freeUse_idReady (n : Nat) (s : State) : (freeUse n s).idReady = s.idReady := rfl
@[simp] theorem freeUse_uncleared (n : Nat) (s : State) : (freeUse n s).uncleared = s.uncleared := rfl
@[simp] theorem freeUse_scrubs (n : Nat) (s : State) : (freeUse n s).scrubs = s.scrubs := rfl
@[simp] theorem freeUse_secOp (n : Nat) (s : State) : (freeUse n s).secOp = s.secOp := rfl
@[simp] theorem freeUse_fw (n : Nat) (s : State) : (freeUse n s).fw = s.fw := rfl
@[simp] theorem freeUse_jArea0 (n : Nat) (s : State) : (freeUse n s).jArea0 = s.jArea0 := rfl
@[simp] theorem freeUse_jArea1 (n : Nat) (s : State) : (freeUse n s).jArea1 = s.jArea1 := rfl
@[simp] theorem freeUse_jActive (n : Nat) (s : State) : (freeUse n s).jActive = s.jActive := rfl
@[simp] theorem freeUse_jGathered (n : Nat) (s : State) : (freeUse n s).jGathered = s.jGathered := rfl
@[simp] theorem freeUse_jWritten (n : Nat) (s : State) : (freeUse n s).jWritten = s.jWritten := rfl
@[simp] theorem freeUse_jSeq (n : Nat) (s : State) : (freeUse n s).jSeq = s.jSeq := rfl
@[simp] theorem freeUse_jGatherAt (n : Nat) (s : State) : (freeUse n s).jGatherAt = s.jGatherAt := rfl
@[simp] theorem freeUse_helm (n : Nat) (s : State) : (freeUse n s).helm = s.helm := rfl
@[simp] theorem freeUse_bist (n : Nat) (s : State) : (freeUse n s).bist = s.bist := rfl
@[simp] theorem freeUse_power (n : Nat) (s : State) : (freeUse n s).power = s.power := rfl

/-! ### elapse -/

@[simp] theorem elapse_free (dt : Nat) (s : State) : (elapse dt s).free = s.free := rfl
@[simp] theorem elapse_regs (dt : Nat) (s : State) : (elapse dt s).regs = s.regs := rfl
@[simp] theorem elapse_pending (dt : Nat) (s : State) : (elapse dt s).pending = s.pending := rfl
@[simp] theorem elapse_out (dt : Nat) (s : State) : (elapse dt s).out = s.out := rfl
@[simp] theorem elapse_events (dt : Nat) (s : State) : (elapse dt s).events = s.events := rfl
@[simp] theorem elapse_hostMem (dt : Nat) (s : State) : (elapse dt s).hostMem = s.hostMem := rfl
@[simp] theorem elapse_parts (dt : Nat) (s : State) : (elapse dt s).parts = s.parts := rfl
@[simp] theorem elapse_tensors (dt : Nat) (s : State) : (elapse dt s).tensors = s.tensors := rfl
@[simp] theorem elapse_nextHandle (dt : Nat) (s : State) : (elapse dt s).nextHandle = s.nextHandle := rfl
@[simp] theorem elapse_acxHandles (dt : Nat) (s : State) : (elapse dt s).acxHandles = s.acxHandles := rfl
@[simp] theorem elapse_kvEntries (dt : Nat) (s : State) : (elapse dt s).kvEntries = s.kvEntries := rfl
@[simp] theorem elapse_kvCtxs (dt : Nat) (s : State) : (elapse dt s).kvCtxs = s.kvCtxs := rfl
@[simp] theorem elapse_kvLow (dt : Nat) (s : State) : (elapse dt s).kvLow = s.kvLow := rfl
@[simp] theorem elapse_kvStamps (dt : Nat) (s : State) : (elapse dt s).kvStamps = s.kvStamps := rfl
@[simp] theorem elapse_reqs (dt : Nat) (s : State) : (elapse dt s).reqs = s.reqs := rfl
@[simp] theorem elapse_traceSeq (dt : Nat) (s : State) : (elapse dt s).traceSeq = s.traceSeq := rfl
@[simp] theorem elapse_tvSeq (dt : Nat) (s : State) : (elapse dt s).tvSeq = s.tvSeq := rfl
@[simp] theorem elapse_tv (dt : Nat) (s : State) : (elapse dt s).tv = s.tv := rfl
@[simp] theorem elapse_health (dt : Nat) (s : State) : (elapse dt s).health = s.health := rfl
@[simp] theorem elapse_windows (dt : Nat) (s : State) : (elapse dt s).windows = s.windows := rfl
@[simp] theorem elapse_sramCe (dt : Nat) (s : State) : (elapse dt s).sramCe = s.sramCe := rfl
@[simp] theorem elapse_sramPoison (dt : Nat) (s : State) : (elapse dt s).sramPoison = s.sramPoison := rfl
@[simp] theorem elapse_repairQueue (dt : Nat) (s : State) : (elapse dt s).repairQueue = s.repairQueue := rfl
@[simp] theorem elapse_dram (dt : Nat) (s : State) : (elapse dt s).dram = s.dram := rfl
@[simp] theorem elapse_flaskMem (dt : Nat) (s : State) : (elapse dt s).flaskMem = s.flaskMem := rfl
@[simp] theorem elapse_poison (dt : Nat) (s : State) : (elapse dt s).poison = s.poison := rfl
@[simp] theorem elapse_dramErrs (dt : Nat) (s : State) : (elapse dt s).dramErrs = s.dramErrs := rfl
@[simp] theorem elapse_remapped (dt : Nat) (s : State) : (elapse dt s).remapped = s.remapped := rfl
@[simp] theorem elapse_hbm (dt : Nat) (s : State) : (elapse dt s).hbm = s.hbm := rfl
@[simp] theorem elapse_dueCount (dt : Nat) (s : State) : (elapse dt s).dueCount = s.dueCount := rfl
@[simp] theorem elapse_heldAccs (dt : Nat) (s : State) : (elapse dt s).heldAccs = s.heldAccs := rfl
@[simp] theorem elapse_deferred (dt : Nat) (s : State) : (elapse dt s).deferred = s.deferred := rfl
@[simp] theorem elapse_edcCtx (dt : Nat) (s : State) : (elapse dt s).edcCtx = s.edcCtx := rfl
@[simp] theorem elapse_edcLockAt (dt : Nat) (s : State) : (elapse dt s).edcLockAt = s.edcLockAt := rfl
@[simp] theorem elapse_msixOn (dt : Nat) (s : State) : (elapse dt s).msixOn = s.msixOn := rfl
@[simp] theorem elapse_vecOpen (dt : Nat) (s : State) : (elapse dt s).vecOpen = s.vecOpen := rfl
@[simp] theorem elapse_msixHeld (dt : Nat) (s : State) : (elapse dt s).msixHeld = s.msixHeld := rfl
@[simp] theorem elapse_retention (dt : Nat) (s : State) : (elapse dt s).retention = s.retention := rfl
@[simp] theorem elapse_queues (dt : Nat) (s : State) : (elapse dt s).queues = s.queues := rfl
@[simp] theorem elapse_slots (dt : Nat) (s : State) : (elapse dt s).slots = s.slots := rfl
@[simp] theorem elapse_qps (dt : Nat) (s : State) : (elapse dt s).qps = s.qps := rfl
@[simp] theorem elapse_mrs (dt : Nat) (s : State) : (elapse dt s).mrs = s.mrs := rfl
@[simp] theorem elapse_egress (dt : Nat) (s : State) : (elapse dt s).egress = s.egress := rfl
@[simp] theorem elapse_postNo (dt : Nat) (s : State) : (elapse dt s).postNo = s.postNo := rfl
@[simp] theorem elapse_acxRx (dt : Nat) (s : State) : (elapse dt s).acxRx = s.acxRx := rfl
@[simp] theorem elapse_spots (dt : Nat) (s : State) : (elapse dt s).spots = s.spots := rfl
@[simp] theorem elapse_therm (dt : Nat) (s : State) : (elapse dt s).therm = s.therm := rfl
@[simp] theorem elapse_time (dt : Nat) (s : State) : (elapse dt s).time = s.time := rfl
@[simp] theorem elapse_wrapped (dt : Nat) (s : State) : (elapse dt s).wrapped = s.wrapped := rfl
@[simp] theorem elapse_idReady (dt : Nat) (s : State) : (elapse dt s).idReady = s.idReady := rfl
@[simp] theorem elapse_uncleared (dt : Nat) (s : State) : (elapse dt s).uncleared = s.uncleared := rfl
@[simp] theorem elapse_scrubs (dt : Nat) (s : State) : (elapse dt s).scrubs = s.scrubs := rfl
@[simp] theorem elapse_secOp (dt : Nat) (s : State) : (elapse dt s).secOp = s.secOp := rfl
@[simp] theorem elapse_fw (dt : Nat) (s : State) : (elapse dt s).fw = s.fw := rfl
@[simp] theorem elapse_jArea0 (dt : Nat) (s : State) : (elapse dt s).jArea0 = s.jArea0 := rfl
@[simp] theorem elapse_jArea1 (dt : Nat) (s : State) : (elapse dt s).jArea1 = s.jArea1 := rfl
@[simp] theorem elapse_jActive (dt : Nat) (s : State) : (elapse dt s).jActive = s.jActive := rfl
@[simp] theorem elapse_jGathered (dt : Nat) (s : State) : (elapse dt s).jGathered = s.jGathered := rfl
@[simp] theorem elapse_jWritten (dt : Nat) (s : State) : (elapse dt s).jWritten = s.jWritten := rfl
@[simp] theorem elapse_jSeq (dt : Nat) (s : State) : (elapse dt s).jSeq = s.jSeq := rfl
@[simp] theorem elapse_jGatherAt (dt : Nat) (s : State) : (elapse dt s).jGatherAt = s.jGatherAt := rfl
@[simp] theorem elapse_helm (dt : Nat) (s : State) : (elapse dt s).helm = s.helm := rfl
@[simp] theorem elapse_bist (dt : Nat) (s : State) : (elapse dt s).bist = s.bist := rfl
@[simp] theorem elapse_power (dt : Nat) (s : State) : (elapse dt s).power = s.power := rfl

/-! ### dramWrite -/

@[simp] theorem dramWrite_now (a : Nat) (bs : List Byte) (s : State) : (dramWrite a bs s).now = s.now := rfl
@[simp] theorem dramWrite_cyc (a : Nat) (bs : List Byte) (s : State) : (dramWrite a bs s).cyc = s.cyc := rfl
@[simp] theorem dramWrite_free (a : Nat) (bs : List Byte) (s : State) : (dramWrite a bs s).free = s.free := rfl
@[simp] theorem dramWrite_regs (a : Nat) (bs : List Byte) (s : State) : (dramWrite a bs s).regs = s.regs := rfl
@[simp] theorem dramWrite_pending (a : Nat) (bs : List Byte) (s : State) : (dramWrite a bs s).pending = s.pending := rfl
@[simp] theorem dramWrite_out (a : Nat) (bs : List Byte) (s : State) : (dramWrite a bs s).out = s.out := rfl
@[simp] theorem dramWrite_events (a : Nat) (bs : List Byte) (s : State) : (dramWrite a bs s).events = s.events := rfl
@[simp] theorem dramWrite_hostMem (a : Nat) (bs : List Byte) (s : State) : (dramWrite a bs s).hostMem = s.hostMem := rfl
@[simp] theorem dramWrite_parts (a : Nat) (bs : List Byte) (s : State) : (dramWrite a bs s).parts = s.parts := rfl
@[simp] theorem dramWrite_tensors (a : Nat) (bs : List Byte) (s : State) : (dramWrite a bs s).tensors = s.tensors := rfl
@[simp] theorem dramWrite_nextHandle (a : Nat) (bs : List Byte) (s : State) : (dramWrite a bs s).nextHandle = s.nextHandle := rfl
@[simp] theorem dramWrite_acxHandles (a : Nat) (bs : List Byte) (s : State) : (dramWrite a bs s).acxHandles = s.acxHandles := rfl
@[simp] theorem dramWrite_kvEntries (a : Nat) (bs : List Byte) (s : State) : (dramWrite a bs s).kvEntries = s.kvEntries := rfl
@[simp] theorem dramWrite_kvCtxs (a : Nat) (bs : List Byte) (s : State) : (dramWrite a bs s).kvCtxs = s.kvCtxs := rfl
@[simp] theorem dramWrite_kvLow (a : Nat) (bs : List Byte) (s : State) : (dramWrite a bs s).kvLow = s.kvLow := rfl
@[simp] theorem dramWrite_kvStamps (a : Nat) (bs : List Byte) (s : State) : (dramWrite a bs s).kvStamps = s.kvStamps := rfl
@[simp] theorem dramWrite_reqs (a : Nat) (bs : List Byte) (s : State) : (dramWrite a bs s).reqs = s.reqs := rfl
@[simp] theorem dramWrite_traceSeq (a : Nat) (bs : List Byte) (s : State) : (dramWrite a bs s).traceSeq = s.traceSeq := rfl
@[simp] theorem dramWrite_tvSeq (a : Nat) (bs : List Byte) (s : State) : (dramWrite a bs s).tvSeq = s.tvSeq := rfl
@[simp] theorem dramWrite_tv (a : Nat) (bs : List Byte) (s : State) : (dramWrite a bs s).tv = s.tv := rfl
@[simp] theorem dramWrite_health (a : Nat) (bs : List Byte) (s : State) : (dramWrite a bs s).health = s.health := rfl
@[simp] theorem dramWrite_windows (a : Nat) (bs : List Byte) (s : State) : (dramWrite a bs s).windows = s.windows := rfl
@[simp] theorem dramWrite_sramCe (a : Nat) (bs : List Byte) (s : State) : (dramWrite a bs s).sramCe = s.sramCe := rfl
@[simp] theorem dramWrite_sramPoison (a : Nat) (bs : List Byte) (s : State) : (dramWrite a bs s).sramPoison = s.sramPoison := rfl
@[simp] theorem dramWrite_repairQueue (a : Nat) (bs : List Byte) (s : State) : (dramWrite a bs s).repairQueue = s.repairQueue := rfl
@[simp] theorem dramWrite_dram (a : Nat) (bs : List Byte) (s : State) : (dramWrite a bs s).dram = cellsPutAll (mirrorsOf s) a bs s.dram := rfl
@[simp] theorem dramWrite_flaskMem (a : Nat) (bs : List Byte) (s : State) : (dramWrite a bs s).flaskMem = s.flaskMem := rfl
@[simp] theorem dramWrite_poison (a : Nat) (bs : List Byte) (s : State) : (dramWrite a bs s).poison = poisonAfter a bs.length s.poison := rfl
@[simp] theorem dramWrite_dramErrs (a : Nat) (bs : List Byte) (s : State) : (dramWrite a bs s).dramErrs = s.dramErrs := rfl
@[simp] theorem dramWrite_remapped (a : Nat) (bs : List Byte) (s : State) : (dramWrite a bs s).remapped = s.remapped := rfl
@[simp] theorem dramWrite_hbm (a : Nat) (bs : List Byte) (s : State) : (dramWrite a bs s).hbm = s.hbm := rfl
@[simp] theorem dramWrite_dueCount (a : Nat) (bs : List Byte) (s : State) : (dramWrite a bs s).dueCount = s.dueCount := rfl
@[simp] theorem dramWrite_heldAccs (a : Nat) (bs : List Byte) (s : State) : (dramWrite a bs s).heldAccs = s.heldAccs := rfl
@[simp] theorem dramWrite_deferred (a : Nat) (bs : List Byte) (s : State) : (dramWrite a bs s).deferred = s.deferred := rfl
@[simp] theorem dramWrite_edcCtx (a : Nat) (bs : List Byte) (s : State) : (dramWrite a bs s).edcCtx = s.edcCtx := rfl
@[simp] theorem dramWrite_edcLockAt (a : Nat) (bs : List Byte) (s : State) : (dramWrite a bs s).edcLockAt = s.edcLockAt := rfl
@[simp] theorem dramWrite_msixOn (a : Nat) (bs : List Byte) (s : State) : (dramWrite a bs s).msixOn = s.msixOn := rfl
@[simp] theorem dramWrite_vecOpen (a : Nat) (bs : List Byte) (s : State) : (dramWrite a bs s).vecOpen = s.vecOpen := rfl
@[simp] theorem dramWrite_msixHeld (a : Nat) (bs : List Byte) (s : State) : (dramWrite a bs s).msixHeld = s.msixHeld := rfl
@[simp] theorem dramWrite_retention (a : Nat) (bs : List Byte) (s : State) : (dramWrite a bs s).retention = s.retention := rfl
@[simp] theorem dramWrite_queues (a : Nat) (bs : List Byte) (s : State) : (dramWrite a bs s).queues = s.queues := rfl
@[simp] theorem dramWrite_slots (a : Nat) (bs : List Byte) (s : State) : (dramWrite a bs s).slots = s.slots := rfl
@[simp] theorem dramWrite_qps (a : Nat) (bs : List Byte) (s : State) : (dramWrite a bs s).qps = s.qps := rfl
@[simp] theorem dramWrite_mrs (a : Nat) (bs : List Byte) (s : State) : (dramWrite a bs s).mrs = s.mrs := rfl
@[simp] theorem dramWrite_egress (a : Nat) (bs : List Byte) (s : State) : (dramWrite a bs s).egress = s.egress := rfl
@[simp] theorem dramWrite_postNo (a : Nat) (bs : List Byte) (s : State) : (dramWrite a bs s).postNo = s.postNo := rfl
@[simp] theorem dramWrite_acxRx (a : Nat) (bs : List Byte) (s : State) : (dramWrite a bs s).acxRx = s.acxRx := rfl
@[simp] theorem dramWrite_spots (a : Nat) (bs : List Byte) (s : State) : (dramWrite a bs s).spots = s.spots := rfl
@[simp] theorem dramWrite_therm (a : Nat) (bs : List Byte) (s : State) : (dramWrite a bs s).therm = s.therm := rfl
@[simp] theorem dramWrite_time (a : Nat) (bs : List Byte) (s : State) : (dramWrite a bs s).time = s.time := rfl
@[simp] theorem dramWrite_wrapped (a : Nat) (bs : List Byte) (s : State) : (dramWrite a bs s).wrapped = s.wrapped := rfl
@[simp] theorem dramWrite_idReady (a : Nat) (bs : List Byte) (s : State) : (dramWrite a bs s).idReady = s.idReady := rfl
@[simp] theorem dramWrite_uncleared (a : Nat) (bs : List Byte) (s : State) : (dramWrite a bs s).uncleared = s.uncleared := rfl
@[simp] theorem dramWrite_scrubs (a : Nat) (bs : List Byte) (s : State) : (dramWrite a bs s).scrubs = s.scrubs := rfl
@[simp] theorem dramWrite_secOp (a : Nat) (bs : List Byte) (s : State) : (dramWrite a bs s).secOp = s.secOp := rfl
@[simp] theorem dramWrite_fw (a : Nat) (bs : List Byte) (s : State) : (dramWrite a bs s).fw = s.fw := rfl
@[simp] theorem dramWrite_jArea0 (a : Nat) (bs : List Byte) (s : State) : (dramWrite a bs s).jArea0 = s.jArea0 := rfl
@[simp] theorem dramWrite_jArea1 (a : Nat) (bs : List Byte) (s : State) : (dramWrite a bs s).jArea1 = s.jArea1 := rfl
@[simp] theorem dramWrite_jActive (a : Nat) (bs : List Byte) (s : State) : (dramWrite a bs s).jActive = s.jActive := rfl
@[simp] theorem dramWrite_jGathered (a : Nat) (bs : List Byte) (s : State) : (dramWrite a bs s).jGathered = s.jGathered := rfl
@[simp] theorem dramWrite_jWritten (a : Nat) (bs : List Byte) (s : State) : (dramWrite a bs s).jWritten = s.jWritten := rfl
@[simp] theorem dramWrite_jSeq (a : Nat) (bs : List Byte) (s : State) : (dramWrite a bs s).jSeq = s.jSeq := rfl
@[simp] theorem dramWrite_jGatherAt (a : Nat) (bs : List Byte) (s : State) : (dramWrite a bs s).jGatherAt = s.jGatherAt := rfl
@[simp] theorem dramWrite_helm (a : Nat) (bs : List Byte) (s : State) : (dramWrite a bs s).helm = s.helm := rfl
@[simp] theorem dramWrite_bist (a : Nat) (bs : List Byte) (s : State) : (dramWrite a bs s).bist = s.bist := rfl
@[simp] theorem dramWrite_power (a : Nat) (bs : List Byte) (s : State) : (dramWrite a bs s).power = s.power := rfl

/-! ### hostWrite -/

@[simp] theorem hostWrite_now (a : Nat) (bs : List Byte) (s : State) : (hostWrite a bs s).now = s.now := rfl
@[simp] theorem hostWrite_cyc (a : Nat) (bs : List Byte) (s : State) : (hostWrite a bs s).cyc = s.cyc := rfl
@[simp] theorem hostWrite_free (a : Nat) (bs : List Byte) (s : State) : (hostWrite a bs s).free = s.free := rfl
@[simp] theorem hostWrite_regs (a : Nat) (bs : List Byte) (s : State) : (hostWrite a bs s).regs = s.regs := rfl
@[simp] theorem hostWrite_pending (a : Nat) (bs : List Byte) (s : State) : (hostWrite a bs s).pending = s.pending := rfl
@[simp] theorem hostWrite_out (a : Nat) (bs : List Byte) (s : State) : (hostWrite a bs s).out = s.out := rfl
@[simp] theorem hostWrite_events (a : Nat) (bs : List Byte) (s : State) : (hostWrite a bs s).events = s.events := rfl
@[simp] theorem hostWrite_hostMem (a : Nat) (bs : List Byte) (s : State) : (hostWrite a bs s).hostMem = cellsPut bs a s.hostMem := rfl
@[simp] theorem hostWrite_parts (a : Nat) (bs : List Byte) (s : State) : (hostWrite a bs s).parts = s.parts := rfl
@[simp] theorem hostWrite_tensors (a : Nat) (bs : List Byte) (s : State) : (hostWrite a bs s).tensors = s.tensors := rfl
@[simp] theorem hostWrite_nextHandle (a : Nat) (bs : List Byte) (s : State) : (hostWrite a bs s).nextHandle = s.nextHandle := rfl
@[simp] theorem hostWrite_acxHandles (a : Nat) (bs : List Byte) (s : State) : (hostWrite a bs s).acxHandles = s.acxHandles := rfl
@[simp] theorem hostWrite_kvEntries (a : Nat) (bs : List Byte) (s : State) : (hostWrite a bs s).kvEntries = s.kvEntries := rfl
@[simp] theorem hostWrite_kvCtxs (a : Nat) (bs : List Byte) (s : State) : (hostWrite a bs s).kvCtxs = s.kvCtxs := rfl
@[simp] theorem hostWrite_kvLow (a : Nat) (bs : List Byte) (s : State) : (hostWrite a bs s).kvLow = s.kvLow := rfl
@[simp] theorem hostWrite_kvStamps (a : Nat) (bs : List Byte) (s : State) : (hostWrite a bs s).kvStamps = s.kvStamps := rfl
@[simp] theorem hostWrite_reqs (a : Nat) (bs : List Byte) (s : State) : (hostWrite a bs s).reqs = s.reqs := rfl
@[simp] theorem hostWrite_traceSeq (a : Nat) (bs : List Byte) (s : State) : (hostWrite a bs s).traceSeq = s.traceSeq := rfl
@[simp] theorem hostWrite_tvSeq (a : Nat) (bs : List Byte) (s : State) : (hostWrite a bs s).tvSeq = s.tvSeq := rfl
@[simp] theorem hostWrite_tv (a : Nat) (bs : List Byte) (s : State) : (hostWrite a bs s).tv = s.tv := rfl
@[simp] theorem hostWrite_health (a : Nat) (bs : List Byte) (s : State) : (hostWrite a bs s).health = s.health := rfl
@[simp] theorem hostWrite_windows (a : Nat) (bs : List Byte) (s : State) : (hostWrite a bs s).windows = s.windows := rfl
@[simp] theorem hostWrite_sramCe (a : Nat) (bs : List Byte) (s : State) : (hostWrite a bs s).sramCe = s.sramCe := rfl
@[simp] theorem hostWrite_sramPoison (a : Nat) (bs : List Byte) (s : State) : (hostWrite a bs s).sramPoison = s.sramPoison := rfl
@[simp] theorem hostWrite_repairQueue (a : Nat) (bs : List Byte) (s : State) : (hostWrite a bs s).repairQueue = s.repairQueue := rfl
@[simp] theorem hostWrite_dram (a : Nat) (bs : List Byte) (s : State) : (hostWrite a bs s).dram = s.dram := rfl
@[simp] theorem hostWrite_flaskMem (a : Nat) (bs : List Byte) (s : State) : (hostWrite a bs s).flaskMem = s.flaskMem := rfl
@[simp] theorem hostWrite_poison (a : Nat) (bs : List Byte) (s : State) : (hostWrite a bs s).poison = s.poison := rfl
@[simp] theorem hostWrite_dramErrs (a : Nat) (bs : List Byte) (s : State) : (hostWrite a bs s).dramErrs = s.dramErrs := rfl
@[simp] theorem hostWrite_remapped (a : Nat) (bs : List Byte) (s : State) : (hostWrite a bs s).remapped = s.remapped := rfl
@[simp] theorem hostWrite_hbm (a : Nat) (bs : List Byte) (s : State) : (hostWrite a bs s).hbm = s.hbm := rfl
@[simp] theorem hostWrite_dueCount (a : Nat) (bs : List Byte) (s : State) : (hostWrite a bs s).dueCount = s.dueCount := rfl
@[simp] theorem hostWrite_heldAccs (a : Nat) (bs : List Byte) (s : State) : (hostWrite a bs s).heldAccs = s.heldAccs := rfl
@[simp] theorem hostWrite_deferred (a : Nat) (bs : List Byte) (s : State) : (hostWrite a bs s).deferred = s.deferred := rfl
@[simp] theorem hostWrite_edcCtx (a : Nat) (bs : List Byte) (s : State) : (hostWrite a bs s).edcCtx = s.edcCtx := rfl
@[simp] theorem hostWrite_edcLockAt (a : Nat) (bs : List Byte) (s : State) : (hostWrite a bs s).edcLockAt = s.edcLockAt := rfl
@[simp] theorem hostWrite_msixOn (a : Nat) (bs : List Byte) (s : State) : (hostWrite a bs s).msixOn = s.msixOn := rfl
@[simp] theorem hostWrite_vecOpen (a : Nat) (bs : List Byte) (s : State) : (hostWrite a bs s).vecOpen = s.vecOpen := rfl
@[simp] theorem hostWrite_msixHeld (a : Nat) (bs : List Byte) (s : State) : (hostWrite a bs s).msixHeld = s.msixHeld := rfl
@[simp] theorem hostWrite_retention (a : Nat) (bs : List Byte) (s : State) : (hostWrite a bs s).retention = s.retention := rfl
@[simp] theorem hostWrite_queues (a : Nat) (bs : List Byte) (s : State) : (hostWrite a bs s).queues = s.queues := rfl
@[simp] theorem hostWrite_slots (a : Nat) (bs : List Byte) (s : State) : (hostWrite a bs s).slots = s.slots := rfl
@[simp] theorem hostWrite_qps (a : Nat) (bs : List Byte) (s : State) : (hostWrite a bs s).qps = s.qps := rfl
@[simp] theorem hostWrite_mrs (a : Nat) (bs : List Byte) (s : State) : (hostWrite a bs s).mrs = s.mrs := rfl
@[simp] theorem hostWrite_egress (a : Nat) (bs : List Byte) (s : State) : (hostWrite a bs s).egress = s.egress := rfl
@[simp] theorem hostWrite_postNo (a : Nat) (bs : List Byte) (s : State) : (hostWrite a bs s).postNo = s.postNo := rfl
@[simp] theorem hostWrite_acxRx (a : Nat) (bs : List Byte) (s : State) : (hostWrite a bs s).acxRx = s.acxRx := rfl
@[simp] theorem hostWrite_spots (a : Nat) (bs : List Byte) (s : State) : (hostWrite a bs s).spots = s.spots := rfl
@[simp] theorem hostWrite_therm (a : Nat) (bs : List Byte) (s : State) : (hostWrite a bs s).therm = s.therm := rfl
@[simp] theorem hostWrite_time (a : Nat) (bs : List Byte) (s : State) : (hostWrite a bs s).time = s.time := rfl
@[simp] theorem hostWrite_wrapped (a : Nat) (bs : List Byte) (s : State) : (hostWrite a bs s).wrapped = s.wrapped := rfl
@[simp] theorem hostWrite_idReady (a : Nat) (bs : List Byte) (s : State) : (hostWrite a bs s).idReady = s.idReady := rfl
@[simp] theorem hostWrite_uncleared (a : Nat) (bs : List Byte) (s : State) : (hostWrite a bs s).uncleared = s.uncleared := rfl
@[simp] theorem hostWrite_scrubs (a : Nat) (bs : List Byte) (s : State) : (hostWrite a bs s).scrubs = s.scrubs := rfl
@[simp] theorem hostWrite_secOp (a : Nat) (bs : List Byte) (s : State) : (hostWrite a bs s).secOp = s.secOp := rfl
@[simp] theorem hostWrite_fw (a : Nat) (bs : List Byte) (s : State) : (hostWrite a bs s).fw = s.fw := rfl
@[simp] theorem hostWrite_jArea0 (a : Nat) (bs : List Byte) (s : State) : (hostWrite a bs s).jArea0 = s.jArea0 := rfl
@[simp] theorem hostWrite_jArea1 (a : Nat) (bs : List Byte) (s : State) : (hostWrite a bs s).jArea1 = s.jArea1 := rfl
@[simp] theorem hostWrite_jActive (a : Nat) (bs : List Byte) (s : State) : (hostWrite a bs s).jActive = s.jActive := rfl
@[simp] theorem hostWrite_jGathered (a : Nat) (bs : List Byte) (s : State) : (hostWrite a bs s).jGathered = s.jGathered := rfl
@[simp] theorem hostWrite_jWritten (a : Nat) (bs : List Byte) (s : State) : (hostWrite a bs s).jWritten = s.jWritten := rfl
@[simp] theorem hostWrite_jSeq (a : Nat) (bs : List Byte) (s : State) : (hostWrite a bs s).jSeq = s.jSeq := rfl
@[simp] theorem hostWrite_jGatherAt (a : Nat) (bs : List Byte) (s : State) : (hostWrite a bs s).jGatherAt = s.jGatherAt := rfl
@[simp] theorem hostWrite_helm (a : Nat) (bs : List Byte) (s : State) : (hostWrite a bs s).helm = s.helm := rfl
@[simp] theorem hostWrite_bist (a : Nat) (bs : List Byte) (s : State) : (hostWrite a bs s).bist = s.bist := rfl
@[simp] theorem hostWrite_power (a : Nat) (bs : List Byte) (s : State) : (hostWrite a bs s).power = s.power := rfl

/-! ### logEvent -/

@[simp] theorem logEvent_now (e : Ev) (u : Nat) (s : State) : (logEvent e u s).now = s.now := rfl
@[simp] theorem logEvent_cyc (e : Ev) (u : Nat) (s : State) : (logEvent e u s).cyc = s.cyc := rfl
@[simp] theorem logEvent_free (e : Ev) (u : Nat) (s : State) : (logEvent e u s).free = s.free := rfl
@[simp] theorem logEvent_regs (e : Ev) (u : Nat) (s : State) : (logEvent e u s).regs = s.regs := rfl
@[simp] theorem logEvent_pending (e : Ev) (u : Nat) (s : State) : (logEvent e u s).pending = s.pending := rfl
@[simp] theorem logEvent_out (e : Ev) (u : Nat) (s : State) : (logEvent e u s).out = s.out := rfl
@[simp] theorem logEvent_events (e : Ev) (u : Nat) (s : State) : (logEvent e u s).events = ⟨e, u, s.now⟩ :: s.events := rfl
@[simp] theorem logEvent_hostMem (e : Ev) (u : Nat) (s : State) : (logEvent e u s).hostMem = s.hostMem := rfl
@[simp] theorem logEvent_parts (e : Ev) (u : Nat) (s : State) : (logEvent e u s).parts = s.parts := rfl
@[simp] theorem logEvent_tensors (e : Ev) (u : Nat) (s : State) : (logEvent e u s).tensors = s.tensors := rfl
@[simp] theorem logEvent_nextHandle (e : Ev) (u : Nat) (s : State) : (logEvent e u s).nextHandle = s.nextHandle := rfl
@[simp] theorem logEvent_acxHandles (e : Ev) (u : Nat) (s : State) : (logEvent e u s).acxHandles = s.acxHandles := rfl
@[simp] theorem logEvent_kvEntries (e : Ev) (u : Nat) (s : State) : (logEvent e u s).kvEntries = s.kvEntries := rfl
@[simp] theorem logEvent_kvCtxs (e : Ev) (u : Nat) (s : State) : (logEvent e u s).kvCtxs = s.kvCtxs := rfl
@[simp] theorem logEvent_kvLow (e : Ev) (u : Nat) (s : State) : (logEvent e u s).kvLow = s.kvLow := rfl
@[simp] theorem logEvent_kvStamps (e : Ev) (u : Nat) (s : State) : (logEvent e u s).kvStamps = s.kvStamps := rfl
@[simp] theorem logEvent_reqs (e : Ev) (u : Nat) (s : State) : (logEvent e u s).reqs = s.reqs := rfl
@[simp] theorem logEvent_traceSeq (e : Ev) (u : Nat) (s : State) : (logEvent e u s).traceSeq = s.traceSeq := rfl
@[simp] theorem logEvent_tvSeq (e : Ev) (u : Nat) (s : State) : (logEvent e u s).tvSeq = s.tvSeq := rfl
@[simp] theorem logEvent_tv (e : Ev) (u : Nat) (s : State) : (logEvent e u s).tv = s.tv := rfl
@[simp] theorem logEvent_health (e : Ev) (u : Nat) (s : State) : (logEvent e u s).health = s.health := rfl
@[simp] theorem logEvent_windows (e : Ev) (u : Nat) (s : State) : (logEvent e u s).windows = s.windows := rfl
@[simp] theorem logEvent_sramCe (e : Ev) (u : Nat) (s : State) : (logEvent e u s).sramCe = s.sramCe := rfl
@[simp] theorem logEvent_sramPoison (e : Ev) (u : Nat) (s : State) : (logEvent e u s).sramPoison = s.sramPoison := rfl
@[simp] theorem logEvent_repairQueue (e : Ev) (u : Nat) (s : State) : (logEvent e u s).repairQueue = s.repairQueue := rfl
@[simp] theorem logEvent_dram (e : Ev) (u : Nat) (s : State) : (logEvent e u s).dram = s.dram := rfl
@[simp] theorem logEvent_flaskMem (e : Ev) (u : Nat) (s : State) : (logEvent e u s).flaskMem = s.flaskMem := rfl
@[simp] theorem logEvent_poison (e : Ev) (u : Nat) (s : State) : (logEvent e u s).poison = s.poison := rfl
@[simp] theorem logEvent_dramErrs (e : Ev) (u : Nat) (s : State) : (logEvent e u s).dramErrs = s.dramErrs := rfl
@[simp] theorem logEvent_remapped (e : Ev) (u : Nat) (s : State) : (logEvent e u s).remapped = s.remapped := rfl
@[simp] theorem logEvent_hbm (e : Ev) (u : Nat) (s : State) : (logEvent e u s).hbm = s.hbm := rfl
@[simp] theorem logEvent_dueCount (e : Ev) (u : Nat) (s : State) : (logEvent e u s).dueCount = s.dueCount := rfl
@[simp] theorem logEvent_heldAccs (e : Ev) (u : Nat) (s : State) : (logEvent e u s).heldAccs = s.heldAccs := rfl
@[simp] theorem logEvent_deferred (e : Ev) (u : Nat) (s : State) : (logEvent e u s).deferred = s.deferred := rfl
@[simp] theorem logEvent_edcCtx (e : Ev) (u : Nat) (s : State) : (logEvent e u s).edcCtx = s.edcCtx := rfl
@[simp] theorem logEvent_edcLockAt (e : Ev) (u : Nat) (s : State) : (logEvent e u s).edcLockAt = s.edcLockAt := rfl
@[simp] theorem logEvent_msixOn (e : Ev) (u : Nat) (s : State) : (logEvent e u s).msixOn = s.msixOn := rfl
@[simp] theorem logEvent_vecOpen (e : Ev) (u : Nat) (s : State) : (logEvent e u s).vecOpen = s.vecOpen := rfl
@[simp] theorem logEvent_msixHeld (e : Ev) (u : Nat) (s : State) : (logEvent e u s).msixHeld = s.msixHeld := rfl
@[simp] theorem logEvent_retention (e : Ev) (u : Nat) (s : State) : (logEvent e u s).retention = s.retention := rfl
@[simp] theorem logEvent_queues (e : Ev) (u : Nat) (s : State) : (logEvent e u s).queues = s.queues := rfl
@[simp] theorem logEvent_slots (e : Ev) (u : Nat) (s : State) : (logEvent e u s).slots = s.slots := rfl
@[simp] theorem logEvent_qps (e : Ev) (u : Nat) (s : State) : (logEvent e u s).qps = s.qps := rfl
@[simp] theorem logEvent_mrs (e : Ev) (u : Nat) (s : State) : (logEvent e u s).mrs = s.mrs := rfl
@[simp] theorem logEvent_egress (e : Ev) (u : Nat) (s : State) : (logEvent e u s).egress = s.egress := rfl
@[simp] theorem logEvent_postNo (e : Ev) (u : Nat) (s : State) : (logEvent e u s).postNo = s.postNo := rfl
@[simp] theorem logEvent_acxRx (e : Ev) (u : Nat) (s : State) : (logEvent e u s).acxRx = s.acxRx := rfl
@[simp] theorem logEvent_spots (e : Ev) (u : Nat) (s : State) : (logEvent e u s).spots = s.spots := rfl
@[simp] theorem logEvent_therm (e : Ev) (u : Nat) (s : State) : (logEvent e u s).therm = s.therm := rfl
@[simp] theorem logEvent_time (e : Ev) (u : Nat) (s : State) : (logEvent e u s).time = s.time := rfl
@[simp] theorem logEvent_wrapped (e : Ev) (u : Nat) (s : State) : (logEvent e u s).wrapped = s.wrapped := rfl
@[simp] theorem logEvent_idReady (e : Ev) (u : Nat) (s : State) : (logEvent e u s).idReady = s.idReady := rfl
@[simp] theorem logEvent_uncleared (e : Ev) (u : Nat) (s : State) : (logEvent e u s).uncleared = s.uncleared := rfl
@[simp] theorem logEvent_scrubs (e : Ev) (u : Nat) (s : State) : (logEvent e u s).scrubs = s.scrubs := rfl
@[simp] theorem logEvent_secOp (e : Ev) (u : Nat) (s : State) : (logEvent e u s).secOp = s.secOp := rfl
@[simp] theorem logEvent_fw (e : Ev) (u : Nat) (s : State) : (logEvent e u s).fw = s.fw := rfl
@[simp] theorem logEvent_jArea0 (e : Ev) (u : Nat) (s : State) : (logEvent e u s).jArea0 = s.jArea0 := rfl
@[simp] theorem logEvent_jArea1 (e : Ev) (u : Nat) (s : State) : (logEvent e u s).jArea1 = s.jArea1 := rfl
@[simp] theorem logEvent_jActive (e : Ev) (u : Nat) (s : State) : (logEvent e u s).jActive = s.jActive := rfl
@[simp] theorem logEvent_jGathered (e : Ev) (u : Nat) (s : State) : (logEvent e u s).jGathered = s.jGathered := rfl
@[simp] theorem logEvent_jWritten (e : Ev) (u : Nat) (s : State) : (logEvent e u s).jWritten = s.jWritten := rfl
@[simp] theorem logEvent_jSeq (e : Ev) (u : Nat) (s : State) : (logEvent e u s).jSeq = s.jSeq := rfl
@[simp] theorem logEvent_jGatherAt (e : Ev) (u : Nat) (s : State) : (logEvent e u s).jGatherAt = s.jGatherAt := rfl
@[simp] theorem logEvent_helm (e : Ev) (u : Nat) (s : State) : (logEvent e u s).helm = s.helm := rfl
@[simp] theorem logEvent_bist (e : Ev) (u : Nat) (s : State) : (logEvent e u s).bist = s.bist := rfl
@[simp] theorem logEvent_power (e : Ev) (u : Nat) (s : State) : (logEvent e u s).power = s.power := rfl

/-! ### qUpd -/

@[simp] theorem qUpd_now (q : Nat) (f : Queue → Queue) (s : State) : (qUpd q f s).now = s.now := rfl
@[simp] theorem qUpd_cyc (q : Nat) (f : Queue → Queue) (s : State) : (qUpd q f s).cyc = s.cyc := rfl
@[simp] theorem qUpd_free (q : Nat) (f : Queue → Queue) (s : State) : (qUpd q f s).free = s.free := rfl
@[simp] theorem qUpd_regs (q : Nat) (f : Queue → Queue) (s : State) : (qUpd q f s).regs = s.regs := rfl
@[simp] theorem qUpd_pending (q : Nat) (f : Queue → Queue) (s : State) : (qUpd q f s).pending = s.pending := rfl
@[simp] theorem qUpd_out (q : Nat) (f : Queue → Queue) (s : State) : (qUpd q f s).out = s.out := rfl
@[simp] theorem qUpd_events (q : Nat) (f : Queue → Queue) (s : State) : (qUpd q f s).events = s.events := rfl
@[simp] theorem qUpd_hostMem (q : Nat) (f : Queue → Queue) (s : State) : (qUpd q f s).hostMem = s.hostMem := rfl
@[simp] theorem qUpd_parts (q : Nat) (f : Queue → Queue) (s : State) : (qUpd q f s).parts = s.parts := rfl
@[simp] theorem qUpd_tensors (q : Nat) (f : Queue → Queue) (s : State) : (qUpd q f s).tensors = s.tensors := rfl
@[simp] theorem qUpd_nextHandle (q : Nat) (f : Queue → Queue) (s : State) : (qUpd q f s).nextHandle = s.nextHandle := rfl
@[simp] theorem qUpd_acxHandles (q : Nat) (f : Queue → Queue) (s : State) : (qUpd q f s).acxHandles = s.acxHandles := rfl
@[simp] theorem qUpd_kvEntries (q : Nat) (f : Queue → Queue) (s : State) : (qUpd q f s).kvEntries = s.kvEntries := rfl
@[simp] theorem qUpd_kvCtxs (q : Nat) (f : Queue → Queue) (s : State) : (qUpd q f s).kvCtxs = s.kvCtxs := rfl
@[simp] theorem qUpd_kvLow (q : Nat) (f : Queue → Queue) (s : State) : (qUpd q f s).kvLow = s.kvLow := rfl
@[simp] theorem qUpd_kvStamps (q : Nat) (f : Queue → Queue) (s : State) : (qUpd q f s).kvStamps = s.kvStamps := rfl
@[simp] theorem qUpd_reqs (q : Nat) (f : Queue → Queue) (s : State) : (qUpd q f s).reqs = s.reqs := rfl
@[simp] theorem qUpd_traceSeq (q : Nat) (f : Queue → Queue) (s : State) : (qUpd q f s).traceSeq = s.traceSeq := rfl
@[simp] theorem qUpd_tvSeq (q : Nat) (f : Queue → Queue) (s : State) : (qUpd q f s).tvSeq = s.tvSeq := rfl
@[simp] theorem qUpd_tv (q : Nat) (f : Queue → Queue) (s : State) : (qUpd q f s).tv = s.tv := rfl
@[simp] theorem qUpd_health (q : Nat) (f : Queue → Queue) (s : State) : (qUpd q f s).health = s.health := rfl
@[simp] theorem qUpd_windows (q : Nat) (f : Queue → Queue) (s : State) : (qUpd q f s).windows = s.windows := rfl
@[simp] theorem qUpd_sramCe (q : Nat) (f : Queue → Queue) (s : State) : (qUpd q f s).sramCe = s.sramCe := rfl
@[simp] theorem qUpd_sramPoison (q : Nat) (f : Queue → Queue) (s : State) : (qUpd q f s).sramPoison = s.sramPoison := rfl
@[simp] theorem qUpd_repairQueue (q : Nat) (f : Queue → Queue) (s : State) : (qUpd q f s).repairQueue = s.repairQueue := rfl
@[simp] theorem qUpd_dram (q : Nat) (f : Queue → Queue) (s : State) : (qUpd q f s).dram = s.dram := rfl
@[simp] theorem qUpd_flaskMem (q : Nat) (f : Queue → Queue) (s : State) : (qUpd q f s).flaskMem = s.flaskMem := rfl
@[simp] theorem qUpd_poison (q : Nat) (f : Queue → Queue) (s : State) : (qUpd q f s).poison = s.poison := rfl
@[simp] theorem qUpd_dramErrs (q : Nat) (f : Queue → Queue) (s : State) : (qUpd q f s).dramErrs = s.dramErrs := rfl
@[simp] theorem qUpd_remapped (q : Nat) (f : Queue → Queue) (s : State) : (qUpd q f s).remapped = s.remapped := rfl
@[simp] theorem qUpd_hbm (q : Nat) (f : Queue → Queue) (s : State) : (qUpd q f s).hbm = s.hbm := rfl
@[simp] theorem qUpd_dueCount (q : Nat) (f : Queue → Queue) (s : State) : (qUpd q f s).dueCount = s.dueCount := rfl
@[simp] theorem qUpd_heldAccs (q : Nat) (f : Queue → Queue) (s : State) : (qUpd q f s).heldAccs = s.heldAccs := rfl
@[simp] theorem qUpd_deferred (q : Nat) (f : Queue → Queue) (s : State) : (qUpd q f s).deferred = s.deferred := rfl
@[simp] theorem qUpd_edcCtx (q : Nat) (f : Queue → Queue) (s : State) : (qUpd q f s).edcCtx = s.edcCtx := rfl
@[simp] theorem qUpd_edcLockAt (q : Nat) (f : Queue → Queue) (s : State) : (qUpd q f s).edcLockAt = s.edcLockAt := rfl
@[simp] theorem qUpd_msixOn (q : Nat) (f : Queue → Queue) (s : State) : (qUpd q f s).msixOn = s.msixOn := rfl
@[simp] theorem qUpd_vecOpen (q : Nat) (f : Queue → Queue) (s : State) : (qUpd q f s).vecOpen = s.vecOpen := rfl
@[simp] theorem qUpd_msixHeld (q : Nat) (f : Queue → Queue) (s : State) : (qUpd q f s).msixHeld = s.msixHeld := rfl
@[simp] theorem qUpd_retention (q : Nat) (f : Queue → Queue) (s : State) : (qUpd q f s).retention = s.retention := rfl
@[simp] theorem qUpd_queues (q : Nat) (f : Queue → Queue) (s : State) : (qUpd q f s).queues = mapUpd queueReset s.queues q f := rfl
@[simp] theorem qUpd_slots (q : Nat) (f : Queue → Queue) (s : State) : (qUpd q f s).slots = s.slots := rfl
@[simp] theorem qUpd_qps (q : Nat) (f : Queue → Queue) (s : State) : (qUpd q f s).qps = s.qps := rfl
@[simp] theorem qUpd_mrs (q : Nat) (f : Queue → Queue) (s : State) : (qUpd q f s).mrs = s.mrs := rfl
@[simp] theorem qUpd_egress (q : Nat) (f : Queue → Queue) (s : State) : (qUpd q f s).egress = s.egress := rfl
@[simp] theorem qUpd_postNo (q : Nat) (f : Queue → Queue) (s : State) : (qUpd q f s).postNo = s.postNo := rfl
@[simp] theorem qUpd_acxRx (q : Nat) (f : Queue → Queue) (s : State) : (qUpd q f s).acxRx = s.acxRx := rfl
@[simp] theorem qUpd_spots (q : Nat) (f : Queue → Queue) (s : State) : (qUpd q f s).spots = s.spots := rfl
@[simp] theorem qUpd_therm (q : Nat) (f : Queue → Queue) (s : State) : (qUpd q f s).therm = s.therm := rfl
@[simp] theorem qUpd_time (q : Nat) (f : Queue → Queue) (s : State) : (qUpd q f s).time = s.time := rfl
@[simp] theorem qUpd_wrapped (q : Nat) (f : Queue → Queue) (s : State) : (qUpd q f s).wrapped = s.wrapped := rfl
@[simp] theorem qUpd_idReady (q : Nat) (f : Queue → Queue) (s : State) : (qUpd q f s).idReady = s.idReady := rfl
@[simp] theorem qUpd_uncleared (q : Nat) (f : Queue → Queue) (s : State) : (qUpd q f s).uncleared = s.uncleared := rfl
@[simp] theorem qUpd_scrubs (q : Nat) (f : Queue → Queue) (s : State) : (qUpd q f s).scrubs = s.scrubs := rfl
@[simp] theorem qUpd_secOp (q : Nat) (f : Queue → Queue) (s : State) : (qUpd q f s).secOp = s.secOp := rfl
@[simp] theorem qUpd_fw (q : Nat) (f : Queue → Queue) (s : State) : (qUpd q f s).fw = s.fw := rfl
@[simp] theorem qUpd_jArea0 (q : Nat) (f : Queue → Queue) (s : State) : (qUpd q f s).jArea0 = s.jArea0 := rfl
@[simp] theorem qUpd_jArea1 (q : Nat) (f : Queue → Queue) (s : State) : (qUpd q f s).jArea1 = s.jArea1 := rfl
@[simp] theorem qUpd_jActive (q : Nat) (f : Queue → Queue) (s : State) : (qUpd q f s).jActive = s.jActive := rfl
@[simp] theorem qUpd_jGathered (q : Nat) (f : Queue → Queue) (s : State) : (qUpd q f s).jGathered = s.jGathered := rfl
@[simp] theorem qUpd_jWritten (q : Nat) (f : Queue → Queue) (s : State) : (qUpd q f s).jWritten = s.jWritten := rfl
@[simp] theorem qUpd_jSeq (q : Nat) (f : Queue → Queue) (s : State) : (qUpd q f s).jSeq = s.jSeq := rfl
@[simp] theorem qUpd_jGatherAt (q : Nat) (f : Queue → Queue) (s : State) : (qUpd q f s).jGatherAt = s.jGatherAt := rfl
@[simp] theorem qUpd_helm (q : Nat) (f : Queue → Queue) (s : State) : (qUpd q f s).helm = s.helm := rfl
@[simp] theorem qUpd_bist (q : Nat) (f : Queue → Queue) (s : State) : (qUpd q f s).bist = s.bist := rfl
@[simp] theorem qUpd_power (q : Nat) (f : Queue → Queue) (s : State) : (qUpd q f s).power = s.power := rfl

/-! ### setPart -/

@[simp] theorem setPart_now (p : Nat) (pt : Part) (s : State) : (setPart p pt s).now = s.now := rfl
@[simp] theorem setPart_cyc (p : Nat) (pt : Part) (s : State) : (setPart p pt s).cyc = s.cyc := rfl
@[simp] theorem setPart_free (p : Nat) (pt : Part) (s : State) : (setPart p pt s).free = s.free := rfl
@[simp] theorem setPart_regs (p : Nat) (pt : Part) (s : State) : (setPart p pt s).regs = s.regs := rfl
@[simp] theorem setPart_pending (p : Nat) (pt : Part) (s : State) : (setPart p pt s).pending = s.pending := rfl
@[simp] theorem setPart_out (p : Nat) (pt : Part) (s : State) : (setPart p pt s).out = s.out := rfl
@[simp] theorem setPart_events (p : Nat) (pt : Part) (s : State) : (setPart p pt s).events = s.events := rfl
@[simp] theorem setPart_hostMem (p : Nat) (pt : Part) (s : State) : (setPart p pt s).hostMem = s.hostMem := rfl
@[simp] theorem setPart_parts (p : Nat) (pt : Part) (s : State) : (setPart p pt s).parts = mapSet partReset s.parts p pt := rfl
@[simp] theorem setPart_tensors (p : Nat) (pt : Part) (s : State) : (setPart p pt s).tensors = s.tensors := rfl
@[simp] theorem setPart_nextHandle (p : Nat) (pt : Part) (s : State) : (setPart p pt s).nextHandle = s.nextHandle := rfl
@[simp] theorem setPart_acxHandles (p : Nat) (pt : Part) (s : State) : (setPart p pt s).acxHandles = s.acxHandles := rfl
@[simp] theorem setPart_kvEntries (p : Nat) (pt : Part) (s : State) : (setPart p pt s).kvEntries = s.kvEntries := rfl
@[simp] theorem setPart_kvCtxs (p : Nat) (pt : Part) (s : State) : (setPart p pt s).kvCtxs = s.kvCtxs := rfl
@[simp] theorem setPart_kvLow (p : Nat) (pt : Part) (s : State) : (setPart p pt s).kvLow = s.kvLow := rfl
@[simp] theorem setPart_kvStamps (p : Nat) (pt : Part) (s : State) : (setPart p pt s).kvStamps = s.kvStamps := rfl
@[simp] theorem setPart_reqs (p : Nat) (pt : Part) (s : State) : (setPart p pt s).reqs = s.reqs := rfl
@[simp] theorem setPart_traceSeq (p : Nat) (pt : Part) (s : State) : (setPart p pt s).traceSeq = s.traceSeq := rfl
@[simp] theorem setPart_tvSeq (p : Nat) (pt : Part) (s : State) : (setPart p pt s).tvSeq = s.tvSeq := rfl
@[simp] theorem setPart_tv (p : Nat) (pt : Part) (s : State) : (setPart p pt s).tv = s.tv := rfl
@[simp] theorem setPart_health (p : Nat) (pt : Part) (s : State) : (setPart p pt s).health = s.health := rfl
@[simp] theorem setPart_windows (p : Nat) (pt : Part) (s : State) : (setPart p pt s).windows = s.windows := rfl
@[simp] theorem setPart_sramCe (p : Nat) (pt : Part) (s : State) : (setPart p pt s).sramCe = s.sramCe := rfl
@[simp] theorem setPart_sramPoison (p : Nat) (pt : Part) (s : State) : (setPart p pt s).sramPoison = s.sramPoison := rfl
@[simp] theorem setPart_repairQueue (p : Nat) (pt : Part) (s : State) : (setPart p pt s).repairQueue = s.repairQueue := rfl
@[simp] theorem setPart_dram (p : Nat) (pt : Part) (s : State) : (setPart p pt s).dram = s.dram := rfl
@[simp] theorem setPart_flaskMem (p : Nat) (pt : Part) (s : State) : (setPart p pt s).flaskMem = s.flaskMem := rfl
@[simp] theorem setPart_poison (p : Nat) (pt : Part) (s : State) : (setPart p pt s).poison = s.poison := rfl
@[simp] theorem setPart_dramErrs (p : Nat) (pt : Part) (s : State) : (setPart p pt s).dramErrs = s.dramErrs := rfl
@[simp] theorem setPart_remapped (p : Nat) (pt : Part) (s : State) : (setPart p pt s).remapped = s.remapped := rfl
@[simp] theorem setPart_hbm (p : Nat) (pt : Part) (s : State) : (setPart p pt s).hbm = s.hbm := rfl
@[simp] theorem setPart_dueCount (p : Nat) (pt : Part) (s : State) : (setPart p pt s).dueCount = s.dueCount := rfl
@[simp] theorem setPart_heldAccs (p : Nat) (pt : Part) (s : State) : (setPart p pt s).heldAccs = s.heldAccs := rfl
@[simp] theorem setPart_deferred (p : Nat) (pt : Part) (s : State) : (setPart p pt s).deferred = s.deferred := rfl
@[simp] theorem setPart_edcCtx (p : Nat) (pt : Part) (s : State) : (setPart p pt s).edcCtx = s.edcCtx := rfl
@[simp] theorem setPart_edcLockAt (p : Nat) (pt : Part) (s : State) : (setPart p pt s).edcLockAt = s.edcLockAt := rfl
@[simp] theorem setPart_msixOn (p : Nat) (pt : Part) (s : State) : (setPart p pt s).msixOn = s.msixOn := rfl
@[simp] theorem setPart_vecOpen (p : Nat) (pt : Part) (s : State) : (setPart p pt s).vecOpen = s.vecOpen := rfl
@[simp] theorem setPart_msixHeld (p : Nat) (pt : Part) (s : State) : (setPart p pt s).msixHeld = s.msixHeld := rfl
@[simp] theorem setPart_retention (p : Nat) (pt : Part) (s : State) : (setPart p pt s).retention = s.retention := rfl
@[simp] theorem setPart_queues (p : Nat) (pt : Part) (s : State) : (setPart p pt s).queues = s.queues := rfl
@[simp] theorem setPart_slots (p : Nat) (pt : Part) (s : State) : (setPart p pt s).slots = s.slots := rfl
@[simp] theorem setPart_qps (p : Nat) (pt : Part) (s : State) : (setPart p pt s).qps = s.qps := rfl
@[simp] theorem setPart_mrs (p : Nat) (pt : Part) (s : State) : (setPart p pt s).mrs = s.mrs := rfl
@[simp] theorem setPart_egress (p : Nat) (pt : Part) (s : State) : (setPart p pt s).egress = s.egress := rfl
@[simp] theorem setPart_postNo (p : Nat) (pt : Part) (s : State) : (setPart p pt s).postNo = s.postNo := rfl
@[simp] theorem setPart_acxRx (p : Nat) (pt : Part) (s : State) : (setPart p pt s).acxRx = s.acxRx := rfl
@[simp] theorem setPart_spots (p : Nat) (pt : Part) (s : State) : (setPart p pt s).spots = s.spots := rfl
@[simp] theorem setPart_therm (p : Nat) (pt : Part) (s : State) : (setPart p pt s).therm = s.therm := rfl
@[simp] theorem setPart_time (p : Nat) (pt : Part) (s : State) : (setPart p pt s).time = s.time := rfl
@[simp] theorem setPart_wrapped (p : Nat) (pt : Part) (s : State) : (setPart p pt s).wrapped = s.wrapped := rfl
@[simp] theorem setPart_idReady (p : Nat) (pt : Part) (s : State) : (setPart p pt s).idReady = s.idReady := rfl
@[simp] theorem setPart_uncleared (p : Nat) (pt : Part) (s : State) : (setPart p pt s).uncleared = s.uncleared := rfl
@[simp] theorem setPart_scrubs (p : Nat) (pt : Part) (s : State) : (setPart p pt s).scrubs = s.scrubs := rfl
@[simp] theorem setPart_secOp (p : Nat) (pt : Part) (s : State) : (setPart p pt s).secOp = s.secOp := rfl
@[simp] theorem setPart_fw (p : Nat) (pt : Part) (s : State) : (setPart p pt s).fw = s.fw := rfl
@[simp] theorem setPart_jArea0 (p : Nat) (pt : Part) (s : State) : (setPart p pt s).jArea0 = s.jArea0 := rfl
@[simp] theorem setPart_jArea1 (p : Nat) (pt : Part) (s : State) : (setPart p pt s).jArea1 = s.jArea1 := rfl
@[simp] theorem setPart_jActive (p : Nat) (pt : Part) (s : State) : (setPart p pt s).jActive = s.jActive := rfl
@[simp] theorem setPart_jGathered (p : Nat) (pt : Part) (s : State) : (setPart p pt s).jGathered = s.jGathered := rfl
@[simp] theorem setPart_jWritten (p : Nat) (pt : Part) (s : State) : (setPart p pt s).jWritten = s.jWritten := rfl
@[simp] theorem setPart_jSeq (p : Nat) (pt : Part) (s : State) : (setPart p pt s).jSeq = s.jSeq := rfl
@[simp] theorem setPart_jGatherAt (p : Nat) (pt : Part) (s : State) : (setPart p pt s).jGatherAt = s.jGatherAt := rfl
@[simp] theorem setPart_helm (p : Nat) (pt : Part) (s : State) : (setPart p pt s).helm = s.helm := rfl
@[simp] theorem setPart_bist (p : Nat) (pt : Part) (s : State) : (setPart p pt s).bist = s.bist := rfl
@[simp] theorem setPart_power (p : Nat) (pt : Part) (s : State) : (setPart p pt s).power = s.power := rfl

/-! ### updPart -/

@[simp] theorem updPart_now (p : Nat) (f : Part → Part) (s : State) : (updPart p f s).now = s.now := rfl
@[simp] theorem updPart_cyc (p : Nat) (f : Part → Part) (s : State) : (updPart p f s).cyc = s.cyc := rfl
@[simp] theorem updPart_free (p : Nat) (f : Part → Part) (s : State) : (updPart p f s).free = s.free := rfl
@[simp] theorem updPart_regs (p : Nat) (f : Part → Part) (s : State) : (updPart p f s).regs = s.regs := rfl
@[simp] theorem updPart_pending (p : Nat) (f : Part → Part) (s : State) : (updPart p f s).pending = s.pending := rfl
@[simp] theorem updPart_out (p : Nat) (f : Part → Part) (s : State) : (updPart p f s).out = s.out := rfl
@[simp] theorem updPart_events (p : Nat) (f : Part → Part) (s : State) : (updPart p f s).events = s.events := rfl
@[simp] theorem updPart_hostMem (p : Nat) (f : Part → Part) (s : State) : (updPart p f s).hostMem = s.hostMem := rfl
@[simp] theorem updPart_parts (p : Nat) (f : Part → Part) (s : State) : (updPart p f s).parts = mapSet partReset s.parts p (f (partOf s p)) := rfl
@[simp] theorem updPart_tensors (p : Nat) (f : Part → Part) (s : State) : (updPart p f s).tensors = s.tensors := rfl
@[simp] theorem updPart_nextHandle (p : Nat) (f : Part → Part) (s : State) : (updPart p f s).nextHandle = s.nextHandle := rfl
@[simp] theorem updPart_acxHandles (p : Nat) (f : Part → Part) (s : State) : (updPart p f s).acxHandles = s.acxHandles := rfl
@[simp] theorem updPart_kvEntries (p : Nat) (f : Part → Part) (s : State) : (updPart p f s).kvEntries = s.kvEntries := rfl
@[simp] theorem updPart_kvCtxs (p : Nat) (f : Part → Part) (s : State) : (updPart p f s).kvCtxs = s.kvCtxs := rfl
@[simp] theorem updPart_kvLow (p : Nat) (f : Part → Part) (s : State) : (updPart p f s).kvLow = s.kvLow := rfl
@[simp] theorem updPart_kvStamps (p : Nat) (f : Part → Part) (s : State) : (updPart p f s).kvStamps = s.kvStamps := rfl
@[simp] theorem updPart_reqs (p : Nat) (f : Part → Part) (s : State) : (updPart p f s).reqs = s.reqs := rfl
@[simp] theorem updPart_traceSeq (p : Nat) (f : Part → Part) (s : State) : (updPart p f s).traceSeq = s.traceSeq := rfl
@[simp] theorem updPart_tvSeq (p : Nat) (f : Part → Part) (s : State) : (updPart p f s).tvSeq = s.tvSeq := rfl
@[simp] theorem updPart_tv (p : Nat) (f : Part → Part) (s : State) : (updPart p f s).tv = s.tv := rfl
@[simp] theorem updPart_health (p : Nat) (f : Part → Part) (s : State) : (updPart p f s).health = s.health := rfl
@[simp] theorem updPart_windows (p : Nat) (f : Part → Part) (s : State) : (updPart p f s).windows = s.windows := rfl
@[simp] theorem updPart_sramCe (p : Nat) (f : Part → Part) (s : State) : (updPart p f s).sramCe = s.sramCe := rfl
@[simp] theorem updPart_sramPoison (p : Nat) (f : Part → Part) (s : State) : (updPart p f s).sramPoison = s.sramPoison := rfl
@[simp] theorem updPart_repairQueue (p : Nat) (f : Part → Part) (s : State) : (updPart p f s).repairQueue = s.repairQueue := rfl
@[simp] theorem updPart_dram (p : Nat) (f : Part → Part) (s : State) : (updPart p f s).dram = s.dram := rfl
@[simp] theorem updPart_flaskMem (p : Nat) (f : Part → Part) (s : State) : (updPart p f s).flaskMem = s.flaskMem := rfl
@[simp] theorem updPart_poison (p : Nat) (f : Part → Part) (s : State) : (updPart p f s).poison = s.poison := rfl
@[simp] theorem updPart_dramErrs (p : Nat) (f : Part → Part) (s : State) : (updPart p f s).dramErrs = s.dramErrs := rfl
@[simp] theorem updPart_remapped (p : Nat) (f : Part → Part) (s : State) : (updPart p f s).remapped = s.remapped := rfl
@[simp] theorem updPart_hbm (p : Nat) (f : Part → Part) (s : State) : (updPart p f s).hbm = s.hbm := rfl
@[simp] theorem updPart_dueCount (p : Nat) (f : Part → Part) (s : State) : (updPart p f s).dueCount = s.dueCount := rfl
@[simp] theorem updPart_heldAccs (p : Nat) (f : Part → Part) (s : State) : (updPart p f s).heldAccs = s.heldAccs := rfl
@[simp] theorem updPart_deferred (p : Nat) (f : Part → Part) (s : State) : (updPart p f s).deferred = s.deferred := rfl
@[simp] theorem updPart_edcCtx (p : Nat) (f : Part → Part) (s : State) : (updPart p f s).edcCtx = s.edcCtx := rfl
@[simp] theorem updPart_edcLockAt (p : Nat) (f : Part → Part) (s : State) : (updPart p f s).edcLockAt = s.edcLockAt := rfl
@[simp] theorem updPart_msixOn (p : Nat) (f : Part → Part) (s : State) : (updPart p f s).msixOn = s.msixOn := rfl
@[simp] theorem updPart_vecOpen (p : Nat) (f : Part → Part) (s : State) : (updPart p f s).vecOpen = s.vecOpen := rfl
@[simp] theorem updPart_msixHeld (p : Nat) (f : Part → Part) (s : State) : (updPart p f s).msixHeld = s.msixHeld := rfl
@[simp] theorem updPart_retention (p : Nat) (f : Part → Part) (s : State) : (updPart p f s).retention = s.retention := rfl
@[simp] theorem updPart_queues (p : Nat) (f : Part → Part) (s : State) : (updPart p f s).queues = s.queues := rfl
@[simp] theorem updPart_slots (p : Nat) (f : Part → Part) (s : State) : (updPart p f s).slots = s.slots := rfl
@[simp] theorem updPart_qps (p : Nat) (f : Part → Part) (s : State) : (updPart p f s).qps = s.qps := rfl
@[simp] theorem updPart_mrs (p : Nat) (f : Part → Part) (s : State) : (updPart p f s).mrs = s.mrs := rfl
@[simp] theorem updPart_egress (p : Nat) (f : Part → Part) (s : State) : (updPart p f s).egress = s.egress := rfl
@[simp] theorem updPart_postNo (p : Nat) (f : Part → Part) (s : State) : (updPart p f s).postNo = s.postNo := rfl
@[simp] theorem updPart_acxRx (p : Nat) (f : Part → Part) (s : State) : (updPart p f s).acxRx = s.acxRx := rfl
@[simp] theorem updPart_spots (p : Nat) (f : Part → Part) (s : State) : (updPart p f s).spots = s.spots := rfl
@[simp] theorem updPart_therm (p : Nat) (f : Part → Part) (s : State) : (updPart p f s).therm = s.therm := rfl
@[simp] theorem updPart_time (p : Nat) (f : Part → Part) (s : State) : (updPart p f s).time = s.time := rfl
@[simp] theorem updPart_wrapped (p : Nat) (f : Part → Part) (s : State) : (updPart p f s).wrapped = s.wrapped := rfl
@[simp] theorem updPart_idReady (p : Nat) (f : Part → Part) (s : State) : (updPart p f s).idReady = s.idReady := rfl
@[simp] theorem updPart_uncleared (p : Nat) (f : Part → Part) (s : State) : (updPart p f s).uncleared = s.uncleared := rfl
@[simp] theorem updPart_scrubs (p : Nat) (f : Part → Part) (s : State) : (updPart p f s).scrubs = s.scrubs := rfl
@[simp] theorem updPart_secOp (p : Nat) (f : Part → Part) (s : State) : (updPart p f s).secOp = s.secOp := rfl
@[simp] theorem updPart_fw (p : Nat) (f : Part → Part) (s : State) : (updPart p f s).fw = s.fw := rfl
@[simp] theorem updPart_jArea0 (p : Nat) (f : Part → Part) (s : State) : (updPart p f s).jArea0 = s.jArea0 := rfl
@[simp] theorem updPart_jArea1 (p : Nat) (f : Part → Part) (s : State) : (updPart p f s).jArea1 = s.jArea1 := rfl
@[simp] theorem updPart_jActive (p : Nat) (f : Part → Part) (s : State) : (updPart p f s).jActive = s.jActive := rfl
@[simp] theorem updPart_jGathered (p : Nat) (f : Part → Part) (s : State) : (updPart p f s).jGathered = s.jGathered := rfl
@[simp] theorem updPart_jWritten (p : Nat) (f : Part → Part) (s : State) : (updPart p f s).jWritten = s.jWritten := rfl
@[simp] theorem updPart_jSeq (p : Nat) (f : Part → Part) (s : State) : (updPart p f s).jSeq = s.jSeq := rfl
@[simp] theorem updPart_jGatherAt (p : Nat) (f : Part → Part) (s : State) : (updPart p f s).jGatherAt = s.jGatherAt := rfl
@[simp] theorem updPart_helm (p : Nat) (f : Part → Part) (s : State) : (updPart p f s).helm = s.helm := rfl
@[simp] theorem updPart_bist (p : Nat) (f : Part → Part) (s : State) : (updPart p f s).bist = s.bist := rfl
@[simp] theorem updPart_power (p : Nat) (f : Part → Part) (s : State) : (updPart p f s).power = s.power := rfl

/-! ### reqUpd -/

@[simp] theorem reqUpd_now (i : Nat) (f : ReqEnt → ReqEnt) (s : State) : (reqUpd i f s).now = s.now := rfl
@[simp] theorem reqUpd_cyc (i : Nat) (f : ReqEnt → ReqEnt) (s : State) : (reqUpd i f s).cyc = s.cyc := rfl
@[simp] theorem reqUpd_free (i : Nat) (f : ReqEnt → ReqEnt) (s : State) : (reqUpd i f s).free = s.free := rfl
@[simp] theorem reqUpd_regs (i : Nat) (f : ReqEnt → ReqEnt) (s : State) : (reqUpd i f s).regs = s.regs := rfl
@[simp] theorem reqUpd_pending (i : Nat) (f : ReqEnt → ReqEnt) (s : State) : (reqUpd i f s).pending = s.pending := rfl
@[simp] theorem reqUpd_out (i : Nat) (f : ReqEnt → ReqEnt) (s : State) : (reqUpd i f s).out = s.out := rfl
@[simp] theorem reqUpd_events (i : Nat) (f : ReqEnt → ReqEnt) (s : State) : (reqUpd i f s).events = s.events := rfl
@[simp] theorem reqUpd_hostMem (i : Nat) (f : ReqEnt → ReqEnt) (s : State) : (reqUpd i f s).hostMem = s.hostMem := rfl
@[simp] theorem reqUpd_parts (i : Nat) (f : ReqEnt → ReqEnt) (s : State) : (reqUpd i f s).parts = s.parts := rfl
@[simp] theorem reqUpd_tensors (i : Nat) (f : ReqEnt → ReqEnt) (s : State) : (reqUpd i f s).tensors = s.tensors := rfl
@[simp] theorem reqUpd_nextHandle (i : Nat) (f : ReqEnt → ReqEnt) (s : State) : (reqUpd i f s).nextHandle = s.nextHandle := rfl
@[simp] theorem reqUpd_acxHandles (i : Nat) (f : ReqEnt → ReqEnt) (s : State) : (reqUpd i f s).acxHandles = s.acxHandles := rfl
@[simp] theorem reqUpd_kvEntries (i : Nat) (f : ReqEnt → ReqEnt) (s : State) : (reqUpd i f s).kvEntries = s.kvEntries := rfl
@[simp] theorem reqUpd_kvCtxs (i : Nat) (f : ReqEnt → ReqEnt) (s : State) : (reqUpd i f s).kvCtxs = s.kvCtxs := rfl
@[simp] theorem reqUpd_kvLow (i : Nat) (f : ReqEnt → ReqEnt) (s : State) : (reqUpd i f s).kvLow = s.kvLow := rfl
@[simp] theorem reqUpd_kvStamps (i : Nat) (f : ReqEnt → ReqEnt) (s : State) : (reqUpd i f s).kvStamps = s.kvStamps := rfl
@[simp] theorem reqUpd_reqs (i : Nat) (f : ReqEnt → ReqEnt) (s : State) : (reqUpd i f s).reqs = mapUpd reqFree s.reqs i f := rfl
@[simp] theorem reqUpd_traceSeq (i : Nat) (f : ReqEnt → ReqEnt) (s : State) : (reqUpd i f s).traceSeq = s.traceSeq := rfl
@[simp] theorem reqUpd_tvSeq (i : Nat) (f : ReqEnt → ReqEnt) (s : State) : (reqUpd i f s).tvSeq = s.tvSeq := rfl
@[simp] theorem reqUpd_tv (i : Nat) (f : ReqEnt → ReqEnt) (s : State) : (reqUpd i f s).tv = s.tv := rfl
@[simp] theorem reqUpd_health (i : Nat) (f : ReqEnt → ReqEnt) (s : State) : (reqUpd i f s).health = s.health := rfl
@[simp] theorem reqUpd_windows (i : Nat) (f : ReqEnt → ReqEnt) (s : State) : (reqUpd i f s).windows = s.windows := rfl
@[simp] theorem reqUpd_sramCe (i : Nat) (f : ReqEnt → ReqEnt) (s : State) : (reqUpd i f s).sramCe = s.sramCe := rfl
@[simp] theorem reqUpd_sramPoison (i : Nat) (f : ReqEnt → ReqEnt) (s : State) : (reqUpd i f s).sramPoison = s.sramPoison := rfl
@[simp] theorem reqUpd_repairQueue (i : Nat) (f : ReqEnt → ReqEnt) (s : State) : (reqUpd i f s).repairQueue = s.repairQueue := rfl
@[simp] theorem reqUpd_dram (i : Nat) (f : ReqEnt → ReqEnt) (s : State) : (reqUpd i f s).dram = s.dram := rfl
@[simp] theorem reqUpd_flaskMem (i : Nat) (f : ReqEnt → ReqEnt) (s : State) : (reqUpd i f s).flaskMem = s.flaskMem := rfl
@[simp] theorem reqUpd_poison (i : Nat) (f : ReqEnt → ReqEnt) (s : State) : (reqUpd i f s).poison = s.poison := rfl
@[simp] theorem reqUpd_dramErrs (i : Nat) (f : ReqEnt → ReqEnt) (s : State) : (reqUpd i f s).dramErrs = s.dramErrs := rfl
@[simp] theorem reqUpd_remapped (i : Nat) (f : ReqEnt → ReqEnt) (s : State) : (reqUpd i f s).remapped = s.remapped := rfl
@[simp] theorem reqUpd_hbm (i : Nat) (f : ReqEnt → ReqEnt) (s : State) : (reqUpd i f s).hbm = s.hbm := rfl
@[simp] theorem reqUpd_dueCount (i : Nat) (f : ReqEnt → ReqEnt) (s : State) : (reqUpd i f s).dueCount = s.dueCount := rfl
@[simp] theorem reqUpd_heldAccs (i : Nat) (f : ReqEnt → ReqEnt) (s : State) : (reqUpd i f s).heldAccs = s.heldAccs := rfl
@[simp] theorem reqUpd_deferred (i : Nat) (f : ReqEnt → ReqEnt) (s : State) : (reqUpd i f s).deferred = s.deferred := rfl
@[simp] theorem reqUpd_edcCtx (i : Nat) (f : ReqEnt → ReqEnt) (s : State) : (reqUpd i f s).edcCtx = s.edcCtx := rfl
@[simp] theorem reqUpd_edcLockAt (i : Nat) (f : ReqEnt → ReqEnt) (s : State) : (reqUpd i f s).edcLockAt = s.edcLockAt := rfl
@[simp] theorem reqUpd_msixOn (i : Nat) (f : ReqEnt → ReqEnt) (s : State) : (reqUpd i f s).msixOn = s.msixOn := rfl
@[simp] theorem reqUpd_vecOpen (i : Nat) (f : ReqEnt → ReqEnt) (s : State) : (reqUpd i f s).vecOpen = s.vecOpen := rfl
@[simp] theorem reqUpd_msixHeld (i : Nat) (f : ReqEnt → ReqEnt) (s : State) : (reqUpd i f s).msixHeld = s.msixHeld := rfl
@[simp] theorem reqUpd_retention (i : Nat) (f : ReqEnt → ReqEnt) (s : State) : (reqUpd i f s).retention = s.retention := rfl
@[simp] theorem reqUpd_queues (i : Nat) (f : ReqEnt → ReqEnt) (s : State) : (reqUpd i f s).queues = s.queues := rfl
@[simp] theorem reqUpd_slots (i : Nat) (f : ReqEnt → ReqEnt) (s : State) : (reqUpd i f s).slots = s.slots := rfl
@[simp] theorem reqUpd_qps (i : Nat) (f : ReqEnt → ReqEnt) (s : State) : (reqUpd i f s).qps = s.qps := rfl
@[simp] theorem reqUpd_mrs (i : Nat) (f : ReqEnt → ReqEnt) (s : State) : (reqUpd i f s).mrs = s.mrs := rfl
@[simp] theorem reqUpd_egress (i : Nat) (f : ReqEnt → ReqEnt) (s : State) : (reqUpd i f s).egress = s.egress := rfl
@[simp] theorem reqUpd_postNo (i : Nat) (f : ReqEnt → ReqEnt) (s : State) : (reqUpd i f s).postNo = s.postNo := rfl
@[simp] theorem reqUpd_acxRx (i : Nat) (f : ReqEnt → ReqEnt) (s : State) : (reqUpd i f s).acxRx = s.acxRx := rfl
@[simp] theorem reqUpd_spots (i : Nat) (f : ReqEnt → ReqEnt) (s : State) : (reqUpd i f s).spots = s.spots := rfl
@[simp] theorem reqUpd_therm (i : Nat) (f : ReqEnt → ReqEnt) (s : State) : (reqUpd i f s).therm = s.therm := rfl
@[simp] theorem reqUpd_time (i : Nat) (f : ReqEnt → ReqEnt) (s : State) : (reqUpd i f s).time = s.time := rfl
@[simp] theorem reqUpd_wrapped (i : Nat) (f : ReqEnt → ReqEnt) (s : State) : (reqUpd i f s).wrapped = s.wrapped := rfl
@[simp] theorem reqUpd_idReady (i : Nat) (f : ReqEnt → ReqEnt) (s : State) : (reqUpd i f s).idReady = s.idReady := rfl
@[simp] theorem reqUpd_uncleared (i : Nat) (f : ReqEnt → ReqEnt) (s : State) : (reqUpd i f s).uncleared = s.uncleared := rfl
@[simp] theorem reqUpd_scrubs (i : Nat) (f : ReqEnt → ReqEnt) (s : State) : (reqUpd i f s).scrubs = s.scrubs := rfl
@[simp] theorem reqUpd_secOp (i : Nat) (f : ReqEnt → ReqEnt) (s : State) : (reqUpd i f s).secOp = s.secOp := rfl
@[simp] theorem reqUpd_fw (i : Nat) (f : ReqEnt → ReqEnt) (s : State) : (reqUpd i f s).fw = s.fw := rfl
@[simp] theorem reqUpd_jArea0 (i : Nat) (f : ReqEnt → ReqEnt) (s : State) : (reqUpd i f s).jArea0 = s.jArea0 := rfl
@[simp] theorem reqUpd_jArea1 (i : Nat) (f : ReqEnt → ReqEnt) (s : State) : (reqUpd i f s).jArea1 = s.jArea1 := rfl
@[simp] theorem reqUpd_jActive (i : Nat) (f : ReqEnt → ReqEnt) (s : State) : (reqUpd i f s).jActive = s.jActive := rfl
@[simp] theorem reqUpd_jGathered (i : Nat) (f : ReqEnt → ReqEnt) (s : State) : (reqUpd i f s).jGathered = s.jGathered := rfl
@[simp] theorem reqUpd_jWritten (i : Nat) (f : ReqEnt → ReqEnt) (s : State) : (reqUpd i f s).jWritten = s.jWritten := rfl
@[simp] theorem reqUpd_jSeq (i : Nat) (f : ReqEnt → ReqEnt) (s : State) : (reqUpd i f s).jSeq = s.jSeq := rfl
@[simp] theorem reqUpd_jGatherAt (i : Nat) (f : ReqEnt → ReqEnt) (s : State) : (reqUpd i f s).jGatherAt = s.jGatherAt := rfl
@[simp] theorem reqUpd_helm (i : Nat) (f : ReqEnt → ReqEnt) (s : State) : (reqUpd i f s).helm = s.helm := rfl
@[simp] theorem reqUpd_bist (i : Nat) (f : ReqEnt → ReqEnt) (s : State) : (reqUpd i f s).bist = s.bist := rfl
@[simp] theorem reqUpd_power (i : Nat) (f : ReqEnt → ReqEnt) (s : State) : (reqUpd i f s).power = s.power := rfl

/-! ### updTensor -/

@[simp] theorem updTensor_now (h : Nat) (f : Tensor → Tensor) (s : State) : (updTensor h f s).now = s.now := rfl
@[simp] theorem updTensor_cyc (h : Nat) (f : Tensor → Tensor) (s : State) : (updTensor h f s).cyc = s.cyc := rfl
@[simp] theorem updTensor_free (h : Nat) (f : Tensor → Tensor) (s : State) : (updTensor h f s).free = s.free := rfl
@[simp] theorem updTensor_regs (h : Nat) (f : Tensor → Tensor) (s : State) : (updTensor h f s).regs = s.regs := rfl
@[simp] theorem updTensor_pending (h : Nat) (f : Tensor → Tensor) (s : State) : (updTensor h f s).pending = s.pending := rfl
@[simp] theorem updTensor_out (h : Nat) (f : Tensor → Tensor) (s : State) : (updTensor h f s).out = s.out := rfl
@[simp] theorem updTensor_events (h : Nat) (f : Tensor → Tensor) (s : State) : (updTensor h f s).events = s.events := rfl
@[simp] theorem updTensor_hostMem (h : Nat) (f : Tensor → Tensor) (s : State) : (updTensor h f s).hostMem = s.hostMem := rfl
@[simp] theorem updTensor_parts (h : Nat) (f : Tensor → Tensor) (s : State) : (updTensor h f s).parts = s.parts := rfl
@[simp] theorem updTensor_tensors (h : Nat) (f : Tensor → Tensor) (s : State) : (updTensor h f s).tensors = mapUpd none s.tensors h (fun t => t.map f) := rfl
@[simp] theorem updTensor_nextHandle (h : Nat) (f : Tensor → Tensor) (s : State) : (updTensor h f s).nextHandle = s.nextHandle := rfl
@[simp] theorem updTensor_acxHandles (h : Nat) (f : Tensor → Tensor) (s : State) : (updTensor h f s).acxHandles = s.acxHandles := rfl
@[simp] theorem updTensor_kvEntries (h : Nat) (f : Tensor → Tensor) (s : State) : (updTensor h f s).kvEntries = s.kvEntries := rfl
@[simp] theorem updTensor_kvCtxs (h : Nat) (f : Tensor → Tensor) (s : State) : (updTensor h f s).kvCtxs = s.kvCtxs := rfl
@[simp] theorem updTensor_kvLow (h : Nat) (f : Tensor → Tensor) (s : State) : (updTensor h f s).kvLow = s.kvLow := rfl
@[simp] theorem updTensor_kvStamps (h : Nat) (f : Tensor → Tensor) (s : State) : (updTensor h f s).kvStamps = s.kvStamps := rfl
@[simp] theorem updTensor_reqs (h : Nat) (f : Tensor → Tensor) (s : State) : (updTensor h f s).reqs = s.reqs := rfl
@[simp] theorem updTensor_traceSeq (h : Nat) (f : Tensor → Tensor) (s : State) : (updTensor h f s).traceSeq = s.traceSeq := rfl
@[simp] theorem updTensor_tvSeq (h : Nat) (f : Tensor → Tensor) (s : State) : (updTensor h f s).tvSeq = s.tvSeq := rfl
@[simp] theorem updTensor_tv (h : Nat) (f : Tensor → Tensor) (s : State) : (updTensor h f s).tv = s.tv := rfl
@[simp] theorem updTensor_health (h : Nat) (f : Tensor → Tensor) (s : State) : (updTensor h f s).health = s.health := rfl
@[simp] theorem updTensor_windows (h : Nat) (f : Tensor → Tensor) (s : State) : (updTensor h f s).windows = s.windows := rfl
@[simp] theorem updTensor_sramCe (h : Nat) (f : Tensor → Tensor) (s : State) : (updTensor h f s).sramCe = s.sramCe := rfl
@[simp] theorem updTensor_sramPoison (h : Nat) (f : Tensor → Tensor) (s : State) : (updTensor h f s).sramPoison = s.sramPoison := rfl
@[simp] theorem updTensor_repairQueue (h : Nat) (f : Tensor → Tensor) (s : State) : (updTensor h f s).repairQueue = s.repairQueue := rfl
@[simp] theorem updTensor_dram (h : Nat) (f : Tensor → Tensor) (s : State) : (updTensor h f s).dram = s.dram := rfl
@[simp] theorem updTensor_flaskMem (h : Nat) (f : Tensor → Tensor) (s : State) : (updTensor h f s).flaskMem = s.flaskMem := rfl
@[simp] theorem updTensor_poison (h : Nat) (f : Tensor → Tensor) (s : State) : (updTensor h f s).poison = s.poison := rfl
@[simp] theorem updTensor_dramErrs (h : Nat) (f : Tensor → Tensor) (s : State) : (updTensor h f s).dramErrs = s.dramErrs := rfl
@[simp] theorem updTensor_remapped (h : Nat) (f : Tensor → Tensor) (s : State) : (updTensor h f s).remapped = s.remapped := rfl
@[simp] theorem updTensor_hbm (h : Nat) (f : Tensor → Tensor) (s : State) : (updTensor h f s).hbm = s.hbm := rfl
@[simp] theorem updTensor_dueCount (h : Nat) (f : Tensor → Tensor) (s : State) : (updTensor h f s).dueCount = s.dueCount := rfl
@[simp] theorem updTensor_heldAccs (h : Nat) (f : Tensor → Tensor) (s : State) : (updTensor h f s).heldAccs = s.heldAccs := rfl
@[simp] theorem updTensor_deferred (h : Nat) (f : Tensor → Tensor) (s : State) : (updTensor h f s).deferred = s.deferred := rfl
@[simp] theorem updTensor_edcCtx (h : Nat) (f : Tensor → Tensor) (s : State) : (updTensor h f s).edcCtx = s.edcCtx := rfl
@[simp] theorem updTensor_edcLockAt (h : Nat) (f : Tensor → Tensor) (s : State) : (updTensor h f s).edcLockAt = s.edcLockAt := rfl
@[simp] theorem updTensor_msixOn (h : Nat) (f : Tensor → Tensor) (s : State) : (updTensor h f s).msixOn = s.msixOn := rfl
@[simp] theorem updTensor_vecOpen (h : Nat) (f : Tensor → Tensor) (s : State) : (updTensor h f s).vecOpen = s.vecOpen := rfl
@[simp] theorem updTensor_msixHeld (h : Nat) (f : Tensor → Tensor) (s : State) : (updTensor h f s).msixHeld = s.msixHeld := rfl
@[simp] theorem updTensor_retention (h : Nat) (f : Tensor → Tensor) (s : State) : (updTensor h f s).retention = s.retention := rfl
@[simp] theorem updTensor_queues (h : Nat) (f : Tensor → Tensor) (s : State) : (updTensor h f s).queues = s.queues := rfl
@[simp] theorem updTensor_slots (h : Nat) (f : Tensor → Tensor) (s : State) : (updTensor h f s).slots = s.slots := rfl
@[simp] theorem updTensor_qps (h : Nat) (f : Tensor → Tensor) (s : State) : (updTensor h f s).qps = s.qps := rfl
@[simp] theorem updTensor_mrs (h : Nat) (f : Tensor → Tensor) (s : State) : (updTensor h f s).mrs = s.mrs := rfl
@[simp] theorem updTensor_egress (h : Nat) (f : Tensor → Tensor) (s : State) : (updTensor h f s).egress = s.egress := rfl
@[simp] theorem updTensor_postNo (h : Nat) (f : Tensor → Tensor) (s : State) : (updTensor h f s).postNo = s.postNo := rfl
@[simp] theorem updTensor_acxRx (h : Nat) (f : Tensor → Tensor) (s : State) : (updTensor h f s).acxRx = s.acxRx := rfl
@[simp] theorem updTensor_spots (h : Nat) (f : Tensor → Tensor) (s : State) : (updTensor h f s).spots = s.spots := rfl
@[simp] theorem updTensor_therm (h : Nat) (f : Tensor → Tensor) (s : State) : (updTensor h f s).therm = s.therm := rfl
@[simp] theorem updTensor_time (h : Nat) (f : Tensor → Tensor) (s : State) : (updTensor h f s).time = s.time := rfl
@[simp] theorem updTensor_wrapped (h : Nat) (f : Tensor → Tensor) (s : State) : (updTensor h f s).wrapped = s.wrapped := rfl
@[simp] theorem updTensor_idReady (h : Nat) (f : Tensor → Tensor) (s : State) : (updTensor h f s).idReady = s.idReady := rfl
@[simp] theorem updTensor_uncleared (h : Nat) (f : Tensor → Tensor) (s : State) : (updTensor h f s).uncleared = s.uncleared := rfl
@[simp] theorem updTensor_scrubs (h : Nat) (f : Tensor → Tensor) (s : State) : (updTensor h f s).scrubs = s.scrubs := rfl
@[simp] theorem updTensor_secOp (h : Nat) (f : Tensor → Tensor) (s : State) : (updTensor h f s).secOp = s.secOp := rfl
@[simp] theorem updTensor_fw (h : Nat) (f : Tensor → Tensor) (s : State) : (updTensor h f s).fw = s.fw := rfl
@[simp] theorem updTensor_jArea0 (h : Nat) (f : Tensor → Tensor) (s : State) : (updTensor h f s).jArea0 = s.jArea0 := rfl
@[simp] theorem updTensor_jArea1 (h : Nat) (f : Tensor → Tensor) (s : State) : (updTensor h f s).jArea1 = s.jArea1 := rfl
@[simp] theorem updTensor_jActive (h : Nat) (f : Tensor → Tensor) (s : State) : (updTensor h f s).jActive = s.jActive := rfl
@[simp] theorem updTensor_jGathered (h : Nat) (f : Tensor → Tensor) (s : State) : (updTensor h f s).jGathered = s.jGathered := rfl
@[simp] theorem updTensor_jWritten (h : Nat) (f : Tensor → Tensor) (s : State) : (updTensor h f s).jWritten = s.jWritten := rfl
@[simp] theorem updTensor_jSeq (h : Nat) (f : Tensor → Tensor) (s : State) : (updTensor h f s).jSeq = s.jSeq := rfl
@[simp] theorem updTensor_jGatherAt (h : Nat) (f : Tensor → Tensor) (s : State) : (updTensor h f s).jGatherAt = s.jGatherAt := rfl
@[simp] theorem updTensor_helm (h : Nat) (f : Tensor → Tensor) (s : State) : (updTensor h f s).helm = s.helm := rfl
@[simp] theorem updTensor_bist (h : Nat) (f : Tensor → Tensor) (s : State) : (updTensor h f s).bist = s.bist := rfl
@[simp] theorem updTensor_power (h : Nat) (f : Tensor → Tensor) (s : State) : (updTensor h f s).power = s.power := rfl

/-! ### slotUpd -/

@[simp] theorem slotUpd_now (i : Nat) (f : Slot → Slot) (s : State) : (slotUpd i f s).now = s.now := rfl
@[simp] theorem slotUpd_cyc (i : Nat) (f : Slot → Slot) (s : State) : (slotUpd i f s).cyc = s.cyc := rfl
@[simp] theorem slotUpd_free (i : Nat) (f : Slot → Slot) (s : State) : (slotUpd i f s).free = s.free := rfl
@[simp] theorem slotUpd_regs (i : Nat) (f : Slot → Slot) (s : State) : (slotUpd i f s).regs = s.regs := rfl
@[simp] theorem slotUpd_pending (i : Nat) (f : Slot → Slot) (s : State) : (slotUpd i f s).pending = s.pending := rfl
@[simp] theorem slotUpd_out (i : Nat) (f : Slot → Slot) (s : State) : (slotUpd i f s).out = s.out := rfl
@[simp] theorem slotUpd_events (i : Nat) (f : Slot → Slot) (s : State) : (slotUpd i f s).events = s.events := rfl
@[simp] theorem slotUpd_hostMem (i : Nat) (f : Slot → Slot) (s : State) : (slotUpd i f s).hostMem = s.hostMem := rfl
@[simp] theorem slotUpd_parts (i : Nat) (f : Slot → Slot) (s : State) : (slotUpd i f s).parts = s.parts := rfl
@[simp] theorem slotUpd_tensors (i : Nat) (f : Slot → Slot) (s : State) : (slotUpd i f s).tensors = s.tensors := rfl
@[simp] theorem slotUpd_nextHandle (i : Nat) (f : Slot → Slot) (s : State) : (slotUpd i f s).nextHandle = s.nextHandle := rfl
@[simp] theorem slotUpd_acxHandles (i : Nat) (f : Slot → Slot) (s : State) : (slotUpd i f s).acxHandles = s.acxHandles := rfl
@[simp] theorem slotUpd_kvEntries (i : Nat) (f : Slot → Slot) (s : State) : (slotUpd i f s).kvEntries = s.kvEntries := rfl
@[simp] theorem slotUpd_kvCtxs (i : Nat) (f : Slot → Slot) (s : State) : (slotUpd i f s).kvCtxs = s.kvCtxs := rfl
@[simp] theorem slotUpd_kvLow (i : Nat) (f : Slot → Slot) (s : State) : (slotUpd i f s).kvLow = s.kvLow := rfl
@[simp] theorem slotUpd_kvStamps (i : Nat) (f : Slot → Slot) (s : State) : (slotUpd i f s).kvStamps = s.kvStamps := rfl
@[simp] theorem slotUpd_reqs (i : Nat) (f : Slot → Slot) (s : State) : (slotUpd i f s).reqs = s.reqs := rfl
@[simp] theorem slotUpd_traceSeq (i : Nat) (f : Slot → Slot) (s : State) : (slotUpd i f s).traceSeq = s.traceSeq := rfl
@[simp] theorem slotUpd_tvSeq (i : Nat) (f : Slot → Slot) (s : State) : (slotUpd i f s).tvSeq = s.tvSeq := rfl
@[simp] theorem slotUpd_tv (i : Nat) (f : Slot → Slot) (s : State) : (slotUpd i f s).tv = s.tv := rfl
@[simp] theorem slotUpd_health (i : Nat) (f : Slot → Slot) (s : State) : (slotUpd i f s).health = s.health := rfl
@[simp] theorem slotUpd_windows (i : Nat) (f : Slot → Slot) (s : State) : (slotUpd i f s).windows = s.windows := rfl
@[simp] theorem slotUpd_sramCe (i : Nat) (f : Slot → Slot) (s : State) : (slotUpd i f s).sramCe = s.sramCe := rfl
@[simp] theorem slotUpd_sramPoison (i : Nat) (f : Slot → Slot) (s : State) : (slotUpd i f s).sramPoison = s.sramPoison := rfl
@[simp] theorem slotUpd_repairQueue (i : Nat) (f : Slot → Slot) (s : State) : (slotUpd i f s).repairQueue = s.repairQueue := rfl
@[simp] theorem slotUpd_dram (i : Nat) (f : Slot → Slot) (s : State) : (slotUpd i f s).dram = s.dram := rfl
@[simp] theorem slotUpd_flaskMem (i : Nat) (f : Slot → Slot) (s : State) : (slotUpd i f s).flaskMem = s.flaskMem := rfl
@[simp] theorem slotUpd_poison (i : Nat) (f : Slot → Slot) (s : State) : (slotUpd i f s).poison = s.poison := rfl
@[simp] theorem slotUpd_dramErrs (i : Nat) (f : Slot → Slot) (s : State) : (slotUpd i f s).dramErrs = s.dramErrs := rfl
@[simp] theorem slotUpd_remapped (i : Nat) (f : Slot → Slot) (s : State) : (slotUpd i f s).remapped = s.remapped := rfl
@[simp] theorem slotUpd_hbm (i : Nat) (f : Slot → Slot) (s : State) : (slotUpd i f s).hbm = s.hbm := rfl
@[simp] theorem slotUpd_dueCount (i : Nat) (f : Slot → Slot) (s : State) : (slotUpd i f s).dueCount = s.dueCount := rfl
@[simp] theorem slotUpd_heldAccs (i : Nat) (f : Slot → Slot) (s : State) : (slotUpd i f s).heldAccs = s.heldAccs := rfl
@[simp] theorem slotUpd_deferred (i : Nat) (f : Slot → Slot) (s : State) : (slotUpd i f s).deferred = s.deferred := rfl
@[simp] theorem slotUpd_edcCtx (i : Nat) (f : Slot → Slot) (s : State) : (slotUpd i f s).edcCtx = s.edcCtx := rfl
@[simp] theorem slotUpd_edcLockAt (i : Nat) (f : Slot → Slot) (s : State) : (slotUpd i f s).edcLockAt = s.edcLockAt := rfl
@[simp] theorem slotUpd_msixOn (i : Nat) (f : Slot → Slot) (s : State) : (slotUpd i f s).msixOn = s.msixOn := rfl
@[simp] theorem slotUpd_vecOpen (i : Nat) (f : Slot → Slot) (s : State) : (slotUpd i f s).vecOpen = s.vecOpen := rfl
@[simp] theorem slotUpd_msixHeld (i : Nat) (f : Slot → Slot) (s : State) : (slotUpd i f s).msixHeld = s.msixHeld := rfl
@[simp] theorem slotUpd_retention (i : Nat) (f : Slot → Slot) (s : State) : (slotUpd i f s).retention = s.retention := rfl
@[simp] theorem slotUpd_queues (i : Nat) (f : Slot → Slot) (s : State) : (slotUpd i f s).queues = s.queues := rfl
@[simp] theorem slotUpd_slots (i : Nat) (f : Slot → Slot) (s : State) : (slotUpd i f s).slots = mapUpd slotReset s.slots i f := rfl
@[simp] theorem slotUpd_qps (i : Nat) (f : Slot → Slot) (s : State) : (slotUpd i f s).qps = s.qps := rfl
@[simp] theorem slotUpd_mrs (i : Nat) (f : Slot → Slot) (s : State) : (slotUpd i f s).mrs = s.mrs := rfl
@[simp] theorem slotUpd_egress (i : Nat) (f : Slot → Slot) (s : State) : (slotUpd i f s).egress = s.egress := rfl
@[simp] theorem slotUpd_postNo (i : Nat) (f : Slot → Slot) (s : State) : (slotUpd i f s).postNo = s.postNo := rfl
@[simp] theorem slotUpd_acxRx (i : Nat) (f : Slot → Slot) (s : State) : (slotUpd i f s).acxRx = s.acxRx := rfl
@[simp] theorem slotUpd_spots (i : Nat) (f : Slot → Slot) (s : State) : (slotUpd i f s).spots = s.spots := rfl
@[simp] theorem slotUpd_therm (i : Nat) (f : Slot → Slot) (s : State) : (slotUpd i f s).therm = s.therm := rfl
@[simp] theorem slotUpd_time (i : Nat) (f : Slot → Slot) (s : State) : (slotUpd i f s).time = s.time := rfl
@[simp] theorem slotUpd_wrapped (i : Nat) (f : Slot → Slot) (s : State) : (slotUpd i f s).wrapped = s.wrapped := rfl
@[simp] theorem slotUpd_idReady (i : Nat) (f : Slot → Slot) (s : State) : (slotUpd i f s).idReady = s.idReady := rfl
@[simp] theorem slotUpd_uncleared (i : Nat) (f : Slot → Slot) (s : State) : (slotUpd i f s).uncleared = s.uncleared := rfl
@[simp] theorem slotUpd_scrubs (i : Nat) (f : Slot → Slot) (s : State) : (slotUpd i f s).scrubs = s.scrubs := rfl
@[simp] theorem slotUpd_secOp (i : Nat) (f : Slot → Slot) (s : State) : (slotUpd i f s).secOp = s.secOp := rfl
@[simp] theorem slotUpd_fw (i : Nat) (f : Slot → Slot) (s : State) : (slotUpd i f s).fw = s.fw := rfl
@[simp] theorem slotUpd_jArea0 (i : Nat) (f : Slot → Slot) (s : State) : (slotUpd i f s).jArea0 = s.jArea0 := rfl
@[simp] theorem slotUpd_jArea1 (i : Nat) (f : Slot → Slot) (s : State) : (slotUpd i f s).jArea1 = s.jArea1 := rfl
@[simp] theorem slotUpd_jActive (i : Nat) (f : Slot → Slot) (s : State) : (slotUpd i f s).jActive = s.jActive := rfl
@[simp] theorem slotUpd_jGathered (i : Nat) (f : Slot → Slot) (s : State) : (slotUpd i f s).jGathered = s.jGathered := rfl
@[simp] theorem slotUpd_jWritten (i : Nat) (f : Slot → Slot) (s : State) : (slotUpd i f s).jWritten = s.jWritten := rfl
@[simp] theorem slotUpd_jSeq (i : Nat) (f : Slot → Slot) (s : State) : (slotUpd i f s).jSeq = s.jSeq := rfl
@[simp] theorem slotUpd_jGatherAt (i : Nat) (f : Slot → Slot) (s : State) : (slotUpd i f s).jGatherAt = s.jGatherAt := rfl
@[simp] theorem slotUpd_helm (i : Nat) (f : Slot → Slot) (s : State) : (slotUpd i f s).helm = s.helm := rfl
@[simp] theorem slotUpd_bist (i : Nat) (f : Slot → Slot) (s : State) : (slotUpd i f s).bist = s.bist := rfl
@[simp] theorem slotUpd_power (i : Nat) (f : Slot → Slot) (s : State) : (slotUpd i f s).power = s.power := rfl

/-! ### qpUpd -/

@[simp] theorem qpUpd_now (n : Nat) (f : Qp → Qp) (s : State) : (qpUpd n f s).now = s.now := rfl
@[simp] theorem qpUpd_cyc (n : Nat) (f : Qp → Qp) (s : State) : (qpUpd n f s).cyc = s.cyc := rfl
@[simp] theorem qpUpd_free (n : Nat) (f : Qp → Qp) (s : State) : (qpUpd n f s).free = s.free := rfl
@[simp] theorem qpUpd_regs (n : Nat) (f : Qp → Qp) (s : State) : (qpUpd n f s).regs = s.regs := rfl
@[simp] theorem qpUpd_pending (n : Nat) (f : Qp → Qp) (s : State) : (qpUpd n f s).pending = s.pending := rfl
@[simp] theorem qpUpd_out (n : Nat) (f : Qp → Qp) (s : State) : (qpUpd n f s).out = s.out := rfl
@[simp] theorem qpUpd_events (n : Nat) (f : Qp → Qp) (s : State) : (qpUpd n f s).events = s.events := rfl
@[simp] theorem qpUpd_hostMem (n : Nat) (f : Qp → Qp) (s : State) : (qpUpd n f s).hostMem = s.hostMem := rfl
@[simp] theorem qpUpd_parts (n : Nat) (f : Qp → Qp) (s : State) : (qpUpd n f s).parts = s.parts := rfl
@[simp] theorem qpUpd_tensors (n : Nat) (f : Qp → Qp) (s : State) : (qpUpd n f s).tensors = s.tensors := rfl
@[simp] theorem qpUpd_nextHandle (n : Nat) (f : Qp → Qp) (s : State) : (qpUpd n f s).nextHandle = s.nextHandle := rfl
@[simp] theorem qpUpd_acxHandles (n : Nat) (f : Qp → Qp) (s : State) : (qpUpd n f s).acxHandles = s.acxHandles := rfl
@[simp] theorem qpUpd_kvEntries (n : Nat) (f : Qp → Qp) (s : State) : (qpUpd n f s).kvEntries = s.kvEntries := rfl
@[simp] theorem qpUpd_kvCtxs (n : Nat) (f : Qp → Qp) (s : State) : (qpUpd n f s).kvCtxs = s.kvCtxs := rfl
@[simp] theorem qpUpd_kvLow (n : Nat) (f : Qp → Qp) (s : State) : (qpUpd n f s).kvLow = s.kvLow := rfl
@[simp] theorem qpUpd_kvStamps (n : Nat) (f : Qp → Qp) (s : State) : (qpUpd n f s).kvStamps = s.kvStamps := rfl
@[simp] theorem qpUpd_reqs (n : Nat) (f : Qp → Qp) (s : State) : (qpUpd n f s).reqs = s.reqs := rfl
@[simp] theorem qpUpd_traceSeq (n : Nat) (f : Qp → Qp) (s : State) : (qpUpd n f s).traceSeq = s.traceSeq := rfl
@[simp] theorem qpUpd_tvSeq (n : Nat) (f : Qp → Qp) (s : State) : (qpUpd n f s).tvSeq = s.tvSeq := rfl
@[simp] theorem qpUpd_tv (n : Nat) (f : Qp → Qp) (s : State) : (qpUpd n f s).tv = s.tv := rfl
@[simp] theorem qpUpd_health (n : Nat) (f : Qp → Qp) (s : State) : (qpUpd n f s).health = s.health := rfl
@[simp] theorem qpUpd_windows (n : Nat) (f : Qp → Qp) (s : State) : (qpUpd n f s).windows = s.windows := rfl
@[simp] theorem qpUpd_sramCe (n : Nat) (f : Qp → Qp) (s : State) : (qpUpd n f s).sramCe = s.sramCe := rfl
@[simp] theorem qpUpd_sramPoison (n : Nat) (f : Qp → Qp) (s : State) : (qpUpd n f s).sramPoison = s.sramPoison := rfl
@[simp] theorem qpUpd_repairQueue (n : Nat) (f : Qp → Qp) (s : State) : (qpUpd n f s).repairQueue = s.repairQueue := rfl
@[simp] theorem qpUpd_dram (n : Nat) (f : Qp → Qp) (s : State) : (qpUpd n f s).dram = s.dram := rfl
@[simp] theorem qpUpd_flaskMem (n : Nat) (f : Qp → Qp) (s : State) : (qpUpd n f s).flaskMem = s.flaskMem := rfl
@[simp] theorem qpUpd_poison (n : Nat) (f : Qp → Qp) (s : State) : (qpUpd n f s).poison = s.poison := rfl
@[simp] theorem qpUpd_dramErrs (n : Nat) (f : Qp → Qp) (s : State) : (qpUpd n f s).dramErrs = s.dramErrs := rfl
@[simp] theorem qpUpd_remapped (n : Nat) (f : Qp → Qp) (s : State) : (qpUpd n f s).remapped = s.remapped := rfl
@[simp] theorem qpUpd_hbm (n : Nat) (f : Qp → Qp) (s : State) : (qpUpd n f s).hbm = s.hbm := rfl
@[simp] theorem qpUpd_dueCount (n : Nat) (f : Qp → Qp) (s : State) : (qpUpd n f s).dueCount = s.dueCount := rfl
@[simp] theorem qpUpd_heldAccs (n : Nat) (f : Qp → Qp) (s : State) : (qpUpd n f s).heldAccs = s.heldAccs := rfl
@[simp] theorem qpUpd_deferred (n : Nat) (f : Qp → Qp) (s : State) : (qpUpd n f s).deferred = s.deferred := rfl
@[simp] theorem qpUpd_edcCtx (n : Nat) (f : Qp → Qp) (s : State) : (qpUpd n f s).edcCtx = s.edcCtx := rfl
@[simp] theorem qpUpd_edcLockAt (n : Nat) (f : Qp → Qp) (s : State) : (qpUpd n f s).edcLockAt = s.edcLockAt := rfl
@[simp] theorem qpUpd_msixOn (n : Nat) (f : Qp → Qp) (s : State) : (qpUpd n f s).msixOn = s.msixOn := rfl
@[simp] theorem qpUpd_vecOpen (n : Nat) (f : Qp → Qp) (s : State) : (qpUpd n f s).vecOpen = s.vecOpen := rfl
@[simp] theorem qpUpd_msixHeld (n : Nat) (f : Qp → Qp) (s : State) : (qpUpd n f s).msixHeld = s.msixHeld := rfl
@[simp] theorem qpUpd_retention (n : Nat) (f : Qp → Qp) (s : State) : (qpUpd n f s).retention = s.retention := rfl
@[simp] theorem qpUpd_queues (n : Nat) (f : Qp → Qp) (s : State) : (qpUpd n f s).queues = s.queues := rfl
@[simp] theorem qpUpd_slots (n : Nat) (f : Qp → Qp) (s : State) : (qpUpd n f s).slots = s.slots := rfl
@[simp] theorem qpUpd_qps (n : Nat) (f : Qp → Qp) (s : State) : (qpUpd n f s).qps = mapUpd none s.qps n (fun q => q.map f) := rfl
@[simp] theorem qpUpd_mrs (n : Nat) (f : Qp → Qp) (s : State) : (qpUpd n f s).mrs = s.mrs := rfl
@[simp] theorem qpUpd_egress (n : Nat) (f : Qp → Qp) (s : State) : (qpUpd n f s).egress = s.egress := rfl
@[simp] theorem qpUpd_postNo (n : Nat) (f : Qp → Qp) (s : State) : (qpUpd n f s).postNo = s.postNo := rfl
@[simp] theorem qpUpd_acxRx (n : Nat) (f : Qp → Qp) (s : State) : (qpUpd n f s).acxRx = s.acxRx := rfl
@[simp] theorem qpUpd_spots (n : Nat) (f : Qp → Qp) (s : State) : (qpUpd n f s).spots = s.spots := rfl
@[simp] theorem qpUpd_therm (n : Nat) (f : Qp → Qp) (s : State) : (qpUpd n f s).therm = s.therm := rfl
@[simp] theorem qpUpd_time (n : Nat) (f : Qp → Qp) (s : State) : (qpUpd n f s).time = s.time := rfl
@[simp] theorem qpUpd_wrapped (n : Nat) (f : Qp → Qp) (s : State) : (qpUpd n f s).wrapped = s.wrapped := rfl
@[simp] theorem qpUpd_idReady (n : Nat) (f : Qp → Qp) (s : State) : (qpUpd n f s).idReady = s.idReady := rfl
@[simp] theorem qpUpd_uncleared (n : Nat) (f : Qp → Qp) (s : State) : (qpUpd n f s).uncleared = s.uncleared := rfl
@[simp] theorem qpUpd_scrubs (n : Nat) (f : Qp → Qp) (s : State) : (qpUpd n f s).scrubs = s.scrubs := rfl
@[simp] theorem qpUpd_secOp (n : Nat) (f : Qp → Qp) (s : State) : (qpUpd n f s).secOp = s.secOp := rfl
@[simp] theorem qpUpd_fw (n : Nat) (f : Qp → Qp) (s : State) : (qpUpd n f s).fw = s.fw := rfl
@[simp] theorem qpUpd_jArea0 (n : Nat) (f : Qp → Qp) (s : State) : (qpUpd n f s).jArea0 = s.jArea0 := rfl
@[simp] theorem qpUpd_jArea1 (n : Nat) (f : Qp → Qp) (s : State) : (qpUpd n f s).jArea1 = s.jArea1 := rfl
@[simp] theorem qpUpd_jActive (n : Nat) (f : Qp → Qp) (s : State) : (qpUpd n f s).jActive = s.jActive := rfl
@[simp] theorem qpUpd_jGathered (n : Nat) (f : Qp → Qp) (s : State) : (qpUpd n f s).jGathered = s.jGathered := rfl
@[simp] theorem qpUpd_jWritten (n : Nat) (f : Qp → Qp) (s : State) : (qpUpd n f s).jWritten = s.jWritten := rfl
@[simp] theorem qpUpd_jSeq (n : Nat) (f : Qp → Qp) (s : State) : (qpUpd n f s).jSeq = s.jSeq := rfl
@[simp] theorem qpUpd_jGatherAt (n : Nat) (f : Qp → Qp) (s : State) : (qpUpd n f s).jGatherAt = s.jGatherAt := rfl
@[simp] theorem qpUpd_helm (n : Nat) (f : Qp → Qp) (s : State) : (qpUpd n f s).helm = s.helm := rfl
@[simp] theorem qpUpd_bist (n : Nat) (f : Qp → Qp) (s : State) : (qpUpd n f s).bist = s.bist := rfl
@[simp] theorem qpUpd_power (n : Nat) (f : Qp → Qp) (s : State) : (qpUpd n f s).power = s.power := rfl

/-! ### updHbm -/

@[simp] theorem updHbm_now (i : Nat) (f : StackSt → StackSt) (s : State) : (updHbm i f s).now = s.now := rfl
@[simp] theorem updHbm_cyc (i : Nat) (f : StackSt → StackSt) (s : State) : (updHbm i f s).cyc = s.cyc := rfl
@[simp] theorem updHbm_free (i : Nat) (f : StackSt → StackSt) (s : State) : (updHbm i f s).free = s.free := rfl
@[simp] theorem updHbm_regs (i : Nat) (f : StackSt → StackSt) (s : State) : (updHbm i f s).regs = s.regs := rfl
@[simp] theorem updHbm_pending (i : Nat) (f : StackSt → StackSt) (s : State) : (updHbm i f s).pending = s.pending := rfl
@[simp] theorem updHbm_out (i : Nat) (f : StackSt → StackSt) (s : State) : (updHbm i f s).out = s.out := rfl
@[simp] theorem updHbm_events (i : Nat) (f : StackSt → StackSt) (s : State) : (updHbm i f s).events = s.events := rfl
@[simp] theorem updHbm_hostMem (i : Nat) (f : StackSt → StackSt) (s : State) : (updHbm i f s).hostMem = s.hostMem := rfl
@[simp] theorem updHbm_parts (i : Nat) (f : StackSt → StackSt) (s : State) : (updHbm i f s).parts = s.parts := rfl
@[simp] theorem updHbm_tensors (i : Nat) (f : StackSt → StackSt) (s : State) : (updHbm i f s).tensors = s.tensors := rfl
@[simp] theorem updHbm_nextHandle (i : Nat) (f : StackSt → StackSt) (s : State) : (updHbm i f s).nextHandle = s.nextHandle := rfl
@[simp] theorem updHbm_acxHandles (i : Nat) (f : StackSt → StackSt) (s : State) : (updHbm i f s).acxHandles = s.acxHandles := rfl
@[simp] theorem updHbm_kvEntries (i : Nat) (f : StackSt → StackSt) (s : State) : (updHbm i f s).kvEntries = s.kvEntries := rfl
@[simp] theorem updHbm_kvCtxs (i : Nat) (f : StackSt → StackSt) (s : State) : (updHbm i f s).kvCtxs = s.kvCtxs := rfl
@[simp] theorem updHbm_kvLow (i : Nat) (f : StackSt → StackSt) (s : State) : (updHbm i f s).kvLow = s.kvLow := rfl
@[simp] theorem updHbm_kvStamps (i : Nat) (f : StackSt → StackSt) (s : State) : (updHbm i f s).kvStamps = s.kvStamps := rfl
@[simp] theorem updHbm_reqs (i : Nat) (f : StackSt → StackSt) (s : State) : (updHbm i f s).reqs = s.reqs := rfl
@[simp] theorem updHbm_traceSeq (i : Nat) (f : StackSt → StackSt) (s : State) : (updHbm i f s).traceSeq = s.traceSeq := rfl
@[simp] theorem updHbm_tvSeq (i : Nat) (f : StackSt → StackSt) (s : State) : (updHbm i f s).tvSeq = s.tvSeq := rfl
@[simp] theorem updHbm_tv (i : Nat) (f : StackSt → StackSt) (s : State) : (updHbm i f s).tv = s.tv := rfl
@[simp] theorem updHbm_health (i : Nat) (f : StackSt → StackSt) (s : State) : (updHbm i f s).health = s.health := rfl
@[simp] theorem updHbm_windows (i : Nat) (f : StackSt → StackSt) (s : State) : (updHbm i f s).windows = s.windows := rfl
@[simp] theorem updHbm_sramCe (i : Nat) (f : StackSt → StackSt) (s : State) : (updHbm i f s).sramCe = s.sramCe := rfl
@[simp] theorem updHbm_sramPoison (i : Nat) (f : StackSt → StackSt) (s : State) : (updHbm i f s).sramPoison = s.sramPoison := rfl
@[simp] theorem updHbm_repairQueue (i : Nat) (f : StackSt → StackSt) (s : State) : (updHbm i f s).repairQueue = s.repairQueue := rfl
@[simp] theorem updHbm_dram (i : Nat) (f : StackSt → StackSt) (s : State) : (updHbm i f s).dram = s.dram := rfl
@[simp] theorem updHbm_flaskMem (i : Nat) (f : StackSt → StackSt) (s : State) : (updHbm i f s).flaskMem = s.flaskMem := rfl
@[simp] theorem updHbm_poison (i : Nat) (f : StackSt → StackSt) (s : State) : (updHbm i f s).poison = s.poison := rfl
@[simp] theorem updHbm_dramErrs (i : Nat) (f : StackSt → StackSt) (s : State) : (updHbm i f s).dramErrs = s.dramErrs := rfl
@[simp] theorem updHbm_remapped (i : Nat) (f : StackSt → StackSt) (s : State) : (updHbm i f s).remapped = s.remapped := rfl
@[simp] theorem updHbm_hbm (i : Nat) (f : StackSt → StackSt) (s : State) : (updHbm i f s).hbm = mapUpd stackReset s.hbm i f := rfl
@[simp] theorem updHbm_dueCount (i : Nat) (f : StackSt → StackSt) (s : State) : (updHbm i f s).dueCount = s.dueCount := rfl
@[simp] theorem updHbm_heldAccs (i : Nat) (f : StackSt → StackSt) (s : State) : (updHbm i f s).heldAccs = s.heldAccs := rfl
@[simp] theorem updHbm_deferred (i : Nat) (f : StackSt → StackSt) (s : State) : (updHbm i f s).deferred = s.deferred := rfl
@[simp] theorem updHbm_edcCtx (i : Nat) (f : StackSt → StackSt) (s : State) : (updHbm i f s).edcCtx = s.edcCtx := rfl
@[simp] theorem updHbm_edcLockAt (i : Nat) (f : StackSt → StackSt) (s : State) : (updHbm i f s).edcLockAt = s.edcLockAt := rfl
@[simp] theorem updHbm_msixOn (i : Nat) (f : StackSt → StackSt) (s : State) : (updHbm i f s).msixOn = s.msixOn := rfl
@[simp] theorem updHbm_vecOpen (i : Nat) (f : StackSt → StackSt) (s : State) : (updHbm i f s).vecOpen = s.vecOpen := rfl
@[simp] theorem updHbm_msixHeld (i : Nat) (f : StackSt → StackSt) (s : State) : (updHbm i f s).msixHeld = s.msixHeld := rfl
@[simp] theorem updHbm_retention (i : Nat) (f : StackSt → StackSt) (s : State) : (updHbm i f s).retention = s.retention := rfl
@[simp] theorem updHbm_queues (i : Nat) (f : StackSt → StackSt) (s : State) : (updHbm i f s).queues = s.queues := rfl
@[simp] theorem updHbm_slots (i : Nat) (f : StackSt → StackSt) (s : State) : (updHbm i f s).slots = s.slots := rfl
@[simp] theorem updHbm_qps (i : Nat) (f : StackSt → StackSt) (s : State) : (updHbm i f s).qps = s.qps := rfl
@[simp] theorem updHbm_mrs (i : Nat) (f : StackSt → StackSt) (s : State) : (updHbm i f s).mrs = s.mrs := rfl
@[simp] theorem updHbm_egress (i : Nat) (f : StackSt → StackSt) (s : State) : (updHbm i f s).egress = s.egress := rfl
@[simp] theorem updHbm_postNo (i : Nat) (f : StackSt → StackSt) (s : State) : (updHbm i f s).postNo = s.postNo := rfl
@[simp] theorem updHbm_acxRx (i : Nat) (f : StackSt → StackSt) (s : State) : (updHbm i f s).acxRx = s.acxRx := rfl
@[simp] theorem updHbm_spots (i : Nat) (f : StackSt → StackSt) (s : State) : (updHbm i f s).spots = s.spots := rfl
@[simp] theorem updHbm_therm (i : Nat) (f : StackSt → StackSt) (s : State) : (updHbm i f s).therm = s.therm := rfl
@[simp] theorem updHbm_time (i : Nat) (f : StackSt → StackSt) (s : State) : (updHbm i f s).time = s.time := rfl
@[simp] theorem updHbm_wrapped (i : Nat) (f : StackSt → StackSt) (s : State) : (updHbm i f s).wrapped = s.wrapped := rfl
@[simp] theorem updHbm_idReady (i : Nat) (f : StackSt → StackSt) (s : State) : (updHbm i f s).idReady = s.idReady := rfl
@[simp] theorem updHbm_uncleared (i : Nat) (f : StackSt → StackSt) (s : State) : (updHbm i f s).uncleared = s.uncleared := rfl
@[simp] theorem updHbm_scrubs (i : Nat) (f : StackSt → StackSt) (s : State) : (updHbm i f s).scrubs = s.scrubs := rfl
@[simp] theorem updHbm_secOp (i : Nat) (f : StackSt → StackSt) (s : State) : (updHbm i f s).secOp = s.secOp := rfl
@[simp] theorem updHbm_fw (i : Nat) (f : StackSt → StackSt) (s : State) : (updHbm i f s).fw = s.fw := rfl
@[simp] theorem updHbm_jArea0 (i : Nat) (f : StackSt → StackSt) (s : State) : (updHbm i f s).jArea0 = s.jArea0 := rfl
@[simp] theorem updHbm_jArea1 (i : Nat) (f : StackSt → StackSt) (s : State) : (updHbm i f s).jArea1 = s.jArea1 := rfl
@[simp] theorem updHbm_jActive (i : Nat) (f : StackSt → StackSt) (s : State) : (updHbm i f s).jActive = s.jActive := rfl
@[simp] theorem updHbm_jGathered (i : Nat) (f : StackSt → StackSt) (s : State) : (updHbm i f s).jGathered = s.jGathered := rfl
@[simp] theorem updHbm_jWritten (i : Nat) (f : StackSt → StackSt) (s : State) : (updHbm i f s).jWritten = s.jWritten := rfl
@[simp] theorem updHbm_jSeq (i : Nat) (f : StackSt → StackSt) (s : State) : (updHbm i f s).jSeq = s.jSeq := rfl
@[simp] theorem updHbm_jGatherAt (i : Nat) (f : StackSt → StackSt) (s : State) : (updHbm i f s).jGatherAt = s.jGatherAt := rfl
@[simp] theorem updHbm_helm (i : Nat) (f : StackSt → StackSt) (s : State) : (updHbm i f s).helm = s.helm := rfl
@[simp] theorem updHbm_bist (i : Nat) (f : StackSt → StackSt) (s : State) : (updHbm i f s).bist = s.bist := rfl
@[simp] theorem updHbm_power (i : Nat) (f : StackSt → StackSt) (s : State) : (updHbm i f s).power = s.power := rfl

/-! ### updPower -/

@[simp] theorem updPower_now (f : PowerSt → PowerSt) (s : State) : (updPower f s).now = s.now := rfl
@[simp] theorem updPower_cyc (f : PowerSt → PowerSt) (s : State) : (updPower f s).cyc = s.cyc := rfl
@[simp] theorem updPower_free (f : PowerSt → PowerSt) (s : State) : (updPower f s).free = s.free := rfl
@[simp] theorem updPower_regs (f : PowerSt → PowerSt) (s : State) : (updPower f s).regs = s.regs := rfl
@[simp] theorem updPower_pending (f : PowerSt → PowerSt) (s : State) : (updPower f s).pending = s.pending := rfl
@[simp] theorem updPower_out (f : PowerSt → PowerSt) (s : State) : (updPower f s).out = s.out := rfl
@[simp] theorem updPower_events (f : PowerSt → PowerSt) (s : State) : (updPower f s).events = s.events := rfl
@[simp] theorem updPower_hostMem (f : PowerSt → PowerSt) (s : State) : (updPower f s).hostMem = s.hostMem := rfl
@[simp] theorem updPower_parts (f : PowerSt → PowerSt) (s : State) : (updPower f s).parts = s.parts := rfl
@[simp] theorem updPower_tensors (f : PowerSt → PowerSt) (s : State) : (updPower f s).tensors = s.tensors := rfl
@[simp] theorem updPower_nextHandle (f : PowerSt → PowerSt) (s : State) : (updPower f s).nextHandle = s.nextHandle := rfl
@[simp] theorem updPower_acxHandles (f : PowerSt → PowerSt) (s : State) : (updPower f s).acxHandles = s.acxHandles := rfl
@[simp] theorem updPower_kvEntries (f : PowerSt → PowerSt) (s : State) : (updPower f s).kvEntries = s.kvEntries := rfl
@[simp] theorem updPower_kvCtxs (f : PowerSt → PowerSt) (s : State) : (updPower f s).kvCtxs = s.kvCtxs := rfl
@[simp] theorem updPower_kvLow (f : PowerSt → PowerSt) (s : State) : (updPower f s).kvLow = s.kvLow := rfl
@[simp] theorem updPower_kvStamps (f : PowerSt → PowerSt) (s : State) : (updPower f s).kvStamps = s.kvStamps := rfl
@[simp] theorem updPower_reqs (f : PowerSt → PowerSt) (s : State) : (updPower f s).reqs = s.reqs := rfl
@[simp] theorem updPower_traceSeq (f : PowerSt → PowerSt) (s : State) : (updPower f s).traceSeq = s.traceSeq := rfl
@[simp] theorem updPower_tvSeq (f : PowerSt → PowerSt) (s : State) : (updPower f s).tvSeq = s.tvSeq := rfl
@[simp] theorem updPower_tv (f : PowerSt → PowerSt) (s : State) : (updPower f s).tv = s.tv := rfl
@[simp] theorem updPower_health (f : PowerSt → PowerSt) (s : State) : (updPower f s).health = s.health := rfl
@[simp] theorem updPower_windows (f : PowerSt → PowerSt) (s : State) : (updPower f s).windows = s.windows := rfl
@[simp] theorem updPower_sramCe (f : PowerSt → PowerSt) (s : State) : (updPower f s).sramCe = s.sramCe := rfl
@[simp] theorem updPower_sramPoison (f : PowerSt → PowerSt) (s : State) : (updPower f s).sramPoison = s.sramPoison := rfl
@[simp] theorem updPower_repairQueue (f : PowerSt → PowerSt) (s : State) : (updPower f s).repairQueue = s.repairQueue := rfl
@[simp] theorem updPower_dram (f : PowerSt → PowerSt) (s : State) : (updPower f s).dram = s.dram := rfl
@[simp] theorem updPower_flaskMem (f : PowerSt → PowerSt) (s : State) : (updPower f s).flaskMem = s.flaskMem := rfl
@[simp] theorem updPower_poison (f : PowerSt → PowerSt) (s : State) : (updPower f s).poison = s.poison := rfl
@[simp] theorem updPower_dramErrs (f : PowerSt → PowerSt) (s : State) : (updPower f s).dramErrs = s.dramErrs := rfl
@[simp] theorem updPower_remapped (f : PowerSt → PowerSt) (s : State) : (updPower f s).remapped = s.remapped := rfl
@[simp] theorem updPower_hbm (f : PowerSt → PowerSt) (s : State) : (updPower f s).hbm = s.hbm := rfl
@[simp] theorem updPower_dueCount (f : PowerSt → PowerSt) (s : State) : (updPower f s).dueCount = s.dueCount := rfl
@[simp] theorem updPower_heldAccs (f : PowerSt → PowerSt) (s : State) : (updPower f s).heldAccs = s.heldAccs := rfl
@[simp] theorem updPower_deferred (f : PowerSt → PowerSt) (s : State) : (updPower f s).deferred = s.deferred := rfl
@[simp] theorem updPower_edcCtx (f : PowerSt → PowerSt) (s : State) : (updPower f s).edcCtx = s.edcCtx := rfl
@[simp] theorem updPower_edcLockAt (f : PowerSt → PowerSt) (s : State) : (updPower f s).edcLockAt = s.edcLockAt := rfl
@[simp] theorem updPower_msixOn (f : PowerSt → PowerSt) (s : State) : (updPower f s).msixOn = s.msixOn := rfl
@[simp] theorem updPower_vecOpen (f : PowerSt → PowerSt) (s : State) : (updPower f s).vecOpen = s.vecOpen := rfl
@[simp] theorem updPower_msixHeld (f : PowerSt → PowerSt) (s : State) : (updPower f s).msixHeld = s.msixHeld := rfl
@[simp] theorem updPower_retention (f : PowerSt → PowerSt) (s : State) : (updPower f s).retention = s.retention := rfl
@[simp] theorem updPower_queues (f : PowerSt → PowerSt) (s : State) : (updPower f s).queues = s.queues := rfl
@[simp] theorem updPower_slots (f : PowerSt → PowerSt) (s : State) : (updPower f s).slots = s.slots := rfl
@[simp] theorem updPower_qps (f : PowerSt → PowerSt) (s : State) : (updPower f s).qps = s.qps := rfl
@[simp] theorem updPower_mrs (f : PowerSt → PowerSt) (s : State) : (updPower f s).mrs = s.mrs := rfl
@[simp] theorem updPower_egress (f : PowerSt → PowerSt) (s : State) : (updPower f s).egress = s.egress := rfl
@[simp] theorem updPower_postNo (f : PowerSt → PowerSt) (s : State) : (updPower f s).postNo = s.postNo := rfl
@[simp] theorem updPower_acxRx (f : PowerSt → PowerSt) (s : State) : (updPower f s).acxRx = s.acxRx := rfl
@[simp] theorem updPower_spots (f : PowerSt → PowerSt) (s : State) : (updPower f s).spots = s.spots := rfl
@[simp] theorem updPower_therm (f : PowerSt → PowerSt) (s : State) : (updPower f s).therm = s.therm := rfl
@[simp] theorem updPower_time (f : PowerSt → PowerSt) (s : State) : (updPower f s).time = s.time := rfl
@[simp] theorem updPower_wrapped (f : PowerSt → PowerSt) (s : State) : (updPower f s).wrapped = s.wrapped := rfl
@[simp] theorem updPower_idReady (f : PowerSt → PowerSt) (s : State) : (updPower f s).idReady = s.idReady := rfl
@[simp] theorem updPower_uncleared (f : PowerSt → PowerSt) (s : State) : (updPower f s).uncleared = s.uncleared := rfl
@[simp] theorem updPower_scrubs (f : PowerSt → PowerSt) (s : State) : (updPower f s).scrubs = s.scrubs := rfl
@[simp] theorem updPower_secOp (f : PowerSt → PowerSt) (s : State) : (updPower f s).secOp = s.secOp := rfl
@[simp] theorem updPower_fw (f : PowerSt → PowerSt) (s : State) : (updPower f s).fw = s.fw := rfl
@[simp] theorem updPower_jArea0 (f : PowerSt → PowerSt) (s : State) : (updPower f s).jArea0 = s.jArea0 := rfl
@[simp] theorem updPower_jArea1 (f : PowerSt → PowerSt) (s : State) : (updPower f s).jArea1 = s.jArea1 := rfl
@[simp] theorem updPower_jActive (f : PowerSt → PowerSt) (s : State) : (updPower f s).jActive = s.jActive := rfl
@[simp] theorem updPower_jGathered (f : PowerSt → PowerSt) (s : State) : (updPower f s).jGathered = s.jGathered := rfl
@[simp] theorem updPower_jWritten (f : PowerSt → PowerSt) (s : State) : (updPower f s).jWritten = s.jWritten := rfl
@[simp] theorem updPower_jSeq (f : PowerSt → PowerSt) (s : State) : (updPower f s).jSeq = s.jSeq := rfl
@[simp] theorem updPower_jGatherAt (f : PowerSt → PowerSt) (s : State) : (updPower f s).jGatherAt = s.jGatherAt := rfl
@[simp] theorem updPower_helm (f : PowerSt → PowerSt) (s : State) : (updPower f s).helm = s.helm := rfl
@[simp] theorem updPower_bist (f : PowerSt → PowerSt) (s : State) : (updPower f s).bist = s.bist := rfl
@[simp] theorem updPower_power (f : PowerSt → PowerSt) (s : State) : (updPower f s).power = f s.power := rfl

/-! ### updFw -/

@[simp] theorem updFw_now (f : FwSt → FwSt) (s : State) : (updFw f s).now = s.now := rfl
@[simp] theorem updFw_cyc (f : FwSt → FwSt) (s : State) : (updFw f s).cyc = s.cyc := rfl
@[simp] theorem updFw_free (f : FwSt → FwSt) (s : State) : (updFw f s).free = s.free := rfl
@[simp] theorem updFw_regs (f : FwSt → FwSt) (s : State) : (updFw f s).regs = s.regs := rfl
@[simp] theorem updFw_pending (f : FwSt → FwSt) (s : State) : (updFw f s).pending = s.pending := rfl
@[simp] theorem updFw_out (f : FwSt → FwSt) (s : State) : (updFw f s).out = s.out := rfl
@[simp] theorem updFw_events (f : FwSt → FwSt) (s : State) : (updFw f s).events = s.events := rfl
@[simp] theorem updFw_hostMem (f : FwSt → FwSt) (s : State) : (updFw f s).hostMem = s.hostMem := rfl
@[simp] theorem updFw_parts (f : FwSt → FwSt) (s : State) : (updFw f s).parts = s.parts := rfl
@[simp] theorem updFw_tensors (f : FwSt → FwSt) (s : State) : (updFw f s).tensors = s.tensors := rfl
@[simp] theorem updFw_nextHandle (f : FwSt → FwSt) (s : State) : (updFw f s).nextHandle = s.nextHandle := rfl
@[simp] theorem updFw_acxHandles (f : FwSt → FwSt) (s : State) : (updFw f s).acxHandles = s.acxHandles := rfl
@[simp] theorem updFw_kvEntries (f : FwSt → FwSt) (s : State) : (updFw f s).kvEntries = s.kvEntries := rfl
@[simp] theorem updFw_kvCtxs (f : FwSt → FwSt) (s : State) : (updFw f s).kvCtxs = s.kvCtxs := rfl
@[simp] theorem updFw_kvLow (f : FwSt → FwSt) (s : State) : (updFw f s).kvLow = s.kvLow := rfl
@[simp] theorem updFw_kvStamps (f : FwSt → FwSt) (s : State) : (updFw f s).kvStamps = s.kvStamps := rfl
@[simp] theorem updFw_reqs (f : FwSt → FwSt) (s : State) : (updFw f s).reqs = s.reqs := rfl
@[simp] theorem updFw_traceSeq (f : FwSt → FwSt) (s : State) : (updFw f s).traceSeq = s.traceSeq := rfl
@[simp] theorem updFw_tvSeq (f : FwSt → FwSt) (s : State) : (updFw f s).tvSeq = s.tvSeq := rfl
@[simp] theorem updFw_tv (f : FwSt → FwSt) (s : State) : (updFw f s).tv = s.tv := rfl
@[simp] theorem updFw_health (f : FwSt → FwSt) (s : State) : (updFw f s).health = s.health := rfl
@[simp] theorem updFw_windows (f : FwSt → FwSt) (s : State) : (updFw f s).windows = s.windows := rfl
@[simp] theorem updFw_sramCe (f : FwSt → FwSt) (s : State) : (updFw f s).sramCe = s.sramCe := rfl
@[simp] theorem updFw_sramPoison (f : FwSt → FwSt) (s : State) : (updFw f s).sramPoison = s.sramPoison := rfl
@[simp] theorem updFw_repairQueue (f : FwSt → FwSt) (s : State) : (updFw f s).repairQueue = s.repairQueue := rfl
@[simp] theorem updFw_dram (f : FwSt → FwSt) (s : State) : (updFw f s).dram = s.dram := rfl
@[simp] theorem updFw_flaskMem (f : FwSt → FwSt) (s : State) : (updFw f s).flaskMem = s.flaskMem := rfl
@[simp] theorem updFw_poison (f : FwSt → FwSt) (s : State) : (updFw f s).poison = s.poison := rfl
@[simp] theorem updFw_dramErrs (f : FwSt → FwSt) (s : State) : (updFw f s).dramErrs = s.dramErrs := rfl
@[simp] theorem updFw_remapped (f : FwSt → FwSt) (s : State) : (updFw f s).remapped = s.remapped := rfl
@[simp] theorem updFw_hbm (f : FwSt → FwSt) (s : State) : (updFw f s).hbm = s.hbm := rfl
@[simp] theorem updFw_dueCount (f : FwSt → FwSt) (s : State) : (updFw f s).dueCount = s.dueCount := rfl
@[simp] theorem updFw_heldAccs (f : FwSt → FwSt) (s : State) : (updFw f s).heldAccs = s.heldAccs := rfl
@[simp] theorem updFw_deferred (f : FwSt → FwSt) (s : State) : (updFw f s).deferred = s.deferred := rfl
@[simp] theorem updFw_edcCtx (f : FwSt → FwSt) (s : State) : (updFw f s).edcCtx = s.edcCtx := rfl
@[simp] theorem updFw_edcLockAt (f : FwSt → FwSt) (s : State) : (updFw f s).edcLockAt = s.edcLockAt := rfl
@[simp] theorem updFw_msixOn (f : FwSt → FwSt) (s : State) : (updFw f s).msixOn = s.msixOn := rfl
@[simp] theorem updFw_vecOpen (f : FwSt → FwSt) (s : State) : (updFw f s).vecOpen = s.vecOpen := rfl
@[simp] theorem updFw_msixHeld (f : FwSt → FwSt) (s : State) : (updFw f s).msixHeld = s.msixHeld := rfl
@[simp] theorem updFw_retention (f : FwSt → FwSt) (s : State) : (updFw f s).retention = s.retention := rfl
@[simp] theorem updFw_queues (f : FwSt → FwSt) (s : State) : (updFw f s).queues = s.queues := rfl
@[simp] theorem updFw_slots (f : FwSt → FwSt) (s : State) : (updFw f s).slots = s.slots := rfl
@[simp] theorem updFw_qps (f : FwSt → FwSt) (s : State) : (updFw f s).qps = s.qps := rfl
@[simp] theorem updFw_mrs (f : FwSt → FwSt) (s : State) : (updFw f s).mrs = s.mrs := rfl
@[simp] theorem updFw_egress (f : FwSt → FwSt) (s : State) : (updFw f s).egress = s.egress := rfl
@[simp] theorem updFw_postNo (f : FwSt → FwSt) (s : State) : (updFw f s).postNo = s.postNo := rfl
@[simp] theorem updFw_acxRx (f : FwSt → FwSt) (s : State) : (updFw f s).acxRx = s.acxRx := rfl
@[simp] theorem updFw_spots (f : FwSt → FwSt) (s : State) : (updFw f s).spots = s.spots := rfl
@[simp] theorem updFw_therm (f : FwSt → FwSt) (s : State) : (updFw f s).therm = s.therm := rfl
@[simp] theorem updFw_time (f : FwSt → FwSt) (s : State) : (updFw f s).time = s.time := rfl
@[simp] theorem updFw_wrapped (f : FwSt → FwSt) (s : State) : (updFw f s).wrapped = s.wrapped := rfl
@[simp] theorem updFw_idReady (f : FwSt → FwSt) (s : State) : (updFw f s).idReady = s.idReady := rfl
@[simp] theorem updFw_uncleared (f : FwSt → FwSt) (s : State) : (updFw f s).uncleared = s.uncleared := rfl
@[simp] theorem updFw_scrubs (f : FwSt → FwSt) (s : State) : (updFw f s).scrubs = s.scrubs := rfl
@[simp] theorem updFw_secOp (f : FwSt → FwSt) (s : State) : (updFw f s).secOp = s.secOp := rfl
@[simp] theorem updFw_fw (f : FwSt → FwSt) (s : State) : (updFw f s).fw = f s.fw := rfl
@[simp] theorem updFw_jArea0 (f : FwSt → FwSt) (s : State) : (updFw f s).jArea0 = s.jArea0 := rfl
@[simp] theorem updFw_jArea1 (f : FwSt → FwSt) (s : State) : (updFw f s).jArea1 = s.jArea1 := rfl
@[simp] theorem updFw_jActive (f : FwSt → FwSt) (s : State) : (updFw f s).jActive = s.jActive := rfl
@[simp] theorem updFw_jGathered (f : FwSt → FwSt) (s : State) : (updFw f s).jGathered = s.jGathered := rfl
@[simp] theorem updFw_jWritten (f : FwSt → FwSt) (s : State) : (updFw f s).jWritten = s.jWritten := rfl
@[simp] theorem updFw_jSeq (f : FwSt → FwSt) (s : State) : (updFw f s).jSeq = s.jSeq := rfl
@[simp] theorem updFw_jGatherAt (f : FwSt → FwSt) (s : State) : (updFw f s).jGatherAt = s.jGatherAt := rfl
@[simp] theorem updFw_helm (f : FwSt → FwSt) (s : State) : (updFw f s).helm = s.helm := rfl
@[simp] theorem updFw_bist (f : FwSt → FwSt) (s : State) : (updFw f s).bist = s.bist := rfl
@[simp] theorem updFw_power (f : FwSt → FwSt) (s : State) : (updFw f s).power = s.power := rfl

/-! ### updHelm -/

@[simp] theorem updHelm_now (f : HelmSt → HelmSt) (s : State) : (updHelm f s).now = s.now := rfl
@[simp] theorem updHelm_cyc (f : HelmSt → HelmSt) (s : State) : (updHelm f s).cyc = s.cyc := rfl
@[simp] theorem updHelm_free (f : HelmSt → HelmSt) (s : State) : (updHelm f s).free = s.free := rfl
@[simp] theorem updHelm_regs (f : HelmSt → HelmSt) (s : State) : (updHelm f s).regs = s.regs := rfl
@[simp] theorem updHelm_pending (f : HelmSt → HelmSt) (s : State) : (updHelm f s).pending = s.pending := rfl
@[simp] theorem updHelm_out (f : HelmSt → HelmSt) (s : State) : (updHelm f s).out = s.out := rfl
@[simp] theorem updHelm_events (f : HelmSt → HelmSt) (s : State) : (updHelm f s).events = s.events := rfl
@[simp] theorem updHelm_hostMem (f : HelmSt → HelmSt) (s : State) : (updHelm f s).hostMem = s.hostMem := rfl
@[simp] theorem updHelm_parts (f : HelmSt → HelmSt) (s : State) : (updHelm f s).parts = s.parts := rfl
@[simp] theorem updHelm_tensors (f : HelmSt → HelmSt) (s : State) : (updHelm f s).tensors = s.tensors := rfl
@[simp] theorem updHelm_nextHandle (f : HelmSt → HelmSt) (s : State) : (updHelm f s).nextHandle = s.nextHandle := rfl
@[simp] theorem updHelm_acxHandles (f : HelmSt → HelmSt) (s : State) : (updHelm f s).acxHandles = s.acxHandles := rfl
@[simp] theorem updHelm_kvEntries (f : HelmSt → HelmSt) (s : State) : (updHelm f s).kvEntries = s.kvEntries := rfl
@[simp] theorem updHelm_kvCtxs (f : HelmSt → HelmSt) (s : State) : (updHelm f s).kvCtxs = s.kvCtxs := rfl
@[simp] theorem updHelm_kvLow (f : HelmSt → HelmSt) (s : State) : (updHelm f s).kvLow = s.kvLow := rfl
@[simp] theorem updHelm_kvStamps (f : HelmSt → HelmSt) (s : State) : (updHelm f s).kvStamps = s.kvStamps := rfl
@[simp] theorem updHelm_reqs (f : HelmSt → HelmSt) (s : State) : (updHelm f s).reqs = s.reqs := rfl
@[simp] theorem updHelm_traceSeq (f : HelmSt → HelmSt) (s : State) : (updHelm f s).traceSeq = s.traceSeq := rfl
@[simp] theorem updHelm_tvSeq (f : HelmSt → HelmSt) (s : State) : (updHelm f s).tvSeq = s.tvSeq := rfl
@[simp] theorem updHelm_tv (f : HelmSt → HelmSt) (s : State) : (updHelm f s).tv = s.tv := rfl
@[simp] theorem updHelm_health (f : HelmSt → HelmSt) (s : State) : (updHelm f s).health = s.health := rfl
@[simp] theorem updHelm_windows (f : HelmSt → HelmSt) (s : State) : (updHelm f s).windows = s.windows := rfl
@[simp] theorem updHelm_sramCe (f : HelmSt → HelmSt) (s : State) : (updHelm f s).sramCe = s.sramCe := rfl
@[simp] theorem updHelm_sramPoison (f : HelmSt → HelmSt) (s : State) : (updHelm f s).sramPoison = s.sramPoison := rfl
@[simp] theorem updHelm_repairQueue (f : HelmSt → HelmSt) (s : State) : (updHelm f s).repairQueue = s.repairQueue := rfl
@[simp] theorem updHelm_dram (f : HelmSt → HelmSt) (s : State) : (updHelm f s).dram = s.dram := rfl
@[simp] theorem updHelm_flaskMem (f : HelmSt → HelmSt) (s : State) : (updHelm f s).flaskMem = s.flaskMem := rfl
@[simp] theorem updHelm_poison (f : HelmSt → HelmSt) (s : State) : (updHelm f s).poison = s.poison := rfl
@[simp] theorem updHelm_dramErrs (f : HelmSt → HelmSt) (s : State) : (updHelm f s).dramErrs = s.dramErrs := rfl
@[simp] theorem updHelm_remapped (f : HelmSt → HelmSt) (s : State) : (updHelm f s).remapped = s.remapped := rfl
@[simp] theorem updHelm_hbm (f : HelmSt → HelmSt) (s : State) : (updHelm f s).hbm = s.hbm := rfl
@[simp] theorem updHelm_dueCount (f : HelmSt → HelmSt) (s : State) : (updHelm f s).dueCount = s.dueCount := rfl
@[simp] theorem updHelm_heldAccs (f : HelmSt → HelmSt) (s : State) : (updHelm f s).heldAccs = s.heldAccs := rfl
@[simp] theorem updHelm_deferred (f : HelmSt → HelmSt) (s : State) : (updHelm f s).deferred = s.deferred := rfl
@[simp] theorem updHelm_edcCtx (f : HelmSt → HelmSt) (s : State) : (updHelm f s).edcCtx = s.edcCtx := rfl
@[simp] theorem updHelm_edcLockAt (f : HelmSt → HelmSt) (s : State) : (updHelm f s).edcLockAt = s.edcLockAt := rfl
@[simp] theorem updHelm_msixOn (f : HelmSt → HelmSt) (s : State) : (updHelm f s).msixOn = s.msixOn := rfl
@[simp] theorem updHelm_vecOpen (f : HelmSt → HelmSt) (s : State) : (updHelm f s).vecOpen = s.vecOpen := rfl
@[simp] theorem updHelm_msixHeld (f : HelmSt → HelmSt) (s : State) : (updHelm f s).msixHeld = s.msixHeld := rfl
@[simp] theorem updHelm_retention (f : HelmSt → HelmSt) (s : State) : (updHelm f s).retention = s.retention := rfl
@[simp] theorem updHelm_queues (f : HelmSt → HelmSt) (s : State) : (updHelm f s).queues = s.queues := rfl
@[simp] theorem updHelm_slots (f : HelmSt → HelmSt) (s : State) : (updHelm f s).slots = s.slots := rfl
@[simp] theorem updHelm_qps (f : HelmSt → HelmSt) (s : State) : (updHelm f s).qps = s.qps := rfl
@[simp] theorem updHelm_mrs (f : HelmSt → HelmSt) (s : State) : (updHelm f s).mrs = s.mrs := rfl
@[simp] theorem updHelm_egress (f : HelmSt → HelmSt) (s : State) : (updHelm f s).egress = s.egress := rfl
@[simp] theorem updHelm_postNo (f : HelmSt → HelmSt) (s : State) : (updHelm f s).postNo = s.postNo := rfl
@[simp] theorem updHelm_acxRx (f : HelmSt → HelmSt) (s : State) : (updHelm f s).acxRx = s.acxRx := rfl
@[simp] theorem updHelm_spots (f : HelmSt → HelmSt) (s : State) : (updHelm f s).spots = s.spots := rfl
@[simp] theorem updHelm_therm (f : HelmSt → HelmSt) (s : State) : (updHelm f s).therm = s.therm := rfl
@[simp] theorem updHelm_time (f : HelmSt → HelmSt) (s : State) : (updHelm f s).time = s.time := rfl
@[simp] theorem updHelm_wrapped (f : HelmSt → HelmSt) (s : State) : (updHelm f s).wrapped = s.wrapped := rfl
@[simp] theorem updHelm_idReady (f : HelmSt → HelmSt) (s : State) : (updHelm f s).idReady = s.idReady := rfl
@[simp] theorem updHelm_uncleared (f : HelmSt → HelmSt) (s : State) : (updHelm f s).uncleared = s.uncleared := rfl
@[simp] theorem updHelm_scrubs (f : HelmSt → HelmSt) (s : State) : (updHelm f s).scrubs = s.scrubs := rfl
@[simp] theorem updHelm_secOp (f : HelmSt → HelmSt) (s : State) : (updHelm f s).secOp = s.secOp := rfl
@[simp] theorem updHelm_fw (f : HelmSt → HelmSt) (s : State) : (updHelm f s).fw = s.fw := rfl
@[simp] theorem updHelm_jArea0 (f : HelmSt → HelmSt) (s : State) : (updHelm f s).jArea0 = s.jArea0 := rfl
@[simp] theorem updHelm_jArea1 (f : HelmSt → HelmSt) (s : State) : (updHelm f s).jArea1 = s.jArea1 := rfl
@[simp] theorem updHelm_jActive (f : HelmSt → HelmSt) (s : State) : (updHelm f s).jActive = s.jActive := rfl
@[simp] theorem updHelm_jGathered (f : HelmSt → HelmSt) (s : State) : (updHelm f s).jGathered = s.jGathered := rfl
@[simp] theorem updHelm_jWritten (f : HelmSt → HelmSt) (s : State) : (updHelm f s).jWritten = s.jWritten := rfl
@[simp] theorem updHelm_jSeq (f : HelmSt → HelmSt) (s : State) : (updHelm f s).jSeq = s.jSeq := rfl
@[simp] theorem updHelm_jGatherAt (f : HelmSt → HelmSt) (s : State) : (updHelm f s).jGatherAt = s.jGatherAt := rfl
@[simp] theorem updHelm_helm (f : HelmSt → HelmSt) (s : State) : (updHelm f s).helm = f s.helm := rfl
@[simp] theorem updHelm_bist (f : HelmSt → HelmSt) (s : State) : (updHelm f s).bist = s.bist := rfl
@[simp] theorem updHelm_power (f : HelmSt → HelmSt) (s : State) : (updHelm f s).power = s.power := rfl

/-! ### updTherm -/

@[simp] theorem updTherm_now (f : ThermSt → ThermSt) (s : State) : (updTherm f s).now = s.now := rfl
@[simp] theorem updTherm_cyc (f : ThermSt → ThermSt) (s : State) : (updTherm f s).cyc = s.cyc := rfl
@[simp] theorem updTherm_free (f : ThermSt → ThermSt) (s : State) : (updTherm f s).free = s.free := rfl
@[simp] theorem updTherm_regs (f : ThermSt → ThermSt) (s : State) : (updTherm f s).regs = s.regs := rfl
@[simp] theorem updTherm_pending (f : ThermSt → ThermSt) (s : State) : (updTherm f s).pending = s.pending := rfl
@[simp] theorem updTherm_out (f : ThermSt → ThermSt) (s : State) : (updTherm f s).out = s.out := rfl
@[simp] theorem updTherm_events (f : ThermSt → ThermSt) (s : State) : (updTherm f s).events = s.events := rfl
@[simp] theorem updTherm_hostMem (f : ThermSt → ThermSt) (s : State) : (updTherm f s).hostMem = s.hostMem := rfl
@[simp] theorem updTherm_parts (f : ThermSt → ThermSt) (s : State) : (updTherm f s).parts = s.parts := rfl
@[simp] theorem updTherm_tensors (f : ThermSt → ThermSt) (s : State) : (updTherm f s).tensors = s.tensors := rfl
@[simp] theorem updTherm_nextHandle (f : ThermSt → ThermSt) (s : State) : (updTherm f s).nextHandle = s.nextHandle := rfl
@[simp] theorem updTherm_acxHandles (f : ThermSt → ThermSt) (s : State) : (updTherm f s).acxHandles = s.acxHandles := rfl
@[simp] theorem updTherm_kvEntries (f : ThermSt → ThermSt) (s : State) : (updTherm f s).kvEntries = s.kvEntries := rfl
@[simp] theorem updTherm_kvCtxs (f : ThermSt → ThermSt) (s : State) : (updTherm f s).kvCtxs = s.kvCtxs := rfl
@[simp] theorem updTherm_kvLow (f : ThermSt → ThermSt) (s : State) : (updTherm f s).kvLow = s.kvLow := rfl
@[simp] theorem updTherm_kvStamps (f : ThermSt → ThermSt) (s : State) : (updTherm f s).kvStamps = s.kvStamps := rfl
@[simp] theorem updTherm_reqs (f : ThermSt → ThermSt) (s : State) : (updTherm f s).reqs = s.reqs := rfl
@[simp] theorem updTherm_traceSeq (f : ThermSt → ThermSt) (s : State) : (updTherm f s).traceSeq = s.traceSeq := rfl
@[simp] theorem updTherm_tvSeq (f : ThermSt → ThermSt) (s : State) : (updTherm f s).tvSeq = s.tvSeq := rfl
@[simp] theorem updTherm_tv (f : ThermSt → ThermSt) (s : State) : (updTherm f s).tv = s.tv := rfl
@[simp] theorem updTherm_health (f : ThermSt → ThermSt) (s : State) : (updTherm f s).health = s.health := rfl
@[simp] theorem updTherm_windows (f : ThermSt → ThermSt) (s : State) : (updTherm f s).windows = s.windows := rfl
@[simp] theorem updTherm_sramCe (f : ThermSt → ThermSt) (s : State) : (updTherm f s).sramCe = s.sramCe := rfl
@[simp] theorem updTherm_sramPoison (f : ThermSt → ThermSt) (s : State) : (updTherm f s).sramPoison = s.sramPoison := rfl
@[simp] theorem updTherm_repairQueue (f : ThermSt → ThermSt) (s : State) : (updTherm f s).repairQueue = s.repairQueue := rfl
@[simp] theorem updTherm_dram (f : ThermSt → ThermSt) (s : State) : (updTherm f s).dram = s.dram := rfl
@[simp] theorem updTherm_flaskMem (f : ThermSt → ThermSt) (s : State) : (updTherm f s).flaskMem = s.flaskMem := rfl
@[simp] theorem updTherm_poison (f : ThermSt → ThermSt) (s : State) : (updTherm f s).poison = s.poison := rfl
@[simp] theorem updTherm_dramErrs (f : ThermSt → ThermSt) (s : State) : (updTherm f s).dramErrs = s.dramErrs := rfl
@[simp] theorem updTherm_remapped (f : ThermSt → ThermSt) (s : State) : (updTherm f s).remapped = s.remapped := rfl
@[simp] theorem updTherm_hbm (f : ThermSt → ThermSt) (s : State) : (updTherm f s).hbm = s.hbm := rfl
@[simp] theorem updTherm_dueCount (f : ThermSt → ThermSt) (s : State) : (updTherm f s).dueCount = s.dueCount := rfl
@[simp] theorem updTherm_heldAccs (f : ThermSt → ThermSt) (s : State) : (updTherm f s).heldAccs = s.heldAccs := rfl
@[simp] theorem updTherm_deferred (f : ThermSt → ThermSt) (s : State) : (updTherm f s).deferred = s.deferred := rfl
@[simp] theorem updTherm_edcCtx (f : ThermSt → ThermSt) (s : State) : (updTherm f s).edcCtx = s.edcCtx := rfl
@[simp] theorem updTherm_edcLockAt (f : ThermSt → ThermSt) (s : State) : (updTherm f s).edcLockAt = s.edcLockAt := rfl
@[simp] theorem updTherm_msixOn (f : ThermSt → ThermSt) (s : State) : (updTherm f s).msixOn = s.msixOn := rfl
@[simp] theorem updTherm_vecOpen (f : ThermSt → ThermSt) (s : State) : (updTherm f s).vecOpen = s.vecOpen := rfl
@[simp] theorem updTherm_msixHeld (f : ThermSt → ThermSt) (s : State) : (updTherm f s).msixHeld = s.msixHeld := rfl
@[simp] theorem updTherm_retention (f : ThermSt → ThermSt) (s : State) : (updTherm f s).retention = s.retention := rfl
@[simp] theorem updTherm_queues (f : ThermSt → ThermSt) (s : State) : (updTherm f s).queues = s.queues := rfl
@[simp] theorem updTherm_slots (f : ThermSt → ThermSt) (s : State) : (updTherm f s).slots = s.slots := rfl
@[simp] theorem updTherm_qps (f : ThermSt → ThermSt) (s : State) : (updTherm f s).qps = s.qps := rfl
@[simp] theorem updTherm_mrs (f : ThermSt → ThermSt) (s : State) : (updTherm f s).mrs = s.mrs := rfl
@[simp] theorem updTherm_egress (f : ThermSt → ThermSt) (s : State) : (updTherm f s).egress = s.egress := rfl
@[simp] theorem updTherm_postNo (f : ThermSt → ThermSt) (s : State) : (updTherm f s).postNo = s.postNo := rfl
@[simp] theorem updTherm_acxRx (f : ThermSt → ThermSt) (s : State) : (updTherm f s).acxRx = s.acxRx := rfl
@[simp] theorem updTherm_spots (f : ThermSt → ThermSt) (s : State) : (updTherm f s).spots = s.spots := rfl
@[simp] theorem updTherm_therm (f : ThermSt → ThermSt) (s : State) : (updTherm f s).therm = f s.therm := rfl
@[simp] theorem updTherm_time (f : ThermSt → ThermSt) (s : State) : (updTherm f s).time = s.time := rfl
@[simp] theorem updTherm_wrapped (f : ThermSt → ThermSt) (s : State) : (updTherm f s).wrapped = s.wrapped := rfl
@[simp] theorem updTherm_idReady (f : ThermSt → ThermSt) (s : State) : (updTherm f s).idReady = s.idReady := rfl
@[simp] theorem updTherm_uncleared (f : ThermSt → ThermSt) (s : State) : (updTherm f s).uncleared = s.uncleared := rfl
@[simp] theorem updTherm_scrubs (f : ThermSt → ThermSt) (s : State) : (updTherm f s).scrubs = s.scrubs := rfl
@[simp] theorem updTherm_secOp (f : ThermSt → ThermSt) (s : State) : (updTherm f s).secOp = s.secOp := rfl
@[simp] theorem updTherm_fw (f : ThermSt → ThermSt) (s : State) : (updTherm f s).fw = s.fw := rfl
@[simp] theorem updTherm_jArea0 (f : ThermSt → ThermSt) (s : State) : (updTherm f s).jArea0 = s.jArea0 := rfl
@[simp] theorem updTherm_jArea1 (f : ThermSt → ThermSt) (s : State) : (updTherm f s).jArea1 = s.jArea1 := rfl
@[simp] theorem updTherm_jActive (f : ThermSt → ThermSt) (s : State) : (updTherm f s).jActive = s.jActive := rfl
@[simp] theorem updTherm_jGathered (f : ThermSt → ThermSt) (s : State) : (updTherm f s).jGathered = s.jGathered := rfl
@[simp] theorem updTherm_jWritten (f : ThermSt → ThermSt) (s : State) : (updTherm f s).jWritten = s.jWritten := rfl
@[simp] theorem updTherm_jSeq (f : ThermSt → ThermSt) (s : State) : (updTherm f s).jSeq = s.jSeq := rfl
@[simp] theorem updTherm_jGatherAt (f : ThermSt → ThermSt) (s : State) : (updTherm f s).jGatherAt = s.jGatherAt := rfl
@[simp] theorem updTherm_helm (f : ThermSt → ThermSt) (s : State) : (updTherm f s).helm = s.helm := rfl
@[simp] theorem updTherm_bist (f : ThermSt → ThermSt) (s : State) : (updTherm f s).bist = s.bist := rfl
@[simp] theorem updTherm_power (f : ThermSt → ThermSt) (s : State) : (updTherm f s).power = s.power := rfl

/-! ### updTime -/

@[simp] theorem updTime_now (f : TimeSt → TimeSt) (s : State) : (updTime f s).now = s.now := rfl
@[simp] theorem updTime_cyc (f : TimeSt → TimeSt) (s : State) : (updTime f s).cyc = s.cyc := rfl
@[simp] theorem updTime_free (f : TimeSt → TimeSt) (s : State) : (updTime f s).free = s.free := rfl
@[simp] theorem updTime_regs (f : TimeSt → TimeSt) (s : State) : (updTime f s).regs = s.regs := rfl
@[simp] theorem updTime_pending (f : TimeSt → TimeSt) (s : State) : (updTime f s).pending = s.pending := rfl
@[simp] theorem updTime_out (f : TimeSt → TimeSt) (s : State) : (updTime f s).out = s.out := rfl
@[simp] theorem updTime_events (f : TimeSt → TimeSt) (s : State) : (updTime f s).events = s.events := rfl
@[simp] theorem updTime_hostMem (f : TimeSt → TimeSt) (s : State) : (updTime f s).hostMem = s.hostMem := rfl
@[simp] theorem updTime_parts (f : TimeSt → TimeSt) (s : State) : (updTime f s).parts = s.parts := rfl
@[simp] theorem updTime_tensors (f : TimeSt → TimeSt) (s : State) : (updTime f s).tensors = s.tensors := rfl
@[simp] theorem updTime_nextHandle (f : TimeSt → TimeSt) (s : State) : (updTime f s).nextHandle = s.nextHandle := rfl
@[simp] theorem updTime_acxHandles (f : TimeSt → TimeSt) (s : State) : (updTime f s).acxHandles = s.acxHandles := rfl
@[simp] theorem updTime_kvEntries (f : TimeSt → TimeSt) (s : State) : (updTime f s).kvEntries = s.kvEntries := rfl
@[simp] theorem updTime_kvCtxs (f : TimeSt → TimeSt) (s : State) : (updTime f s).kvCtxs = s.kvCtxs := rfl
@[simp] theorem updTime_kvLow (f : TimeSt → TimeSt) (s : State) : (updTime f s).kvLow = s.kvLow := rfl
@[simp] theorem updTime_kvStamps (f : TimeSt → TimeSt) (s : State) : (updTime f s).kvStamps = s.kvStamps := rfl
@[simp] theorem updTime_reqs (f : TimeSt → TimeSt) (s : State) : (updTime f s).reqs = s.reqs := rfl
@[simp] theorem updTime_traceSeq (f : TimeSt → TimeSt) (s : State) : (updTime f s).traceSeq = s.traceSeq := rfl
@[simp] theorem updTime_tvSeq (f : TimeSt → TimeSt) (s : State) : (updTime f s).tvSeq = s.tvSeq := rfl
@[simp] theorem updTime_tv (f : TimeSt → TimeSt) (s : State) : (updTime f s).tv = s.tv := rfl
@[simp] theorem updTime_health (f : TimeSt → TimeSt) (s : State) : (updTime f s).health = s.health := rfl
@[simp] theorem updTime_windows (f : TimeSt → TimeSt) (s : State) : (updTime f s).windows = s.windows := rfl
@[simp] theorem updTime_sramCe (f : TimeSt → TimeSt) (s : State) : (updTime f s).sramCe = s.sramCe := rfl
@[simp] theorem updTime_sramPoison (f : TimeSt → TimeSt) (s : State) : (updTime f s).sramPoison = s.sramPoison := rfl
@[simp] theorem updTime_repairQueue (f : TimeSt → TimeSt) (s : State) : (updTime f s).repairQueue = s.repairQueue := rfl
@[simp] theorem updTime_dram (f : TimeSt → TimeSt) (s : State) : (updTime f s).dram = s.dram := rfl
@[simp] theorem updTime_flaskMem (f : TimeSt → TimeSt) (s : State) : (updTime f s).flaskMem = s.flaskMem := rfl
@[simp] theorem updTime_poison (f : TimeSt → TimeSt) (s : State) : (updTime f s).poison = s.poison := rfl
@[simp] theorem updTime_dramErrs (f : TimeSt → TimeSt) (s : State) : (updTime f s).dramErrs = s.dramErrs := rfl
@[simp] theorem updTime_remapped (f : TimeSt → TimeSt) (s : State) : (updTime f s).remapped = s.remapped := rfl
@[simp] theorem updTime_hbm (f : TimeSt → TimeSt) (s : State) : (updTime f s).hbm = s.hbm := rfl
@[simp] theorem updTime_dueCount (f : TimeSt → TimeSt) (s : State) : (updTime f s).dueCount = s.dueCount := rfl
@[simp] theorem updTime_heldAccs (f : TimeSt → TimeSt) (s : State) : (updTime f s).heldAccs = s.heldAccs := rfl
@[simp] theorem updTime_deferred (f : TimeSt → TimeSt) (s : State) : (updTime f s).deferred = s.deferred := rfl
@[simp] theorem updTime_edcCtx (f : TimeSt → TimeSt) (s : State) : (updTime f s).edcCtx = s.edcCtx := rfl
@[simp] theorem updTime_edcLockAt (f : TimeSt → TimeSt) (s : State) : (updTime f s).edcLockAt = s.edcLockAt := rfl
@[simp] theorem updTime_msixOn (f : TimeSt → TimeSt) (s : State) : (updTime f s).msixOn = s.msixOn := rfl
@[simp] theorem updTime_vecOpen (f : TimeSt → TimeSt) (s : State) : (updTime f s).vecOpen = s.vecOpen := rfl
@[simp] theorem updTime_msixHeld (f : TimeSt → TimeSt) (s : State) : (updTime f s).msixHeld = s.msixHeld := rfl
@[simp] theorem updTime_retention (f : TimeSt → TimeSt) (s : State) : (updTime f s).retention = s.retention := rfl
@[simp] theorem updTime_queues (f : TimeSt → TimeSt) (s : State) : (updTime f s).queues = s.queues := rfl
@[simp] theorem updTime_slots (f : TimeSt → TimeSt) (s : State) : (updTime f s).slots = s.slots := rfl
@[simp] theorem updTime_qps (f : TimeSt → TimeSt) (s : State) : (updTime f s).qps = s.qps := rfl
@[simp] theorem updTime_mrs (f : TimeSt → TimeSt) (s : State) : (updTime f s).mrs = s.mrs := rfl
@[simp] theorem updTime_egress (f : TimeSt → TimeSt) (s : State) : (updTime f s).egress = s.egress := rfl
@[simp] theorem updTime_postNo (f : TimeSt → TimeSt) (s : State) : (updTime f s).postNo = s.postNo := rfl
@[simp] theorem updTime_acxRx (f : TimeSt → TimeSt) (s : State) : (updTime f s).acxRx = s.acxRx := rfl
@[simp] theorem updTime_spots (f : TimeSt → TimeSt) (s : State) : (updTime f s).spots = s.spots := rfl
@[simp] theorem updTime_therm (f : TimeSt → TimeSt) (s : State) : (updTime f s).therm = s.therm := rfl
@[simp] theorem updTime_time (f : TimeSt → TimeSt) (s : State) : (updTime f s).time = f s.time := rfl
@[simp] theorem updTime_wrapped (f : TimeSt → TimeSt) (s : State) : (updTime f s).wrapped = s.wrapped := rfl
@[simp] theorem updTime_idReady (f : TimeSt → TimeSt) (s : State) : (updTime f s).idReady = s.idReady := rfl
@[simp] theorem updTime_uncleared (f : TimeSt → TimeSt) (s : State) : (updTime f s).uncleared = s.uncleared := rfl
@[simp] theorem updTime_scrubs (f : TimeSt → TimeSt) (s : State) : (updTime f s).scrubs = s.scrubs := rfl
@[simp] theorem updTime_secOp (f : TimeSt → TimeSt) (s : State) : (updTime f s).secOp = s.secOp := rfl
@[simp] theorem updTime_fw (f : TimeSt → TimeSt) (s : State) : (updTime f s).fw = s.fw := rfl
@[simp] theorem updTime_jArea0 (f : TimeSt → TimeSt) (s : State) : (updTime f s).jArea0 = s.jArea0 := rfl
@[simp] theorem updTime_jArea1 (f : TimeSt → TimeSt) (s : State) : (updTime f s).jArea1 = s.jArea1 := rfl
@[simp] theorem updTime_jActive (f : TimeSt → TimeSt) (s : State) : (updTime f s).jActive = s.jActive := rfl
@[simp] theorem updTime_jGathered (f : TimeSt → TimeSt) (s : State) : (updTime f s).jGathered = s.jGathered := rfl
@[simp] theorem updTime_jWritten (f : TimeSt → TimeSt) (s : State) : (updTime f s).jWritten = s.jWritten := rfl
@[simp] theorem updTime_jSeq (f : TimeSt → TimeSt) (s : State) : (updTime f s).jSeq = s.jSeq := rfl
@[simp] theorem updTime_jGatherAt (f : TimeSt → TimeSt) (s : State) : (updTime f s).jGatherAt = s.jGatherAt := rfl
@[simp] theorem updTime_helm (f : TimeSt → TimeSt) (s : State) : (updTime f s).helm = s.helm := rfl
@[simp] theorem updTime_bist (f : TimeSt → TimeSt) (s : State) : (updTime f s).bist = s.bist := rfl
@[simp] theorem updTime_power (f : TimeSt → TimeSt) (s : State) : (updTime f s).power = s.power := rfl

/-! ### updBist -/

@[simp] theorem updBist_now (f : BistSt → BistSt) (s : State) : (updBist f s).now = s.now := rfl
@[simp] theorem updBist_cyc (f : BistSt → BistSt) (s : State) : (updBist f s).cyc = s.cyc := rfl
@[simp] theorem updBist_free (f : BistSt → BistSt) (s : State) : (updBist f s).free = s.free := rfl
@[simp] theorem updBist_regs (f : BistSt → BistSt) (s : State) : (updBist f s).regs = s.regs := rfl
@[simp] theorem updBist_pending (f : BistSt → BistSt) (s : State) : (updBist f s).pending = s.pending := rfl
@[simp] theorem updBist_out (f : BistSt → BistSt) (s : State) : (updBist f s).out = s.out := rfl
@[simp] theorem updBist_events (f : BistSt → BistSt) (s : State) : (updBist f s).events = s.events := rfl
@[simp] theorem updBist_hostMem (f : BistSt → BistSt) (s : State) : (updBist f s).hostMem = s.hostMem := rfl
@[simp] theorem updBist_parts (f : BistSt → BistSt) (s : State) : (updBist f s).parts = s.parts := rfl
@[simp] theorem updBist_tensors (f : BistSt → BistSt) (s : State) : (updBist f s).tensors = s.tensors := rfl
@[simp] theorem updBist_nextHandle (f : BistSt → BistSt) (s : State) : (updBist f s).nextHandle = s.nextHandle := rfl
@[simp] theorem updBist_acxHandles (f : BistSt → BistSt) (s : State) : (updBist f s).acxHandles = s.acxHandles := rfl
@[simp] theorem updBist_kvEntries (f : BistSt → BistSt) (s : State) : (updBist f s).kvEntries = s.kvEntries := rfl
@[simp] theorem updBist_kvCtxs (f : BistSt → BistSt) (s : State) : (updBist f s).kvCtxs = s.kvCtxs := rfl
@[simp] theorem updBist_kvLow (f : BistSt → BistSt) (s : State) : (updBist f s).kvLow = s.kvLow := rfl
@[simp] theorem updBist_kvStamps (f : BistSt → BistSt) (s : State) : (updBist f s).kvStamps = s.kvStamps := rfl
@[simp] theorem updBist_reqs (f : BistSt → BistSt) (s : State) : (updBist f s).reqs = s.reqs := rfl
@[simp] theorem updBist_traceSeq (f : BistSt → BistSt) (s : State) : (updBist f s).traceSeq = s.traceSeq := rfl
@[simp] theorem updBist_tvSeq (f : BistSt → BistSt) (s : State) : (updBist f s).tvSeq = s.tvSeq := rfl
@[simp] theorem updBist_tv (f : BistSt → BistSt) (s : State) : (updBist f s).tv = s.tv := rfl
@[simp] theorem updBist_health (f : BistSt → BistSt) (s : State) : (updBist f s).health = s.health := rfl
@[simp] theorem updBist_windows (f : BistSt → BistSt) (s : State) : (updBist f s).windows = s.windows := rfl
@[simp] theorem updBist_sramCe (f : BistSt → BistSt) (s : State) : (updBist f s).sramCe = s.sramCe := rfl
@[simp] theorem updBist_sramPoison (f : BistSt → BistSt) (s : State) : (updBist f s).sramPoison = s.sramPoison := rfl
@[simp] theorem updBist_repairQueue (f : BistSt → BistSt) (s : State) : (updBist f s).repairQueue = s.repairQueue := rfl
@[simp] theorem updBist_dram (f : BistSt → BistSt) (s : State) : (updBist f s).dram = s.dram := rfl
@[simp] theorem updBist_flaskMem (f : BistSt → BistSt) (s : State) : (updBist f s).flaskMem = s.flaskMem := rfl
@[simp] theorem updBist_poison (f : BistSt → BistSt) (s : State) : (updBist f s).poison = s.poison := rfl
@[simp] theorem updBist_dramErrs (f : BistSt → BistSt) (s : State) : (updBist f s).dramErrs = s.dramErrs := rfl
@[simp] theorem updBist_remapped (f : BistSt → BistSt) (s : State) : (updBist f s).remapped = s.remapped := rfl
@[simp] theorem updBist_hbm (f : BistSt → BistSt) (s : State) : (updBist f s).hbm = s.hbm := rfl
@[simp] theorem updBist_dueCount (f : BistSt → BistSt) (s : State) : (updBist f s).dueCount = s.dueCount := rfl
@[simp] theorem updBist_heldAccs (f : BistSt → BistSt) (s : State) : (updBist f s).heldAccs = s.heldAccs := rfl
@[simp] theorem updBist_deferred (f : BistSt → BistSt) (s : State) : (updBist f s).deferred = s.deferred := rfl
@[simp] theorem updBist_edcCtx (f : BistSt → BistSt) (s : State) : (updBist f s).edcCtx = s.edcCtx := rfl
@[simp] theorem updBist_edcLockAt (f : BistSt → BistSt) (s : State) : (updBist f s).edcLockAt = s.edcLockAt := rfl
@[simp] theorem updBist_msixOn (f : BistSt → BistSt) (s : State) : (updBist f s).msixOn = s.msixOn := rfl
@[simp] theorem updBist_vecOpen (f : BistSt → BistSt) (s : State) : (updBist f s).vecOpen = s.vecOpen := rfl
@[simp] theorem updBist_msixHeld (f : BistSt → BistSt) (s : State) : (updBist f s).msixHeld = s.msixHeld := rfl
@[simp] theorem updBist_retention (f : BistSt → BistSt) (s : State) : (updBist f s).retention = s.retention := rfl
@[simp] theorem updBist_queues (f : BistSt → BistSt) (s : State) : (updBist f s).queues = s.queues := rfl
@[simp] theorem updBist_slots (f : BistSt → BistSt) (s : State) : (updBist f s).slots = s.slots := rfl
@[simp] theorem updBist_qps (f : BistSt → BistSt) (s : State) : (updBist f s).qps = s.qps := rfl
@[simp] theorem updBist_mrs (f : BistSt → BistSt) (s : State) : (updBist f s).mrs = s.mrs := rfl
@[simp] theorem updBist_egress (f : BistSt → BistSt) (s : State) : (updBist f s).egress = s.egress := rfl
@[simp] theorem updBist_postNo (f : BistSt → BistSt) (s : State) : (updBist f s).postNo = s.postNo := rfl
@[simp] theorem updBist_acxRx (f : BistSt → BistSt) (s : State) : (updBist f s).acxRx = s.acxRx := rfl
@[simp] theorem updBist_spots (f : BistSt → BistSt) (s : State) : (updBist f s).spots = s.spots := rfl
@[simp] theorem updBist_therm (f : BistSt → BistSt) (s : State) : (updBist f s).therm = s.therm := rfl
@[simp] theorem updBist_time (f : BistSt → BistSt) (s : State) : (updBist f s).time = s.time := rfl
@[simp] theorem updBist_wrapped (f : BistSt → BistSt) (s : State) : (updBist f s).wrapped = s.wrapped := rfl
@[simp] theorem updBist_idReady (f : BistSt → BistSt) (s : State) : (updBist f s).idReady = s.idReady := rfl
@[simp] theorem updBist_uncleared (f : BistSt → BistSt) (s : State) : (updBist f s).uncleared = s.uncleared := rfl
@[simp] theorem updBist_scrubs (f : BistSt → BistSt) (s : State) : (updBist f s).scrubs = s.scrubs := rfl
@[simp] theorem updBist_secOp (f : BistSt → BistSt) (s : State) : (updBist f s).secOp = s.secOp := rfl
@[simp] theorem updBist_fw (f : BistSt → BistSt) (s : State) : (updBist f s).fw = s.fw := rfl
@[simp] theorem updBist_jArea0 (f : BistSt → BistSt) (s : State) : (updBist f s).jArea0 = s.jArea0 := rfl
@[simp] theorem updBist_jArea1 (f : BistSt → BistSt) (s : State) : (updBist f s).jArea1 = s.jArea1 := rfl
@[simp] theorem updBist_jActive (f : BistSt → BistSt) (s : State) : (updBist f s).jActive = s.jActive := rfl
@[simp] theorem updBist_jGathered (f : BistSt → BistSt) (s : State) : (updBist f s).jGathered = s.jGathered := rfl
@[simp] theorem updBist_jWritten (f : BistSt → BistSt) (s : State) : (updBist f s).jWritten = s.jWritten := rfl
@[simp] theorem updBist_jSeq (f : BistSt → BistSt) (s : State) : (updBist f s).jSeq = s.jSeq := rfl
@[simp] theorem updBist_jGatherAt (f : BistSt → BistSt) (s : State) : (updBist f s).jGatherAt = s.jGatherAt := rfl
@[simp] theorem updBist_helm (f : BistSt → BistSt) (s : State) : (updBist f s).helm = s.helm := rfl
@[simp] theorem updBist_bist (f : BistSt → BistSt) (s : State) : (updBist f s).bist = f s.bist := rfl
@[simp] theorem updBist_power (f : BistSt → BistSt) (s : State) : (updBist f s).power = s.power := rfl

/-! ### Registers -/

/-- A register reads what was written to it, modulo 2^64. -/
@[simp] theorem regGet_regSet_same (o v : Nat) (s : State) : regGet (regSet o v s) o = v % 2 ^ 64 := by
  simp [regGet, regSet]

/-- Every other register is as before. -/
@[simp] theorem regGet_regSet_other {o j : Nat} (v : Nat) (s : State) (h : j ≠ o) :
    regGet (regSet o v s) j = regGet s j := by
  by_cases hd : regReset j = regReset o
  · simp [regGet, regSet, hd, mapGet_mapSet_other _ _ h]
  · simp only [regGet, regSet]
    unfold mapSet
    split
    · rw [mapGet_mapErase_other _ h]
    · rw [mapGet_mapInsert_other _ _ h, mapGet_mapErase_other _ h]

/-- A field of another register is as before. -/
@[simp] theorem fget_regSet_other {o : Nat} (f : Fld) (v : Nat) (s : State) (h : f.reg ≠ o) :
    fget (regSet o v s) f = fget s f := by simp [fget, regGet_regSet_other v s h]

/-- A field of another register is as before. -/
@[simp] theorem fget_fset_other (f g : Fld) (v : Nat) (s : State) (h : f.reg ≠ g.reg) :
    fget (fset g v s) f = fget s f := by simp [fset, h]

/-- Another register is as before. -/
@[simp] theorem regGet_fset_other {j : Nat} (g : Fld) (v : Nat) (s : State) (h : j ≠ g.reg) :
    regGet (fset g v s) j = regGet s j := by simp [fset, regGet_regSet_other _ _ h]

/-! ### Partitions and requests -/

/-- A partition reads what was set. -/
@[simp] theorem partOf_setPart_same (p : Nat) (pt : Part) (s : State) : partOf (setPart p pt s) p = pt := by
  simp [partOf, setPart]

/-- Another partition is as before. -/
@[simp] theorem partOf_setPart_other {p q : Nat} (pt : Part) (s : State) (h : q ≠ p) :
    partOf (setPart p pt s) q = partOf s q := by simp [partOf, setPart, mapGet_mapSet_other _ _ h]

/-- A partition after an update. -/
@[simp] theorem partOf_updPart_same (p : Nat) (f : Part → Part) (s : State) :
    partOf (updPart p f s) p = f (partOf s p) := by simp [updPart]

/-- Another partition is as before. -/
@[simp] theorem partOf_updPart_other {p q : Nat} (f : Part → Part) (s : State) (h : q ≠ p) :
    partOf (updPart p f s) q = partOf s q := by simp [updPart, h]

/-- Of two settings of one partition the later stands. -/
@[simp] theorem setPart_setPart (p : Nat) (a b : Part) (s : State) : setPart p b (setPart p a s) = setPart p b s := by
  simp [setPart]

/-- A request entry after an update. -/
@[simp] theorem reqGet_reqUpd_same (i : Nat) (f : ReqEnt → ReqEnt) (s : State) :
    reqGet (reqUpd i f s) i = f (reqGet s i) := by simp [reqGet, reqUpd, mapUpd]

/-- Another request entry is as before. -/
@[simp] theorem reqGet_reqUpd_other {i j : Nat} (f : ReqEnt → ReqEnt) (s : State) (h : j ≠ i) :
    reqGet (reqUpd i f s) j = reqGet s j := by simp [reqGet, reqUpd, mapUpd, mapGet_mapSet_other _ _ h]

end Sys2Proof.Machine
end

