-- ==== Sys2Proof/Laws/Bits.lean ====
section
/-!
SUPPORT. Bit fields: what a field reads after it, or another field of the same register, has been set.
-/
namespace Sys2Proof.Machine

/-- A number in three parts about a field of `k` bits at `lo`. -/
theorem field_split (v k lo : Nat) :
    v = v / 2 ^ (lo + k) * 2 ^ (lo + k) + v / 2 ^ lo % 2 ^ k * 2 ^ lo + v % 2 ^ lo := by
  have h1 := Nat.div_add_mod v (2 ^ lo)
  have h2 := Nat.div_add_mod (v / 2 ^ lo) (2 ^ k)
  have h3 : v / 2 ^ (lo + k) = v / 2 ^ lo / 2 ^ k := by rw [Nat.pow_add, Nat.div_div_eq_div_mul]
  have h4 : (2 : Nat) ^ (lo + k) = 2 ^ lo * 2 ^ k := Nat.pow_add 2 lo k
  rw [h3, h4]
  generalize v / 2 ^ lo / 2 ^ k = q at *
  generalize v / 2 ^ lo % 2 ^ k = f at *
  generalize v % 2 ^ lo = r at *
  generalize v / 2 ^ lo = w at *
  rw [← h1, ← h2]
  ring

/-- What fieldSet makes of those parts. -/
theorem fieldSet_split (v hi lo x : Nat) :
    fieldSet v hi lo x = v / 2 ^ (lo + (hi + 1 - lo)) * 2 ^ (lo + (hi + 1 - lo))
      + x % 2 ^ (hi + 1 - lo) * 2 ^ lo + v % 2 ^ lo := by
  have h := field_split v (hi + 1 - lo) lo
  unfold fieldSet fieldGet
  omega

/-- A field reads what was set, modulo its size. -/
@[simp] theorem fieldGet_fieldSet_same (v hi lo x : Nat) :
    fieldGet (fieldSet v hi lo x) hi lo = x % 2 ^ (hi + 1 - lo) := by
  rw [fieldSet_split]
  unfold fieldGet
  generalize hi + 1 - lo = k
  have hlt : v % 2 ^ lo < 2 ^ lo := Nat.mod_lt _ (Nat.two_pow_pos lo)
  have h5 : v / 2 ^ (lo + k) * 2 ^ (lo + k) + x % 2 ^ k * 2 ^ lo + v % 2 ^ lo
      = 2 ^ lo * (2 ^ k * (v / 2 ^ (lo + k)) + x % 2 ^ k) + v % 2 ^ lo := by
    rw [Nat.pow_add 2 lo k]; ring
  rw [h5, Nat.mul_add_div (Nat.two_pow_pos lo), Nat.div_eq_of_lt hlt, Nat.add_zero, Nat.mul_add_mod, Nat.mod_mod]

/-- Only the bits below `lo` matter to a field that ends below `lo`. -/
theorem fieldGet_mod (w hi lo n : Nat) (h : hi < n) : fieldGet (w % 2 ^ n) hi lo = fieldGet w hi lo := by
  unfold fieldGet
  by_cases hl : lo ≤ hi
  · obtain ⟨j, rfl⟩ : ∃ j, n = lo + j := ⟨n - lo, by omega⟩
    rw [Nat.pow_add, Nat.mod_mul_right_div_self, Nat.mod_mod_of_dvd _ (Nat.pow_dvd_pow 2 (by omega))]
  · have : hi + 1 - lo = 0 := by omega
    simp [this, Nat.mod_one]

/-- A field below one that is set is as before. -/
theorem fieldGet_fieldSet_below (v hi lo x hi' lo' : Nat) (h : hi' < lo) :
    fieldGet (fieldSet v hi lo x) hi' lo' = fieldGet v hi' lo' := by
  rw [← fieldGet_mod _ hi' lo' lo h, ← fieldGet_mod v hi' lo' lo h, fieldSet_split]
  congr 1
  generalize hi + 1 - lo = k
  have h5 : v / 2 ^ (lo + k) * 2 ^ (lo + k) + x % 2 ^ k * 2 ^ lo + v % 2 ^ lo
      = 2 ^ lo * (2 ^ k * (v / 2 ^ (lo + k)) + x % 2 ^ k) + v % 2 ^ lo := by
    rw [Nat.pow_add 2 lo k]; ring
  rw [h5, Nat.mul_add_mod, Nat.mod_mod]

/-- A field above one that is set is as before. -/
theorem fieldGet_fieldSet_above (v hi lo x hi' lo' : Nat) (hb : lo ≤ hi + 1) (h : hi < lo') :
    fieldGet (fieldSet v hi lo x) hi' lo' = fieldGet v hi' lo' := by
  unfold fieldGet
  congr 1
  obtain ⟨j, rfl⟩ : ∃ j, lo' = (hi + 1) + j := ⟨lo' - (hi + 1), by omega⟩
  rw [Nat.pow_add, ← Nat.div_div_eq_div_mul, ← Nat.div_div_eq_div_mul]
  congr 1
  have e : lo + (hi + 1 - lo) = hi + 1 := by omega
  rw [fieldSet_split, e]
  have h1 : x % 2 ^ (hi + 1 - lo) * 2 ^ lo + v % 2 ^ lo < 2 ^ (hi + 1) := by
    have ha := Nat.mod_lt x (Nat.two_pow_pos (hi + 1 - lo))
    have hc := Nat.mod_lt v (Nat.two_pow_pos lo)
    have hp : (2 : Nat) ^ (hi + 1) = 2 ^ (hi + 1 - lo) * 2 ^ lo := by rw [← Nat.pow_add]; congr 1; omega
    have : (x % 2 ^ (hi + 1 - lo) + 1) * 2 ^ lo ≤ 2 ^ (hi + 1 - lo) * 2 ^ lo := Nat.mul_le_mul_right _ ha
    rw [hp]
    nlinarith
  rw [Nat.add_assoc, Nat.mul_comm, Nat.mul_add_div (Nat.two_pow_pos _), Nat.div_eq_of_lt h1, Nat.add_zero]

/-- A field of a register reads what was set, modulo its size. -/
@[simp] theorem fget_fset_same (f : Fld) (x : Nat) (s : State) (h : f.hi < 64) :
    fget (fset f x s) f = x % 2 ^ (f.hi + 1 - f.lo) := by
  simp only [fget, fset, regGet_regSet_same]
  rw [fieldGet_mod _ _ _ 64 h, fieldGet_fieldSet_same]

/-- Another field of the same register, above or below, is as before. -/
@[simp] theorem fget_fset_beside (f g : Fld) (x : Nat) (s : State) (hf : f.hi < 64) (hg : g.lo ≤ g.hi + 1)
    (h : f.hi < g.lo ∨ g.hi < f.lo) : fget (fset g x s) f = fget s f := by
  by_cases hr : f.reg = g.reg
  · simp only [fget, fset, hr, regGet_regSet_same]
    rw [fieldGet_mod _ _ _ 64 hf]
    rcases h with h | h
    · exact fieldGet_fieldSet_below _ _ _ _ _ _ h
    · exact fieldGet_fieldSet_above _ _ _ _ _ _ hg h
  · exact fget_fset_other f g x s hr

end Sys2Proof.Machine
end

