-- ==== Sys2Proof/Laws/Beside.lean ====
section
/-!
SUPPORT. What raising an event, counting, tracing, logging, journaling and completing a command can do, once for each: the
state after differs from the one before as `Beside` says.
-/
namespace Sys2Proof.Machine

/-! ### The relation -/

theorem mem_bookFlds {f : Fld} (j p : Bool) (h : f ∈ bookFlds false false) : f ∈ bookFlds j p := by
  unfold bookFlds at h ⊢
  simp only [Bool.false_eq_true, if_false, List.append_nil] at h
  exact List.mem_append_left _ (List.mem_append_left _ h)

theorem Beside.refl (j p : Bool) (s : State) : Beside j p s s :=
  ⟨by cases j <;> cases p <;> rfl, fun _ _ _ _ => rfl, List.suffix_refl _, List.suffix_refl _, List.prefix_refl _,
    fun h => ⟨h, fun _ _ => rfl⟩⟩

theorem Beside.trans {j p : Bool} {s t u : State} (h1 : Beside j p s t) (h2 : Beside j p t u) : Beside j p s u := by
  obtain ⟨e1, f1, a1, b1, c1, d1⟩ := h1
  obtain ⟨e2, f2, a2, b2, c2, d2⟩ := h2
  refine ⟨?_, fun f hl hh ha => (f2 f hl hh ha).trans (f1 f hl hh ha), a1.trans a2, b1.trans b2, c1.trans c2, ?_⟩
  · rw [e1] at e2
    cases j <;> cases p <;> exact e2
  · intro h
    obtain ⟨h', m1⟩ := d1 h
    obtain ⟨h'', m2⟩ := d2 h'
    exact ⟨h'', fun a ha => (m2 a ha).trans (m1 a ha)⟩

/-- Fewer marks allowed: more allowed. -/
theorem Beside.weaken {s t : State} (j p : Bool) (h : Beside false false s t) : Beside j p s t := by
  obtain ⟨e, f, a, b, c, d⟩ := h
  refine ⟨?_, fun g hl hh ha => f g hl hh (fun x hx => ha x ?_), a, b, c, d⟩
  · have h1 : t.jGathered = s.jGathered := by rw [e]; rfl
    have h2 : t.jSeq = s.jSeq := by rw [e]; rfl
    have h3 : t.jGatherAt = s.jGatherAt := by rw [e]; rfl
    have h4 : t.hostMem = s.hostMem := by rw [e]; rfl
    have h5 : t.queues = s.queues := by rw [e]; rfl
    rw [h1, h2, h3, h4, h5]
    cases j <;> cases p <;> simpa using e
  · exact mem_bookFlds j p hx

theorem Beside.ite {j p : Bool} {s t u : State} {c : Prop} [Decidable c] (h1 : Beside j p s t) (h2 : Beside j p s u) :
    Beside j p s (if c then t else u) := by
  split
  · exact h1
  · exact h2

/-- A register of the marks is set whole. -/
theorem beside_regSet {j p : Bool} (o v : Nat) (s : State) (hm : (⟨o, 63, 0⟩ : Fld) ∈ bookFlds j p)
    (hr : ringsOk s → ringsOk (regSet o v s)) : Beside j p s (regSet o v s) := by
  refine ⟨by cases j <;> cases p <;> rfl, fun f hl hh ha => ?_, List.suffix_refl _, List.suffix_refl _,
    List.prefix_refl _, fun h => ⟨hr h, fun _ _ => rfl⟩⟩
  by_cases e : f.reg = o
  · have := ha _ hm e
    simp at this
    omega
  · exact fget_regSet_other f v s e

/-- A field of the marks is set. -/
theorem beside_fset {j p : Bool} (g : Fld) (x : Nat) (s : State) (hm : g ∈ bookFlds j p) (hg : g.lo ≤ g.hi)
    (hr : ringsOk s → ringsOk (fset g x s)) : Beside j p s (fset g x s) := by
  refine ⟨by cases j <;> cases p <;> rfl, fun f hl hh ha => ?_, List.suffix_refl _, List.suffix_refl _,
    List.prefix_refl _, fun h => ⟨hr h, fun _ _ => rfl⟩⟩
  by_cases e : f.reg = g.reg
  · exact fget_fset_beside f g x s hh (by omega) (ha _ hm e)
  · exact fget_fset_other f g x s e

/-- Registers other than the two heads leave the rings as they are. -/
theorem ringsOk_regSet (o v : Nat) (s : State) (h1 : o ≠ TB_TRACE_HEAD) (h2 : o ≠ RAS_LOG_HEAD) :
    ringsOk s → ringsOk (regSet o v s) := by
  intro ⟨a, b, c⟩
  refine ⟨?_, ?_, c⟩
  · rwa [fget_regSet_other _ _ _ (Ne.symm h1)]
  · rwa [fget_regSet_other _ _ _ (Ne.symm h2)]

theorem ringsOk_fset (g : Fld) (x : Nat) (s : State) (h1 : g.reg ≠ TB_TRACE_HEAD) (h2 : g.reg ≠ RAS_LOG_HEAD) :
    ringsOk s → ringsOk (fset g x s) := ringsOk_regSet _ _ _ h1 h2

/-- An update of the fields that `Beside` leaves open, without registers and DRAM. -/
theorem beside_of (j p : Bool) (s : State) (free : Nat) (out : List Out) (ev : List EvRec) (ts tv' : SMap (BitVec 32))
    (tv : SMap TvQueue) (mh : List (Nat × Nat)) (ret : Option Retention) (al : Bool)
    (he : s.events <:+ ev) (ho : s.out <:+ out) :
    Beside j p s { s with free := free, out := out, events := ev, traceSeq := ts, tvSeq := tv', tv := tv, msixHeld := mh
                          retention := ret, power := { s.power with alert := al } } :=
  ⟨by cases j <;> cases p <;> rfl, fun _ _ _ _ => rfl, he, ho, List.prefix_refl _, fun h => ⟨h, fun _ _ => rfl⟩⟩

/-! ### Events -/

theorem beside_freeUse (j p : Bool) (n : Nat) (s : State) : Beside j p s (freeUse n s) :=
  beside_of j p s _ _ _ _ _ _ _ _ _ (List.suffix_refl _) (List.suffix_refl _)

theorem beside_logEvent (j p : Bool) (e : Ev) (u : Nat) (s : State) : Beside j p s (logEvent e u s) :=
  beside_of j p s _ _ _ _ _ _ _ _ _ (List.suffix_cons _ _) (List.suffix_refl _)

theorem beside_sendMsix (j p : Bool) (f v : Nat) (s : State) : Beside j p s (sendMsix f v s) := by
  refine beside_of j p s _ _ _ _ _ _ _ _ _ (List.suffix_refl _) ?_
  split
  · exact List.suffix_cons _ _
  · exact List.suffix_refl _

theorem mem_tabulate {α : Type} (f : Nat → α) (n i k : Nat) (h1 : i ≤ k) (h2 : k < i + n) : f k ∈ tabulate f n i := by
  induction n generalizing i with
  | zero => omega
  | succ n ih =>
    by_cases e : i = k
    · subst e; exact List.mem_cons_self
    · exact List.mem_cons_of_mem _ (ih (i + 1) (by omega) (by omega))

theorem beside_foldl {α : Type} {j p : Bool} (f : State → α → State) (l : List α)
    (h : ∀ a ∈ l, ∀ s, Beside j p s (f s a)) (s : State) : Beside j p s (l.foldl f s) := by
  induction l generalizing s with
  | nil => exact Beside.refl _ _ _
  | cons a l ih =>
    exact (h a List.mem_cons_self s).trans (ih (fun b hb => h b (List.mem_cons_of_mem _ hb)) _)

theorem mem_tabulate_iff (n i : Nat) (k : Nat) : k ∈ tabulate (fun i => i) n i → k < i + n := by
  induction n generalizing i with
  | zero => intro h; cases h
  | succ n ih =>
    intro h
    rcases List.mem_cons.1 h with rfl | h
    · omega
    · have := ih _ h; omega

theorem mem_ctx (j p : Bool) (c : Nat) (h : c < 28) : EDC_CTX_STATUS_NOTIFIED c ∈ bookFlds j p := by
  refine mem_bookFlds j p ?_
  unfold bookFlds
  have := mem_tabulate EDC_CTX_STATUS_NOTIFIED 28 0 c (by omega) (by omega)
  simp only [List.mem_append]
  tauto

theorem mem_pend (j p : Bool) (w : Nat) (h : w < 32) : (⟨EDC_PEND w, 63, 0⟩ : Fld) ∈ bookFlds j p := by
  refine mem_bookFlds j p ?_
  unfold bookFlds
  have := mem_tabulate (fun w => (⟨EDC_PEND w, 63, 0⟩ : Fld)) 32 0 w (by omega) (by omega)
  simp only [List.mem_append]
  tauto

theorem mem_credits (j p : Bool) (i : Nat) (h : i < 8) : TK_PART_CREDITS i ∈ bookFlds j p := by
  refine mem_bookFlds j p ?_
  unfold bookFlds
  have := mem_tabulate TK_PART_CREDITS 8 0 i (by omega) (by omega)
  simp only [List.mem_append]
  tauto

theorem beside_edcNotify (j p : Bool) (l : List (Nat × Nat × Nat)) (c : Nat) (hc : c < 28) (s : State) :
    Beside j p s (edcNotify l c s) := by
  have h : Beside j p s (fset (EDC_CTX_STATUS_NOTIFIED c) 1 s) :=
    beside_fset _ _ _ (mem_ctx j p c hc) (by simp)
      (ringsOk_fset _ _ _ (by simp [EDC_CTX_STATUS, TB_TRACE_HEAD]; omega)
        (by simp [EDC_CTX_STATUS, RAS_LOG_HEAD]; omega))
  unfold edcNotify
  split
  · exact Beside.refl _ _ _
  · exact Beside.ite (h.trans (beside_sendMsix _ _ _ _ _)) h

theorem beside_edcUpdate (j p : Bool) (l0 : List (Nat × Nat × Nat)) (s : State) : Beside j p s (edcUpdate l0 s) := by
  refine beside_foldl _ _ (fun c hc s' => ?_) s
  have := mem_tabulate_iff _ _ _ hc
  exact Beside.ite (Beside.refl _ _ _) (beside_edcNotify _ _ _ _ (by omega) _)

theorem beside_addCredits (j p : Bool) (i n : Nat) (hi : i < 8) (s : State) : Beside j p s (addCredits i n s) := by
  refine Beside.ite (beside_fset _ _ _ (mem_credits j p i hi) (by simp) (ringsOk_fset _ _ _ ?_ ?_)) (Beside.refl _ _ _)
  · simp [TK_PART, TB_TRACE_HEAD]; omega
  · simp [TK_PART, RAS_LOG_HEAD]; omega

theorem beside_armBySource (j p : Bool) (n : Nat) (s : State) : Beside j p s (armBySource n s) := by
  refine beside_foldl _ _ (fun c hc s' => ?_) s
  have := mem_tabulate_iff _ _ _ hc
  exact Beside.ite (beside_addCredits _ _ _ _ (by omega) _) (Beside.refl _ _ _)

/-! ### Records in the firmware region -/

theorem leBytes_length (n v : Nat) : (leBytes n v).length = n := by
  induction n generalizing v with
  | zero => rfl
  | succ n ih => simp [leBytes, ih]

/-- Bytes outside those put are as before. -/
theorem mapGet_cellsPut_other (bs : List Byte) (a : Nat) (m : List Host.Cell) (k : Nat)
    (h : k < a ∨ a + bs.length ≤ k) : mapGet 0 (cellsPut bs a m) k = mapGet 0 m k := by
  induction bs generalizing a m with
  | nil => rfl
  | cons b bs ih =>
    simp only [List.length_cons] at h
    rw [cellsPut, ih (a + 1) _ (by omega), mapGet_mapSet_other]
    omega

theorem dramByte_dramWrite_other (a : Nat) (bs : List Byte) (s : State) (k : Nat) (hm : mirrorsOf s = [])
    (h : k < a ∨ a + bs.length ≤ k) : dramByte (dramWrite a bs s) k = dramByte s k := by
  unfold dramByte dramWrite
  simp only [cellsPutAll, hm, List.foldl_nil]
  exact mapGet_cellsPut_other _ _ _ _ h

/-- A write that covers no whole 64-byte unit leaves the poison marks. -/
theorem poisonAfter_short (a n : Nat) (h : n < 64) (m : SMap Bool) : poisonAfter a n m = m := by
  unfold poisonAfter
  rw [List.filter_eq_self]
  intro e _
  simp
  omega

theorem beside_fwWriteAt (j p : Bool) (o : Nat) (bs : List Byte) (s : State) (hb : bs.length = 32)
    (ho : ringsOk s → o + 32 ≤ 0x40000000) : Beside j p s (fwWriteAt o bs s) := by
  unfold fwWriteAt
  refine Beside.ite ?_ (Beside.refl _ _ _)
  have hp : (dramWrite (fwCopy1 + o) bs (dramWrite (fwCopy0 + o) bs s)).poison = s.poison := by
    simp only [dramWrite_poison]
    rw [poisonAfter_short _ _ (by omega), poisonAfter_short _ _ (by omega)]
  refine ⟨?_, fun _ _ _ _ => rfl, List.suffix_refl _, List.suffix_refl _, List.prefix_refl _, fun h => ⟨h, fun a ha => ?_⟩⟩
  · have : ∀ d x, dramWrite (fwCopy1 + o) bs (dramWrite (fwCopy0 + o) bs s)
        = { s with dram := d, poison := x } →
        x = s.poison → dramWrite (fwCopy1 + o) bs (dramWrite (fwCopy0 + o) bs s) = { s with dram := d } := by
      intro d x h1 h2; rw [h1, h2]
    have h2 := this _ _ rfl hp
    rw [h2]
    cases j <;> cases p <;> rfl
  · have hbound := ho h
    obtain ⟨_, _, hm⟩ := h
    simp only [inFwCopy, decide_eq_false_iff_not, not_or, not_and_or, not_lt, not_le] at ha
    rw [dramByte_dramWrite_other _ _ _ _ (by exact hm) (by rw [hb]; omega),
      dramByte_dramWrite_other _ _ _ _ hm (by rw [hb]; omega)]

theorem recBytes_length (v : Nat) : (recBytes v).length = 32 := leBytes_length 32 v

theorem mem_head (j p : Bool) : (⟨TB_TRACE_HEAD, 63, 0⟩ : Fld) ∈ bookFlds j p :=
  mem_bookFlds j p (by simp [bookFlds])

/-- The head of the trace ring moves. -/
theorem beside_traceHead (j p : Bool) (g : Fld) (x : Nat) (s : State)
    (hg : g = TB_TRACE_HEAD_WRAPS ∨ (g = TB_TRACE_HEAD_INDEX ∧ (x < 2097152))) : Beside j p s (fset g x s) := by
  have hreg : g.reg = TB_TRACE_HEAD := by rcases hg with rfl | ⟨rfl, _⟩ <;> rfl
  unfold fset
  rw [hreg]
  refine beside_regSet _ _ _ (mem_head j p) ?_
  intro ⟨a, b, c⟩
  refine ⟨?_, ?_, c⟩
  · rcases hg with rfl | ⟨rfl, hx⟩
    · have := fget_fset_beside TB_TRACE_HEAD_INDEX TB_TRACE_HEAD_WRAPS x s (by decide) (by decide) (by decide)
      unfold fset at this
      simp only at this ⊢
      rw [this]; exact a
    · have := fget_fset_same TB_TRACE_HEAD_INDEX x s (by decide)
      unfold fset at this
      simp only at this ⊢
      rw [this, Nat.mod_eq_of_lt (by omega)]
      exact hx
  · rwa [fget_regSet_other _ _ _ (by decide)]

theorem beside_traceRec (j p : Bool) (typ part cls data : Nat) (s : State) :
    Beside j p s (traceRec typ part cls data s) := by
  unfold traceRec
  refine Beside.ite ?_ (Beside.refl _ _ _)
  dsimp only
  generalize hr : recBytes _ = r
  have hl : r.length = 32 := hr ▸ recBytes_length _
  have h1 : Beside j p s (fwWriteAt (fwTraceOff + 32 * fget s TB_TRACE_HEAD_INDEX) r s) :=
    beside_fwWriteAt _ _ _ _ _ hl (fun h => by have := h.1; unfold fwTraceOff; omega)
  generalize fwWriteAt _ r s = s1 at h1 ⊢
  have h2 : Beside j p s { s1 with traceSeq := mapSet 0 s1.traceSeq cls (mapGet 0 s.traceSeq cls + 1) } :=
    h1.trans (beside_of j p s1 _ _ _ _ _ _ _ _ _ (List.suffix_refl _) (List.suffix_refl _))
  generalize ({ s1 with traceSeq := mapSet 0 s1.traceSeq cls (mapGet 0 s.traceSeq cls + 1) } : State) = s2 at h2 ⊢
  have h3 := h2.trans (beside_traceHead j p TB_TRACE_HEAD_INDEX ((fget s TB_TRACE_HEAD_INDEX + 1) % 2097152) s2
    (.inr ⟨rfl, Nat.mod_lt _ (by omega)⟩))
  generalize fset TB_TRACE_HEAD_INDEX ((fget s TB_TRACE_HEAD_INDEX + 1) % 2097152) s2 = s3 at h3 ⊢
  generalize hs4 : (if fget s TB_TRACE_HEAD_INDEX + 1 = 2097152 then _ else s3) = s4
  have h4 : Beside j p s s4 := by
    rw [← hs4]
    exact h3.trans (Beside.ite (beside_traceHead _ _ _ _ _ (.inl rfl)) (Beside.refl _ _ _))
  exact h4.trans (Beside.ite (beside_of j p s4 _ _ _ _ _ _ _ _ _ (List.suffix_refl _) (List.suffix_refl _))
    (Beside.refl _ _ _))

theorem beside_traceFree (j p : Bool) (typ part cls : Nat) (s : State) : Beside j p s (traceFree typ part cls s) :=
  (beside_traceRec _ _ _ _ _ _ _).trans (beside_freeUse _ _ _ _)

/-! ### Doorbells and events -/

theorem beside_statBump {j p : Bool} (o n : Nat) (s : State) (hm : (⟨o, 63, 0⟩ : Fld) ∈ bookFlds j p)
    (h1 : o ≠ TB_TRACE_HEAD) (h2 : o ≠ RAS_LOG_HEAD) : Beside j p s (statBump o n s) :=
  beside_regSet _ _ _ hm (ringsOk_regSet _ _ _ h1 h2)

theorem beside_edcSetPend (j p : Bool) (n : Nat) (b : Bool) (s : State) (h : n < 1024) :
    Beside j p s (edcSetBit EDC_PEND n b s) := by
  refine beside_regSet _ _ _ (mem_pend j p (n / 32) (by omega)) (ringsOk_regSet _ _ _ ?_ ?_)
  · simp [EDC_PEND, TB_TRACE_HEAD]; omega
  · simp [EDC_PEND, RAS_LOG_HEAD]; omega

theorem bellBad_lt {n : Nat} (h : bellBad n = false) : n < 1023 ∧ n ≠ 0 := by
  unfold bellBad at h
  simp at h
  omega

theorem beside_edcRing (j p : Bool) (fuel : Nat) (who : BellOwner) (wd : Bool) (n : Nat) (s : State) :
    Beside j p s (edcRing fuel who wd n s) := by
  induction fuel generalizing who wd n s with
  | zero => exact Beside.refl _ _ _
  | succ fuel ih =>
    have bump : ∀ o s', (⟨o, 63, 0⟩ : Fld) ∈ bookFlds false false → o ≠ TB_TRACE_HEAD → o ≠ RAS_LOG_HEAD →
        Beside j p s' (if statSaturates o 1 s' then edcRing fuel none false 3 (logEvent (.counterSat 3) 0 (statBump o 1 s'))
          else statBump o 1 s') := by
      intro o s' hm h1 h2
      have hb := beside_statBump o 1 s' (mem_bookFlds j p hm) h1 h2
      exact Beside.ite ((hb.trans (beside_logEvent _ _ _ _ _)).trans (ih _ _ _ _)) hb
    unfold edcRing
    refine Beside.ite (Beside.refl _ _ _) (Beside.ite ?_ ?_)
    · refine Beside.ite (Beside.refl _ _ _) ?_
      exact beside_of j p s _ _ _ _ _ _ _ _ _ (List.suffix_refl _) (List.suffix_refl _)
    · by_cases hbad : bellBad n = true
      · rw [if_pos hbad]
        exact beside_fset _ _ _ (mem_bookFlds j p (by simp [bookFlds])) (by decide)
          (ringsOk_fset _ _ _ (by decide) (by decide))
      · rw [if_neg hbad]
        have hn := bellBad_lt (by simpa using hbad)
        refine Beside.ite ?_ ?_
        · exact (beside_fset _ _ _ (mem_bookFlds j p (by simp [bookFlds])) (by decide)
            (ringsOk_fset _ _ _ (by decide) (by decide))).trans
            (bump _ _ (by simp [bookFlds]) (by decide) (by decide))
        · dsimp only
          refine Beside.trans (bump EDC_STAT_DOORBELLS s (by simp [bookFlds]) (by decide) (by decide))
            (Beside.ite (beside_edcSetPend _ _ _ _ _ (by omega)) ?_)
          refine Beside.trans (Beside.trans (Beside.trans (Beside.trans ?_ (beside_edcSetPend _ _ n true _ (by omega)))
            (beside_armBySource _ _ n _)) (beside_traceFree _ _ _ _ _ _)) (beside_edcUpdate _ _ _ _)
          exact Beside.ite (bump EDC_STAT_COALESCED _ (by simp [bookFlds]) (by decide) (by decide)) (Beside.refl _ _ _)

theorem beside_signal (j p : Bool) (n : Nat) (s : State) : Beside j p s (signal n s) := beside_edcRing _ _ _ _ _ _ _

/-- Raising an event. -/
theorem beside_raise (j p : Bool) (e : Ev) (u : Nat) (s : State) : Beside j p s (raise e u s) := by
  refine ((beside_logEvent _ _ e u s).trans ?_).trans (beside_signal _ _ _ _)
  exact beside_of j p _ _ _ _ _ _ _ _ _ _ (List.suffix_refl _) (List.suffix_refl _)

/-- An event that is raised is logged with its unit and stamp. -/
theorem raise_logs (e : Ev) (u : Nat) (s : State) : (⟨e, u, s.now⟩ : EvRec) ∈ (raise e u s).events :=
  (beside_signal false false _ _).2.2.1.subset List.mem_cons_self

/-- What `Beside` leaves as it is. -/
theorem Beside.now {j p : Bool} {s t : State} (h : Beside j p s t) : t.now = s.now := by rw [h.1]
theorem Beside.parts {j p : Bool} {s t : State} (h : Beside j p s t) : t.parts = s.parts := by rw [h.1]
theorem Beside.reqs {j p : Bool} {s t : State} (h : Beside j p s t) : t.reqs = s.reqs := by rw [h.1]
theorem Beside.pending {j p : Bool} {s t : State} (h : Beside j p s t) : t.pending = s.pending := by rw [h.1]
theorem Beside.fget {j p : Bool} {s t : State} (h : Beside j p s t) (f : Fld) (hl : f.lo ≤ f.hi) (hh : f.hi < 64)
    (ha : apart (bookFlds j p) f) : Machine.fget t f = Machine.fget s f := h.2.1 f hl hh ha

/-- A counter is raised; saturating, it signals its block. -/
theorem statAdd_beside (j p : Bool) (o n : Nat) (s : State) : Beside j p (statBump o n s) (statAdd o n s) :=
  Beside.ite ((beside_logEvent _ _ _ _ _).trans (beside_signal _ _ _ _)) (Beside.refl _ _ _)

theorem beside_statInc {j p : Bool} (o : Nat) (s : State) (hm : (⟨o, 63, 0⟩ : Fld) ∈ bookFlds j p)
    (h1 : o ≠ TB_TRACE_HEAD) (h2 : o ≠ RAS_LOG_HEAD) : Beside j p s (statInc o s) :=
  (beside_statBump o 1 s hm h1 h2).trans (statAdd_beside _ _ _ _ _)

/-! ### RAS log and journal -/

theorem mem_rasHead (j p : Bool) : (⟨RAS_LOG_HEAD, 63, 0⟩ : Fld) ∈ bookFlds j p :=
  mem_bookFlds j p (by simp [bookFlds])

/-- The head of the RAS log moves. -/
theorem beside_rasHead (j p : Bool) (g : Fld) (x : Nat) (s : State)
    (hg : g = RAS_LOG_HEAD_WRAPS ∨ (g = RAS_LOG_HEAD_INDEX ∧ x < 65536)) : Beside j p s (fset g x s) := by
  have hreg : g.reg = RAS_LOG_HEAD := by rcases hg with rfl | ⟨rfl, _⟩ <;> rfl
  unfold fset
  rw [hreg]
  refine beside_regSet _ _ _ (mem_rasHead j p) ?_
  intro ⟨a, b, c⟩
  refine ⟨?_, ?_, c⟩
  · rwa [fget_regSet_other _ _ _ (by decide)]
  · rcases hg with rfl | ⟨rfl, hx⟩
    · have := fget_fset_beside RAS_LOG_HEAD_INDEX RAS_LOG_HEAD_WRAPS x s (by decide) (by decide) (by decide)
      unfold fset at this
      simp only at this ⊢
      rw [this]; exact b
    · have := fget_fset_same RAS_LOG_HEAD_INDEX x s (by decide)
      unfold fset at this
      simp only at this ⊢
      rw [this, Nat.mod_eq_of_lt (by omega)]
      exact hx

/-- Writing a RAS record. -/
theorem beside_rasLog (j p : Bool) (i : RasInfo) (s : State) : Beside j p s (rasLog i s) := by
  unfold rasLog
  dsimp only
  have h1 : Beside j p s (fwWriteAt (fwRasOff + 32 * fget s RAS_LOG_HEAD_INDEX) (recBytes (rasWord s i)) s) :=
    beside_fwWriteAt _ _ _ _ _ (recBytes_length _) (fun h => by have := h.2.1; unfold fwRasOff; omega)
  generalize fwWriteAt _ (recBytes (rasWord s i)) s = s1 at h1 ⊢
  have h2 := h1.trans (beside_rasHead j p RAS_LOG_HEAD_INDEX ((fget s RAS_LOG_HEAD_INDEX + 1) % 65536) s1
    (.inr ⟨rfl, Nat.mod_lt _ (by omega)⟩))
  generalize fset RAS_LOG_HEAD_INDEX _ s1 = s2 at h2 ⊢
  have h3 := h2.trans (Beside.ite (c := fget s RAS_LOG_HEAD_INDEX + 1 = 65536)
    (beside_rasHead j p RAS_LOG_HEAD_WRAPS (fget s RAS_LOG_HEAD_WRAPS + 1) s2 (.inl rfl)) (Beside.refl _ _ _))
  generalize (if fget s RAS_LOG_HEAD_INDEX + 1 = 65536 then _ else s2) = s3 at h3 ⊢
  have h4 := h3.trans (Beside.ite (c := 0 < fget s RAS_LOG_HEAD_WRAPS)
    (beside_fset RAS_STATUS_LOG_WRAP 1 s3 (mem_bookFlds j p (by simp [bookFlds])) (by decide)
      (ringsOk_fset _ _ _ (by decide) (by decide))) (Beside.refl _ _ _))
  generalize (if 0 < fget s RAS_LOG_HEAD_WRAPS then _ else s3) = s4 at h4 ⊢
  have h5 := h4.trans (beside_statInc RAS_STAT_LOG s4 (mem_bookFlds j p (by simp [bookFlds])) (by decide) (by decide))
  generalize statInc RAS_STAT_LOG s4 = s5 at h5 ⊢
  have h6 := h5.trans (Beside.ite (c := i.charged = true) (Beside.refl _ _ _)
    (beside_statInc RAS_STAT_UNCHARGED s5 (mem_bookFlds j p (by simp [bookFlds])) (by decide) (by decide)))
  generalize (if i.charged = true then s5 else _) = s6 at h6 ⊢
  exact h6.trans (Beside.ite (beside_of j p s6 _ _ _ _ _ _ _ _ _ (List.suffix_refl _) (List.suffix_refl _))
    (Beside.refl _ _ _))

theorem beside_journalIn (p : Bool) (fmt typ key : Nat) (del : Bool) (at_ : Stamp) (data : List Nat) (s : State) :
    Beside true p s (journalIn fmt typ key del at_ data s) :=
  ⟨by cases p <;> rfl, fun _ _ _ _ => rfl, List.suffix_refl _, List.suffix_refl _, List.prefix_append _ _,
    fun h => ⟨h, fun _ _ => rfl⟩⟩

/-- Gathering a journal record. -/
theorem beside_journalAt (p : Bool) (at_ : Stamp) (typ key : Nat) (del : Bool) (data : List Nat) (s : State) :
    Beside true p s (journalAt at_ typ key del data s) := by
  unfold journalAt
  dsimp only
  have h := (beside_journalIn p s.fw.jfmt typ key del at_ data s).trans (beside_traceFree _ _ 0x13 0xFF 8 _)
  generalize traceFree 0x13 0xFF 8 _ = s1 at h ⊢
  split
  · exact h
  · refine h.trans (Beside.ite (beside_journalIn _ _ _ _ _ _ _ _) ?_)
    exact beside_fset _ _ _ (by unfold bookFlds; simp) (by decide) (ringsOk_fset _ _ _ (by decide) (by decide))

theorem beside_journal (p : Bool) (typ key : Nat) (del : Bool) (data : List Nat) (s : State) :
    Beside true p s (journal typ key del data s) := beside_journalAt _ _ _ _ _ _ _

theorem beside_journalReg (p : Bool) (o : Nat) (s : State) : Beside true p s (journalReg o s) := beside_journal _ _ _ _ _ _

theorem beside_journalCode (p : Bool) (c : Nat) (s : State) : Beside true p s (journalCode c s) := beside_journal _ _ _ _ _ _

/-- The record that a change gathers. -/
theorem journal_gathers (typ key : Nat) (del : Bool) (data : List Nat) (s : State) :
    (⟨typ, s.fw.jfmt, key, del, s.jSeq, s.now, data⟩ : JRec) ∈ (journal typ key del data s).jGathered := by
  have h : ∀ s1 : State, (⟨typ, s.fw.jfmt, key, del, s.jSeq, s.now, data⟩ : JRec) ∈ s1.jGathered →
      ∀ t, Beside true true s1 t → (⟨typ, s.fw.jfmt, key, del, s.jSeq, s.now, data⟩ : JRec) ∈ t.jGathered :=
    fun s1 hs t ht => ht.2.2.2.2.1.subset hs
  unfold journal journalAt
  dsimp only
  have h0 : (⟨typ, s.fw.jfmt, key, del, s.jSeq, s.now, data⟩ : JRec) ∈
      (journalIn s.fw.jfmt typ key del s.now data s).jGathered := by simp [journalIn]
  have h1 := h _ h0 _ (beside_traceFree true true 0x13 0xFF 8 _)
  generalize traceFree 0x13 0xFF 8 _ = s1 at h1 ⊢
  split
  · exact h1
  · split
    · exact h _ h1 _ (beside_journalIn _ _ _ _ _ _ _ _)
    · unfold fset
      rw [regSet_jGathered]
      exact h1

/-! ### Completion rings -/

theorem beside_hostq (j : Bool) (s : State) (hm : SMap Byte) (q : SMap Queue) :
    Beside j true s { s with hostMem := hm, queues := q } :=
  ⟨by cases j <;> simp, fun _ _ _ _ => rfl, List.suffix_refl _, List.suffix_refl _, List.prefix_refl _,
    fun h => ⟨h, fun _ _ => rfl⟩⟩

theorem beside_qUpd (j : Bool) (q : Nat) (f : Queue → Queue) (s : State) : Beside j true s (qUpd q f s) :=
  beside_hostq j s s.hostMem (qUpd q f s).queues

theorem beside_hostWrite (j : Bool) (a : Nat) (bs : List Byte) (s : State) : Beside j true s (hostWrite a bs s) :=
  beside_hostq j s (hostWrite a bs s).hostMem s.queues

theorem mem_cqTail (j : Bool) (q : Nat) (h : q < 1024) : CMD_PTRS_CQ_TAIL (qPart q) (qLocal q) ∈ bookFlds j true := by
  unfold bookFlds
  refine List.mem_append_right _ ?_
  rw [if_pos rfl]
  exact mem_tabulate (fun q => CMD_PTRS_CQ_TAIL (qPart q) (qLocal q)) 1024 0 q (Nat.zero_le _) (by omega)

theorem beside_cqWrite (j : Bool) (q : Nat) (e : CqEnt) (s : State) (h : q < 1024) : Beside j true s (cqWrite q e s) := by
  unfold cqWrite
  dsimp only
  have h1 := beside_hostWrite j (fget s (CMD_CQ_BASE_ADDR (qPart q) (qLocal q)) * 4096
    + 64 * fget s (CMD_PTRS_CQ_TAIL (qPart q) (qLocal q))) (cqBytes e (qGet s q).phase (qGet s q).lostNext) s
  generalize hostWrite _ _ s = s1 at h1 ⊢
  generalize (fget s (CMD_PTRS_CQ_TAIL (qPart q) (qLocal q)) + 1) % cqSize s1 q = t'
  have h2 : Beside j true s (fset (CMD_PTRS_CQ_TAIL (qPart q) (qLocal q)) t' s1) := by
    refine h1.trans (beside_fset _ _ _ (mem_cqTail j q h) (by simp) (ringsOk_fset _ _ _ ?_ ?_))
    · simp [CMD_PTRS, TB_TRACE_HEAD]; omega
    · simp [CMD_PTRS, RAS_LOG_HEAD]; omega
  generalize fset _ _ s1 = s2 at h2 ⊢
  have h3 := h2.trans (beside_qUpd j q
    (fun qu => { qu with phase := if t' = 0 then !qu.phase else qu.phase, lostNext := false }) s2)
  generalize qUpd q _ s2 = s3 at h3 ⊢
  exact h3.trans (Beside.ite (beside_sendMsix _ _ _ _ _) (Beside.refl _ _ _))

theorem beside_cqPost (j : Bool) (q : Nat) (a : Bool) (e : CqEnt) (s : State) (h : q < 1024) :
    Beside j true s (cqPost q a e s) :=
  Beside.ite (Beside.ite (beside_qUpd _ _ _ _) (beside_cqWrite _ _ _ _ h)) (Beside.refl _ _ _)

/-- Posting an event record to a partition. -/
theorem beside_postEvent (j : Bool) (p : Nat) (e : Ev) (idx payload : Nat) (s : State) (h : p < 8) :
    Beside j true s (postEvent p e idx payload s) := beside_cqPost _ _ _ _ _ (by omega)

theorem beside_postEventAll (j : Bool) (e : Ev) (payload : Nat) (s : State) :
    Beside j true s (postEventAll e payload s) := by
  refine beside_foldl _ _ (fun c hc s' => ?_) s
  have := mem_tabulate_iff _ _ _ hc
  exact Beside.ite (Beside.refl _ _ _) (beside_postEvent _ _ _ _ _ _ (by omega))

/-- Completing a command. -/
theorem beside_complete (j : Bool) (c : QCmd) (st v : Nat) (s : State) : Beside j true s (complete c st v s) :=
  Beside.ite (beside_cqPost _ _ _ _ _ c.queue.isLt) (beside_qUpd _ _ _ _)

/-- A change of module state. -/
theorem setMode_beside (p : Bool) (m : Nat) (s : State) :
    let s' := dutySync (fset GEN_STATE_MODE m (fset GEN_STATE_PREV (mode s) s))
    Beside true p { s' with therm := { s'.therm with measure := s'.therm.measure || m == MODE_READY } } (setMode m s) :=
  ((beside_journal _ _ _ _ _ _).trans (beside_traceFree _ _ _ _ _ _)).trans (beside_raise _ _ _ _ _)

end Sys2Proof.Machine
end

