-- ==== Sys2Proof/Laws/Dispatch.lean ====
section
/-!
SUPPORT. What exec runs for each command: one equation per constructor of Instr, true by rfl.
-/
namespace Sys2Proof.Machine

@[simp] theorem exec_seqNop (p : Fin 8) (w : SeqW) (st' : State) :
    exec (.seqNop p w) st' = execSeqNop p w st' := rfl
@[simp] theorem exec_seqLi (p : Fin 8) (w : SeqW) (st' : State) :
    exec (.seqLi p w) st' = execSeqLi p w st' := rfl
@[simp] theorem exec_seqAdd (p : Fin 8) (w : SeqW) (st' : State) :
    exec (.seqAdd p w) st' = execSeqAdd p w st' := rfl
@[simp] theorem exec_seqAddi (p : Fin 8) (w : SeqW) (st' : State) :
    exec (.seqAddi p w) st' = execSeqAddi p w st' := rfl
@[simp] theorem exec_seqSub (p : Fin 8) (w : SeqW) (st' : State) :
    exec (.seqSub p w) st' = execSeqSub p w st' := rfl
@[simp] theorem exec_seqMul (p : Fin 8) (w : SeqW) (st' : State) :
    exec (.seqMul p w) st' = execSeqMul p w st' := rfl
@[simp] theorem exec_seqAnd (p : Fin 8) (w : SeqW) (st' : State) :
    exec (.seqAnd p w) st' = execSeqAnd p w st' := rfl
@[simp] theorem exec_seqOr (p : Fin 8) (w : SeqW) (st' : State) :
    exec (.seqOr p w) st' = execSeqOr p w st' := rfl
@[simp] theorem exec_seqXor (p : Fin 8) (w : SeqW) (st' : State) :
    exec (.seqXor p w) st' = execSeqXor p w st' := rfl
@[simp] theorem exec_seqShl (p : Fin 8) (w : SeqW) (st' : State) :
    exec (.seqShl p w) st' = execSeqShl p w st' := rfl
@[simp] theorem exec_seqShr (p : Fin 8) (w : SeqW) (st' : State) :
    exec (.seqShr p w) st' = execSeqShr p w st' := rfl
@[simp] theorem exec_seqSra (p : Fin 8) (w : SeqW) (st' : State) :
    exec (.seqSra p w) st' = execSeqSra p w st' := rfl
@[simp] theorem exec_seqCmp (p : Fin 8) (w : SeqW) (st' : State) :
    exec (.seqCmp p w) st' = execSeqCmp p w st' := rfl
@[simp] theorem exec_seqCmpi (p : Fin 8) (w : SeqW) (st' : State) :
    exec (.seqCmpi p w) st' = execSeqCmpi p w st' := rfl
@[simp] theorem exec_seqPset (p : Fin 8) (w : SeqW) (st' : State) :
    exec (.seqPset p w) st' = execSeqPset p w st' := rfl
@[simp] theorem exec_seqDld (p : Fin 8) (w : SeqW) (st' : State) :
    exec (.seqDld p w) st' = execSeqDld p w st' := rfl
@[simp] theorem exec_seqDmov (p : Fin 8) (w : SeqW) (st' : State) :
    exec (.seqDmov p w) st' = execSeqDmov p w st' := rfl
@[simp] theorem exec_seqDset (p : Fin 8) (w : SeqW) (st' : State) :
    exec (.seqDset p w) st' = execSeqDset p w st' := rfl
@[simp] theorem exec_seqDget (p : Fin 8) (w : SeqW) (st' : State) :
    exec (.seqDget p w) st' = execSeqDget p w st' := rfl
@[simp] theorem exec_seqBr (p : Fin 8) (w : SeqW) (st' : State) :
    exec (.seqBr p w) st' = execSeqBr p w st' := rfl
@[simp] theorem exec_seqLoop (p : Fin 8) (w : SeqW) (st' : State) :
    exec (.seqLoop p w) st' = execSeqLoop p w st' := rfl
@[simp] theorem exec_seqEndloop (p : Fin 8) (w : SeqW) (st' : State) :
    exec (.seqEndloop p w) st' = execSeqEndloop p w st' := rfl
@[simp] theorem exec_seqStep (p : Fin 8) (w : SeqW) (st' : State) :
    exec (.seqStep p w) st' = execSeqStep p w st' := rfl
@[simp] theorem exec_seqWait (p : Fin 8) (w : SeqW) (st' : State) :
    exec (.seqWait p w) st' = execSeqWait p w st' := rfl
@[simp] theorem exec_seqHalt (p : Fin 8) (w : SeqW) (st' : State) :
    exec (.seqHalt p w) st' = execSeqHalt p w st' := rfl
@[simp] theorem exec_seqSys (p : Fin 8) (w : SeqW) (st' : State) :
    exec (.seqSys p w) st' = execSeqSys p w st' := rfl
@[simp] theorem exec_inLoad (p : Fin 8) (w : LoadW) (st' : State) :
    exec (.inLoad p w) st' = execInLoad p w st' := rfl
@[simp] theorem exec_inWin (p : Fin 8) (w : LoadW) (st' : State) :
    exec (.inWin p w) st' = execInWin p w st' := rfl
@[simp] theorem exec_inGather (p : Fin 8) (w : StaW) (st' : State) :
    exec (.inGather p w) st' = execInGather p w st' := rfl
@[simp] theorem exec_mxMm (p : Fin 8) (w : StaW) (st' : State) :
    exec (.mxMm p w) st' = execMxMm p w st' := rfl
@[simp] theorem exec_mxScore (p : Fin 8) (w : StaW) (st' : State) :
    exec (.mxScore p w) st' = execMxScore p w st' := rfl
@[simp] theorem exec_mxMix (p : Fin 8) (w : StaW) (st' : State) :
    exec (.mxMix p w) st' = execMxMix p w st' := rfl
@[simp] theorem exec_vxEw1 (p : Fin 8) (w : StaW) (st' : State) :
    exec (.vxEw1 p w) st' = execVxEw1 p w st' := rfl
@[simp] theorem exec_vxEw2 (p : Fin 8) (w : StaW) (st' : State) :
    exec (.vxEw2 p w) st' = execVxEw2 p w st' := rfl
@[simp] theorem exec_vxAct (p : Fin 8) (w : StaW) (st' : State) :
    exec (.vxAct p w) st' = execVxAct p w st' := rfl
@[simp] theorem exec_vxRmsnorm (p : Fin 8) (w : StaW) (st' : State) :
    exec (.vxRmsnorm p w) st' = execVxRmsnorm p w st' := rfl
@[simp] theorem exec_vxLnorm (p : Fin 8) (w : StaW) (st' : State) :
    exec (.vxLnorm p w) st' = execVxLnorm p w st' := rfl
@[simp] theorem exec_vxSmax (p : Fin 8) (w : StaW) (st' : State) :
    exec (.vxSmax p w) st' = execVxSmax p w st' := rfl
@[simp] theorem exec_vxMerge (p : Fin 8) (w : StaW) (st' : State) :
    exec (.vxMerge p w) st' = execVxMerge p w st' := rfl
@[simp] theorem exec_vxRope (p : Fin 8) (w : StaW) (st' : State) :
    exec (.vxRope p w) st' = execVxRope p w st' := rfl
@[simp] theorem exec_vxSilumul (p : Fin 8) (w : StaW) (st' : State) :
    exec (.vxSilumul p w) st' = execVxSilumul p w st' := rfl
@[simp] theorem exec_vxReduce (p : Fin 8) (w : StaW) (st' : State) :
    exec (.vxReduce p w) st' = execVxReduce p w st' := rfl
@[simp] theorem exec_vxPool (p : Fin 8) (w : StaW) (st' : State) :
    exec (.vxPool p w) st' = execVxPool p w st' := rfl
@[simp] theorem exec_kvGather (p : Fin 8) (w : LoadW) (st' : State) :
    exec (.kvGather p w) st' = execKvGather p w st' := rfl
@[simp] theorem exec_kvAccept (p : Fin 8) (w : StaW) (st' : State) :
    exec (.kvAccept p w) st' = execKvAccept p w st' := rfl
@[simp] theorem exec_outStore (p : Fin 8) (w : StaW) (st' : State) :
    exec (.outStore p w) st' = execOutStore p w st' := rfl
@[simp] theorem exec_outAppend (p : Fin 8) (w : StaW) (st' : State) :
    exec (.outAppend p w) st' = execOutAppend p w st' := rfl
@[simp] theorem exec_outCommit (p : Fin 8) (w : StaW) (st' : State) :
    exec (.outCommit p w) st' = execOutCommit p w st' := rfl
@[simp] theorem exec_checksumItemCompare (dt : Nat) (p : Fin 8) (item : CheckItem) (st' : State) :
    exec (.checksumItemCompare dt p item) st' = execChecksumItemCompare dt p item st' := rfl
@[simp] theorem exec_healthWindowExpiry (dt : Nat) (isCore : Bool) (unit : BitVec 8) (st' : State) :
    exec (.healthWindowExpiry dt isCore unit) st' = execHealthWindowExpiry dt isCore unit st' := rfl
@[simp] theorem exec_streamDeadlock (dt : Nat) (p : Fin 8) (st' : State) :
    exec (.streamDeadlock dt p) st' = execStreamDeadlock dt p st' := rfl
@[simp] theorem exec_evEstExceeded (dt : Nat) (p : Fin 8) (st' : State) :
    exec (.evEstExceeded dt p) st' = execEvEstExceeded dt p st' := rfl
@[simp] theorem exec_commit (dt : Nat) (p : Fin 8) (st' : State) :
    exec (.commit dt p) st' = execCommit dt p st' := rfl
@[simp] theorem exec_publishWindowEnd (dt : Nat) (p : Fin 8) (st' : State) :
    exec (.publishWindowEnd dt p) st' = execPublishWindowEnd dt p st' := rfl
@[simp] theorem exec_tickBoundary (dt : Nat) (st' : State) :
    exec (.tickBoundary dt) st' = execTickBoundary dt st' := rfl
@[simp] theorem exec_reqAdmit (q : QCmd) (w0 : BitVec 64) (w1 : BitVec 64) (deadline : BitVec 64) (w5 : BitVec 64) (st' : State) :
    exec (.reqAdmit q w0 w1 deadline w5) st' = execReqAdmit q w0 w1 deadline w5 st' := rfl
@[simp] theorem exec_reqCancel (q : QCmd) (idx : BitVec 16) (st' : State) :
    exec (.reqCancel q idx) st' = execReqCancel q idx st' := rfl
@[simp] theorem exec_reqFinish (q : QCmd) (idx : BitVec 16) (st' : State) :
    exec (.reqFinish q idx) st' = execReqFinish q idx st' := rfl
@[simp] theorem exec_reqPause (q : QCmd) (idx : BitVec 16) (st' : State) :
    exec (.reqPause q idx) st' = execReqPause q idx st' := rfl
@[simp] theorem exec_reqResume (q : QCmd) (idx : BitVec 16) (st' : State) :
    exec (.reqResume q idx) st' = execReqResume q idx st' := rfl
@[simp] theorem exec_reqSet (q : QCmd) (idx : BitVec 16) (hole : BitVec 48) (w0 : BitVec 64) (deadline : BitVec 64) (w5 : BitVec 64) (mask : BitVec 64) (st' : State) :
    exec (.reqSet q idx hole w0 deadline w5 mask) st' = execReqSet q idx hole w0 deadline w5 mask st' := rfl
@[simp] theorem exec_reqRetire (q : QCmd) (idx : BitVec 16) (st' : State) :
    exec (.reqRetire q idx) st' = execReqRetire q idx st' := rfl
@[simp] theorem exec_reqQuery (q : QCmd) (idx : BitVec 16) (addr : BitVec 64) (dma : Dma) (st' : State) :
    exec (.reqQuery q idx addr dma) st' = execReqQuery q idx addr dma st' := rfl
@[simp] theorem exec_loadImage (q : QCmd) (addr : BitVec 64) (len : BitVec 64) (dma : Dma) (st' : State) :
    exec (.loadImage q addr len dma) st' = execLoadImage q addr len dma st' := rfl
@[simp] theorem exec_programResume (q : QCmd) (st' : State) :
    exec (.programResume q) st' = execProgramResume q st' := rfl
@[simp] theorem exec_programHalt (q : QCmd) (st' : State) :
    exec (.programHalt q) st' = execProgramHalt q st' := rfl
@[simp] theorem exec_tensorRegister (q : QCmd) (r : RegisterOps) (st' : State) :
    exec (.tensorRegister q r) st' = execTensorRegister q r st' := rfl
@[simp] theorem exec_tensorRelease (q : QCmd) (h : BitVec 32) (st' : State) :
    exec (.tensorRelease q h) st' = execTensorRelease q h st' := rfl
@[simp] theorem exec_tensorWrite (q : QCmd) (h : BitVec 32) (pad : BitVec 32) (off : BitVec 64) (addr : BitVec 64) (len : BitVec 64) (dma : Dma) (st' : State) :
    exec (.tensorWrite q h pad off addr len dma) st' = execTensorWrite q h pad off addr len dma st' := rfl
@[simp] theorem exec_tensorRead (q : QCmd) (h : BitVec 32) (pad : BitVec 32) (off : BitVec 64) (addr : BitVec 64) (len : BitVec 64) (dma : Dma) (st' : State) :
    exec (.tensorRead q h pad off addr len dma) st' = execTensorRead q h pad off addr len dma st' := rfl
@[simp] theorem exec_tensorExport (q : QCmd) (h : BitVec 32) (ro : BitVec 8) (st' : State) :
    exec (.tensorExport q h ro) st' = execTensorExport q h ro st' := rfl
@[simp] theorem exec_qpCreate (q : QCmd) (port : BitVec 8) (st' : State) :
    exec (.qpCreate q port) st' = execQpCreate q port st' := rfl
@[simp] theorem exec_qpModify (q : QCmd) (m : QpModifyOps) (st' : State) :
    exec (.qpModify q m) st' = execQpModify q m st' := rfl
@[simp] theorem exec_qpDestroy (q : QCmd) (qp : BitVec 16) (st' : State) :
    exec (.qpDestroy q qp) st' = execQpDestroy q qp st' := rfl
@[simp] theorem exec_mrReg (q : QCmd) (h : BitVec 32) (acc : BitVec 8) (st' : State) :
    exec (.mrReg q h acc) st' = execMrReg q h acc st' := rfl
@[simp] theorem exec_mrDereg (q : QCmd) (rkey : BitVec 32) (st' : State) :
    exec (.mrDereg q rkey) st' = execMrDereg q rkey st' := rfl
@[simp] theorem exec_postSend (q : QCmd) (s : PostSendOps) (st' : State) :
    exec (.postSend q s) st' = execPostSend q s st' := rfl
@[simp] theorem exec_postRecv (q : QCmd) (qp : BitVec 16) (pad : BitVec 16) (h : BitVec 32) (off : BitVec 64) (len : BitVec 64) (st' : State) :
    exec (.postRecv q qp pad h off len) st' = execPostRecv q qp pad h off len st' := rfl
@[simp] theorem exec_vccSubmit (q : QCmd) (slot : BitVec 16) (pad : BitVec 16) (h : BitVec 32) (stamp : BitVec 64) (st' : State) :
    exec (.vccSubmit q slot pad h stamp) st' = execVccSubmit q slot pad h stamp st' := rfl
@[simp] theorem exec_vccReleaseFrame (q : QCmd) (slot : BitVec 16) (pad : BitVec 16) (h : BitVec 32) (st' : State) :
    exec (.vccReleaseFrame q slot pad h) st' = execVccReleaseFrame q slot pad h st' := rfl
@[simp] theorem exec_vccLatest (q : QCmd) (slot : BitVec 16) (st' : State) :
    exec (.vccLatest q slot) st' = execVccLatest q slot st' := rfl
@[simp] theorem exec_armCmd (q : QCmd) (credits : BitVec 32) (st' : State) :
    exec (.armCmd q credits) st' = execArmCmd q credits st' := rfl
@[simp] theorem exec_secQuote (q : QCmd) (nonce : BitVec 256) (addr : BitVec 64) (len : BitVec 64) (part : BitVec 8) (dma : Dma) (st' : State) :
    exec (.secQuote q nonce addr len part dma) st' = execSecQuote q nonce addr len part dma st' := rfl
@[simp] theorem exec_secCert (q : QCmd) (addr : BitVec 64) (len : BitVec 64) (dma : Dma) (st' : State) :
    exec (.secCert q addr len dma) st' = execSecCert q addr len dma st' := rfl
@[simp] theorem exec_keyImport (q : QCmd) (slot : BitVec 8) (pad : BitVec 56) (addr : BitVec 64) (dma : Dma) (st' : State) :
    exec (.keyImport q slot pad addr dma) st' = execKeyImport q slot pad addr dma st' := rfl
@[simp] theorem exec_keyDelete (q : QCmd) (slot : BitVec 8) (st' : State) :
    exec (.keyDelete q slot) st' = execKeyDelete q slot st' := rfl
@[simp] theorem exec_fwWrite (q : QCmd) (off : BitVec 64) (addr : BitVec 64) (len : BitVec 64) (dma : Dma) (st' : State) :
    exec (.fwWrite q off addr len dma) st' = execFwWrite q off addr len dma st' := rfl
@[simp] theorem exec_logAppend (q : QCmd) (kind : BitVec 8) (pad : BitVec 40) (idx : BitVec 16) (addr : BitVec 64) (len : BitVec 64) (dma : Dma) (st' : State) :
    exec (.logAppend q kind pad idx addr len dma) st' = execLogAppend q kind pad idx addr len dma st' := rfl
@[simp] theorem exec_logReadCmd (q : QCmd) (origin : BitVec 64) (lsn : BitVec 64) (addr : BitVec 64) (len : BitVec 64) (dma : Dma) (st' : State) :
    exec (.logReadCmd q origin lsn addr len dma) st' = execLogReadCmd q origin lsn addr len dma st' := rfl
@[simp] theorem exec_logFetch (q : QCmd) (origin : BitVec 64) (lsn : BitVec 64) (peer : BitVec 8) (answer : List LogRec) (st' : State) :
    exec (.logFetch q origin lsn peer answer) st' = execLogFetch q origin lsn peer answer st' := rfl
@[simp] theorem exec_mgrKey (q : QCmd) (mgr : BitVec 8) (pad : BitVec 56) (addr : BitVec 64) (dma : Dma) (st' : State) :
    exec (.mgrKey q mgr pad addr dma) st' = execMgrKey q mgr pad addr dma st' := rfl
@[simp] theorem exec_sqTail (q : Bell) (v : TailWrite) (st' : State) :
    exec (.sqTail q v) st' = execSqTail q v st' := rfl
@[simp] theorem exec_cqHead (q : Bell) (v : BitVec 32) (st' : State) :
    exec (.cqHead q v) st' = execCqHead q v st' := rfl
@[simp] theorem exec_cmdCfg (f : Func) (q : BitVec 10) (v : BitVec 32) (st' : State) :
    exec (.cmdCfg f q v) st' = execCmdCfg f q v st' := rfl
@[simp] theorem exec_asyncRecordDiscard (dt : Nat) (q : BitVec 10) (st' : State) :
    exec (.asyncRecordDiscard dt q) st' = execAsyncRecordDiscard dt q st' := rfl
@[simp] theorem exec_edcDoorbell (wr : Agent) (v : BitVec 32) (st' : State) :
    exec (.edcDoorbell wr v) st' = execEdcDoorbell wr v st' := rfl
@[simp] theorem exec_edcCtxClaim (c : Fin 28) (st' : State) :
    exec (.edcCtxClaim c) st' = execEdcCtxClaim c st' := rfl
@[simp] theorem exec_edcCtxComplete (c : Fin 28) (v : BitVec 32) (st' : State) :
    exec (.edcCtxComplete c v) st' = execEdcCtxComplete c v st' := rfl
@[simp] theorem exec_edcLock (a : Agent) (wr : Option (BitVec 32)) (st' : State) :
    exec (.edcLock a wr) st' = execEdcLock a wr st' := rfl
@[simp] theorem exec_evEdcLockBreak (dt : Nat) (st' : State) :
    exec (.evEdcLockBreak dt) st' = execEvEdcLockBreak dt st' := rfl
@[simp] theorem exec_auxStart (dt : Nat) (straps : BitVec 5) (st' : State) :
    exec (.auxStart dt straps) st' = execAuxStart dt straps st' := rfl
@[simp] theorem exec_auxStop (dt : Nat) (st' : State) :
    exec (.auxStop dt) st' = execAuxStop dt st' := rfl
@[simp] theorem exec_pwrEn (dt : Nat) (level : Bool) (stood : Nat) (st' : State) :
    exec (.pwrEn dt level stood) st' = execPwrEn dt level stood st' := rfl
@[simp] theorem exec_trayPresent (dt : Nat) (level : Bool) (stood : Nat) (st' : State) :
    exec (.trayPresent dt level stood) st' = execTrayPresent dt level stood st' := rfl
@[simp] theorem exec_railFault (dt : Nat) (lasted : Nat) (st' : State) :
    exec (.railFault dt lasted) st' = execRailFault dt lasted st' := rfl
@[simp] theorem exec_mainPowerUp (dt : Nat) (st' : State) :
    exec (.mainPowerUp dt) st' = execMainPowerUp dt st' := rfl
@[simp] theorem exec_bootFlowTimeout (dt : Nat) (st' : State) :
    exec (.bootFlowTimeout dt) st' = execBootFlowTimeout dt st' := rfl
@[simp] theorem exec_bootSelfTest (dt : Nat) (r : SelfTestResult) (st' : State) :
    exec (.bootSelfTest dt r) st' = execBootSelfTest dt r st' := rfl
@[simp] theorem exec_hostLinkUp (dt : Nat) (gen : BitVec 3) (width : LinkSet) (st' : State) :
    exec (.hostLinkUp dt gen width) st' = execHostLinkUp dt gen width st' := rfl
@[simp] theorem exec_dramTraining (dt : Nat) (r : List TrainResult) (st' : State) :
    exec (.dramTraining dt r) st' = execDramTraining dt r st' := rfl
@[simp] theorem exec_journalReplay (dt : Nat) (st' : State) :
    exec (.journalReplay dt) st' = execJournalReplay dt st' := rfl
@[simp] theorem exec_flaskReload (dt : Nat) (st' : State) :
    exec (.flaskReload dt) st' = execFlaskReload dt st' := rfl
@[simp] theorem exec_bootComplete (dt : Nat) (st' : State) :
    exec (.bootComplete dt) st' = execBootComplete dt st' := rfl
@[simp] theorem exec_perst (dt : Nat) (st' : State) :
    exec (.perst dt) st' = execPerst dt st' := rfl
@[simp] theorem exec_pfFlr (st' : State) :
    exec (.pfFlr) st' = execPfFlr st' := rfl
@[simp] theorem exec_vfFlr (n : Fin 8) (st' : State) :
    exec (.vfFlr n) st' = execVfFlr n st' := rfl
@[simp] theorem exec_pcieTlpViolation (v : TlpViolation) (st' : State) :
    exec (.pcieTlpViolation v) st' = execPcieTlpViolation v st' := rfl
@[simp] theorem exec_bar2Access (f : Func) (off : BitVec 64) (acc : OutAcc) (st' : State) :
    exec (.bar2Access f off acc) st' = execBar2Access f off acc st' := rfl
@[simp] theorem exec_completionTimeout (dt : Nat) (q : BitVec 10) (ring : Bool) (st' : State) :
    exec (.completionTimeout dt q ring) st' = execCompletionTimeout dt q ring st' := rfl
@[simp] theorem exec_referenceLoss (dt : Nat) (r : ClkRef) (st' : State) :
    exec (.referenceLoss dt r) st' = execReferenceLoss dt r st' := rfl
@[simp] theorem exec_pllRelock (dt : Nat) (r : ClkRef) (sound : Nat) (st' : State) :
    exec (.pllRelock dt r sound) st' = execPllRelock dt r sound st' := rfl
@[simp] theorem exec_powerGovernor (dt : Nat) (m : PowerMeas) (st' : State) :
    exec (.powerGovernor dt m) st' = execPowerGovernor dt m st' := rfl
@[simp] theorem exec_hotspotSensorSample (dt : Nat) (r : List (BitVec 16 × BitVec 16)) (st' : State) :
    exec (.hotspotSensorSample dt r) st' = execHotspotSensorSample dt r st' := rfl
@[simp] theorem exec_rulingTemperature (dt : Nat) (st' : State) :
    exec (.rulingTemperature dt) st' = execRulingTemperature dt st' := rfl
@[simp] theorem exec_sensorDisagreeTimeout (dt : Nat) (h : Fin 32) (st' : State) :
    exec (.sensorDisagreeTimeout dt h) st' = execSensorDisagreeTimeout dt h st' := rfl
@[simp] theorem exec_disWindowRestart (dt : Nat) (st' : State) :
    exec (.disWindowRestart dt) st' = execDisWindowRestart dt st' := rfl
@[simp] theorem exec_thermalForecast (dt : Nat) (est : List (BitVec 16 × BitVec 16)) (st' : State) :
    exec (.thermalForecast dt est) st' = execThermalForecast dt est st' := rfl
@[simp] theorem exec_thetaUpdate (dt : Nat) (st' : State) :
    exec (.thetaUpdate dt) st' = execThetaUpdate dt st' := rfl
@[simp] theorem exec_lanternDiodeCheck (dt : Nat) (st' : State) :
    exec (.lanternDiodeCheck dt) st' = execLanternDiodeCheck dt st' := rfl
@[simp] theorem exec_flowLost (dt : Nat) (st' : State) :
    exec (.flowLost dt) st' = execFlowLost dt st' := rfl
@[simp] theorem exec_flowRestored (dt : Nat) (st' : State) :
    exec (.flowRestored dt) st' = execFlowRestored dt st' := rfl
@[simp] theorem exec_flowLossSafe (dt : Nat) (st' : State) :
    exec (.flowLossSafe dt) st' = execFlowLossSafe dt st' := rfl
@[simp] theorem exec_thermalCycleSample (dt : Nat) (st' : State) :
    exec (.thermalCycleSample dt) st' = execThermalCycleSample dt st' := rfl
@[simp] theorem exec_thermalCycleJournal (dt : Nat) (st' : State) :
    exec (.thermalCycleJournal dt) st' = execThermalCycleJournal dt st' := rfl
@[simp] theorem exec_stackTempRead (dt : Nat) (temps : List (BitVec 8)) (st' : State) :
    exec (.stackTempRead dt temps) st' = execStackTempRead dt temps st' := rfl
@[simp] theorem exec_stackOvertempTrip (dt : Nat) (s : Fin 6) (st' : State) :
    exec (.stackOvertempTrip dt s) st' = execStackOvertempTrip dt s st' := rfl
@[simp] theorem exec_sramScrub (dt : Nat) (errs : List SramErr) (st' : State) :
    exec (.sramScrub dt errs) st' = execSramScrub dt errs st' := rfl
@[simp] theorem exec_retrainDue (dt : Nat) (s : Fin 6) (st' : State) :
    exec (.retrainDue dt s) st' = execRetrainDue dt s st' := rfl
@[simp] theorem exec_retrainSlackStart (dt : Nat) (st' : State) :
    exec (.retrainSlackStart dt) st' = execRetrainSlackStart dt st' := rfl
@[simp] theorem exec_retrainComplete (dt : Nat) (o : TrainResult) (st' : State) :
    exec (.retrainComplete dt o) st' = execRetrainComplete dt o st' := rfl
@[simp] theorem exec_ppsEdge (dt : Nat) (st' : State) :
    exec (.ppsEdge dt) st' = execPpsEdge dt st' := rfl
@[simp] theorem exec_ptpMessage (dt : Nat) (port : Fin 4) (m : PtpMsg) (st' : State) :
    exec (.ptpMessage dt port m) st' = execPtpMessage dt port m st' := rfl
@[simp] theorem exec_tbHoldover (dt : Nat) (st' : State) :
    exec (.tbHoldover dt) st' = execTbHoldover dt st' := rfl
@[simp] theorem exec_rtpPacket (dt : Nat) (port : Fin 4) (pkt : RtpPkt) (st' : State) :
    exec (.rtpPacket dt port pkt) st' = execRtpPacket dt port pkt st' := rfl
@[simp] theorem exec_rtcpSenderReport (dt : Nat) (slot : Fin 64) (ssrc : BitVec 32) (ntp : BitVec 64) (rtp : BitVec 32) (st' : State) :
    exec (.rtcpSenderReport dt slot ssrc ntp rtp) st' = execRtcpSenderReport dt slot ssrc ntp rtp st' := rfl
@[simp] theorem exec_frameCompleteTimeout (dt : Nat) (slot : Fin 64) (st' : State) :
    exec (.frameCompleteTimeout dt slot) st' = execFrameCompleteTimeout dt slot st' := rfl
@[simp] theorem exec_frameCommit (dt : Nat) (slot : Fin 64) (d : Decoded) (st' : State) :
    exec (.frameCommit dt slot d) st' = execFrameCommit dt slot d st' := rfl
@[simp] theorem exec_sensorGroupCommit (dt : Nat) (slot : Fin 64) (st' : State) :
    exec (.sensorGroupCommit dt slot) st' = execSensorGroupCommit dt slot st' := rfl
@[simp] theorem exec_sliceEmit (dt : Nat) (slot : Fin 64) (sl : SliceOut) (st' : State) :
    exec (.sliceEmit dt slot sl) st' = execSliceEmit dt slot sl st' := rfl
@[simp] theorem exec_vccSlotSubmit (slot : Fin 64) (h : BitVec 32) (st' : State) :
    exec (.vccSlotSubmit slot h) st' = execVccSlotSubmit slot h st' := rfl
@[simp] theorem exec_vccSlotRelease (slot : Fin 64) (h : BitVec 32) (st' : State) :
    exec (.vccSlotRelease slot h) st' = execVccSlotRelease slot h st' := rfl
@[simp] theorem exec_slotEnable (slot : Fin 64) (v : BitVec 64) (st' : State) :
    exec (.slotEnable slot v) st' = execSlotEnable slot v st' := rfl
@[simp] theorem exec_slotDisable (slot : Fin 64) (v : BitVec 64) (st' : State) :
    exec (.slotDisable slot v) st' = execSlotDisable slot v st' := rfl
@[simp] theorem exec_rocePacket (dt : Nat) (port : Fin 4) (pkt : RocePkt) (st' : State) :
    exec (.rocePacket dt port pkt) st' = execRocePacket dt port pkt st' := rfl
@[simp] theorem exec_roceRetransmitTimeout (dt : Nat) (qp : BitVec 10) (st' : State) :
    exec (.roceRetransmitTimeout dt qp) st' = execRoceRetransmitTimeout dt qp st' := rfl
@[simp] theorem exec_cnpRateRecovery (dt : Nat) (qp : BitVec 10) (st' : State) :
    exec (.cnpRateRecovery dt qp) st' = execCnpRateRecovery dt qp st' := rfl
@[simp] theorem exec_ethFrameReceive (dt : Nat) (port : Fin 4) (f : EthFrame) (st' : State) :
    exec (.ethFrameReceive dt port f) st' = execEthFrameReceive dt port f st' := rfl
@[simp] theorem exec_evPortLink (dt : Nat) (port : Fin 4) (up : Bool) (mode : BitVec 2) (st' : State) :
    exec (.evPortLink dt port up mode) st' = execEvPortLink dt port up mode st' := rfl
@[simp] theorem exec_dutyGrant (dt : Nat) (level : Bool) (stood : Nat) (st' : State) :
    exec (.dutyGrant dt level stood) st' = execDutyGrant dt level stood st' := rfl
@[simp] theorem exec_dutyIn (dt : Nat) (level : Bool) (stood : Nat) (st' : State) :
    exec (.dutyIn dt level stood) st' = execDutyIn dt level stood st' := rfl
@[simp] theorem exec_slotIdChange (straps : BitVec 5) (st' : State) :
    exec (.slotIdChange straps) st' = execSlotIdChange straps st' := rfl
@[simp] theorem exec_smbAlertResponse (st' : State) :
    exec (.smbAlertResponse) st' = execSmbAlertResponse st' := rfl
@[simp] theorem exec_smbusRead (off : BitVec 32) (st' : State) :
    exec (.smbusRead off) st' = execSmbusRead off st' := rfl
@[simp] theorem exec_smbusWrite (off : BitVec 32) (v : BitVec 64) (st' : State) :
    exec (.smbusWrite off v) st' = execSmbusWrite off v st' := rfl
@[simp] theorem exec_smbusRecoveryStart (len : BitVec 32) (st' : State) :
    exec (.smbusRecoveryStart len) st' = execSmbusRecoveryStart len st' := rfl
@[simp] theorem exec_smbusRecoveryData (off : BitVec 32) (bytes : List Byte) (st' : State) :
    exec (.smbusRecoveryData off bytes) st' = execSmbusRecoveryData off bytes st' := rfl
@[simp] theorem exec_smbusRecoveryFinish (st' : State) :
    exec (.smbusRecoveryFinish) st' = execSmbusRecoveryFinish st' := rfl
@[simp] theorem exec_smbusRecoveryStatus (st' : State) :
    exec (.smbusRecoveryStatus) st' = execSmbusRecoveryStatus st' := rfl
@[simp] theorem exec_fwRcvStart (v : BitVec 64) (st' : State) :
    exec (.fwRcvStart v) st' = execFwRcvStart v st' := rfl
@[simp] theorem exec_fwRcvFinish (v : BitVec 64) (st' : State) :
    exec (.fwRcvFinish v) st' = execFwRcvFinish v st' := rfl
@[simp] theorem exec_fwVerify (st' : State) :
    exec (.fwVerify) st' = execFwVerify st' := rfl
@[simp] theorem exec_fwActivate (st' : State) :
    exec (.fwActivate) st' = execFwActivate st' := rfl
@[simp] theorem exec_mirrorComplete (dt : Nat) (st : Steward) (st' : State) :
    exec (.mirrorComplete dt st) st' = execMirrorComplete dt st st' := rfl
@[simp] theorem exec_evFwUpdateFail (dt : Nat) (st' : State) :
    exec (.evFwUpdateFail dt) st' = execEvFwUpdateFail dt st' := rfl
@[simp] theorem exec_fwConfirm (st' : State) :
    exec (.fwConfirm) st' = execFwConfirm st' := rfl
@[simp] theorem exec_fwRevert (st' : State) :
    exec (.fwRevert) st' = execFwRevert st' := rfl
@[simp] theorem exec_fwRecover (st' : State) :
    exec (.fwRecover) st' = execFwRecover st' := rfl
@[simp] theorem exec_journalWrite (dt : Nat) (st' : State) :
    exec (.journalWrite dt) st' = execJournalWrite dt st' := rfl
@[simp] theorem exec_journalCommit (dt : Nat) (st' : State) :
    exec (.journalCommit dt) st' = execJournalCommit dt st' := rfl
@[simp] theorem exec_helmClaim (dt : Nat) (n : Bool) (s : Bool) (st' : State) :
    exec (.helmClaim dt n s) st' = execHelmClaim dt n s st' := rfl
@[simp] theorem exec_helmBeat (dt : Nat) (st : Steward) (st' : State) :
    exec (.helmBeat dt st) st' = execHelmBeat dt st st' := rfl
@[simp] theorem exec_helmPass (dt : Nat) (st : Steward) (st' : State) :
    exec (.helmPass dt st) st' = execHelmPass dt st st' := rfl
@[simp] theorem exec_evHelmLapse (dt : Nat) (st' : State) :
    exec (.evHelmLapse dt) st' = execEvHelmLapse dt st' := rfl
@[simp] theorem exec_dutyHoldExpiry (dt : Nat) (st' : State) :
    exec (.dutyHoldExpiry dt) st' = execDutyHoldExpiry dt st' := rfl
@[simp] theorem exec_restartFollower (st' : State) :
    exec (.restartFollower) st' = execRestartFollower st' := rfl
@[simp] theorem exec_rollcallQuery (dt : Nat) (port : Fin 4) (q : RcQuery) (st' : State) :
    exec (.rollcallQuery dt port q) st' = execRollcallQuery dt port q st' := rfl
@[simp] theorem exec_vote (dt : Nat) (port : Fin 4) (v : RcVote) (st' : State) :
    exec (.vote dt port v) st' = execVote dt port v st' := rfl
@[simp] theorem exec_voteWindowExpiry (dt : Nat) (cmd : BitVec 8) (st' : State) :
    exec (.voteWindowExpiry dt cmd) st' = execVoteWindowExpiry dt cmd st' := rfl
@[simp] theorem exec_logFrame (dt : Nat) (port : Fin 4) (f : LogFrame) (st' : State) :
    exec (.logFrame dt port f) st' = execLogFrame dt port f st' := rfl
@[simp] theorem exec_logAck (dt : Nat) (peer : Fin 2) (lsn : BitVec 64) (origin : BitVec 64) (st' : State) :
    exec (.logAck dt peer lsn origin) st' = execLogAck dt peer lsn origin st' := rfl
@[simp] theorem exec_logFetchFrame (dt : Nat) (port : Fin 4) (src : BitVec 48) (lsn : BitVec 64) (origin : BitVec 64) (st' : State) :
    exec (.logFetchFrame dt port src lsn origin) st' = execLogFetchFrame dt port src lsn origin st' := rfl
@[simp] theorem exec_logRetransmit (dt : Nat) (peer : Fin 2) (lsn : BitVec 64) (st' : State) :
    exec (.logRetransmit dt peer lsn) st' = execLogRetransmit dt peer lsn st' := rfl
@[simp] theorem exec_evLogPeerLag (dt : Nat) (peer : Fin 2) (st' : State) :
    exec (.evLogPeerLag dt peer) st' = execEvLogPeerLag dt peer st' := rfl
@[simp] theorem exec_logRetentionExpiry (dt : Nat) (st' : State) :
    exec (.logRetentionExpiry dt) st' = execLogRetentionExpiry dt st' := rfl
@[simp] theorem exec_jobHold (v : BitVec 64) (st' : State) :
    exec (.jobHold v) st' = execJobHold v st' := rfl
@[simp] theorem exec_jobResume (v : BitVec 64) (st' : State) :
    exec (.jobResume v) st' = execJobResume v st' := rfl
@[simp] theorem exec_partCreate (v : BitVec 64) (st' : State) :
    exec (.partCreate v) st' = execPartCreate v st' := rfl
@[simp] theorem exec_partAdd (v : BitVec 64) (st' : State) :
    exec (.partAdd v) st' = execPartAdd v st' := rfl
@[simp] theorem exec_partRemove (v : BitVec 64) (st' : State) :
    exec (.partRemove v) st' = execPartRemove v st' := rfl
@[simp] theorem exec_partDestroy (v : BitVec 64) (st' : State) :
    exec (.partDestroy v) st' = execPartDestroy v st' := rfl
@[simp] theorem exec_secWindowWrite (p : Fin 8) (w : Fin 8) (v : BitVec 64) (st' : State) :
    exec (.secWindowWrite p w v) st' = execSecWindowWrite p w v st' := rfl
@[simp] theorem exec_blanketClearDone (dt : Nat) (c : Fin 8) (st' : State) :
    exec (.blanketClearDone dt c) st' = execBlanketClearDone dt c st' := rfl
@[simp] theorem exec_evScrubDone (dt : Nat) (p : Fin 8) (w : Fin 8) (st' : State) :
    exec (.evScrubDone dt p w) st' = execEvScrubDone dt p w st' := rfl
@[simp] theorem exec_secTvRecSel (p : Fin 8) (v : BitVec 64) (st' : State) :
    exec (.secTvRecSel p v) st' = execSecTvRecSel p v st' := rfl
@[simp] theorem exec_tenantViewSample (dt : Nat) (energy : List Nat) (st' : State) :
    exec (.tenantViewSample dt energy) st' = execTenantViewSample dt energy st' := rfl
@[simp] theorem exec_bistGo (v : BitVec 32) (st' : State) :
    exec (.bistGo v) st' = execBistGo v st' := rfl
@[simp] theorem exec_maintEnter (v : BitVec 32) (st' : State) :
    exec (.maintEnter v) st' = execMaintEnter v st' := rfl
@[simp] theorem exec_maintEntry (dt : Nat) (st' : State) :
    exec (.maintEntry dt) st' = execMaintEntry dt st' := rfl
@[simp] theorem exec_maintExit (v : BitVec 32) (st' : State) :
    exec (.maintExit v) st' = execMaintExit v st' := rfl
@[simp] theorem exec_bistTestComplete (dt : Nat) (r : BistResult) (st' : State) :
    exec (.bistTestComplete dt r) st' = execBistTestComplete dt r st' := rfl
@[simp] theorem exec_rasEngSel (v : BitVec 64) (st' : State) :
    exec (.rasEngSel v) st' = execRasEngSel v st' := rfl
@[simp] theorem exec_rasEngClr (v : BitVec 32) (st' : State) :
    exec (.rasEngClr v) st' = execRasEngClr v st' := rfl
@[simp] theorem exec_thmSensorClr (v : BitVec 32) (st' : State) :
    exec (.thmSensorClr v) st' = execThmSensorClr v st' := rfl
@[simp] theorem exec_plcEngSel (v : BitVec 64) (st' : State) :
    exec (.plcEngSel v) st' = execPlcEngSel v st' := rfl
@[simp] theorem exec_plcHintSel (v : BitVec 64) (st' : State) :
    exec (.plcHintSel v) st' = execPlcHintSel v st' := rfl
@[simp] theorem exec_kvCtxSel (v : BitVec 64) (st' : State) :
    exec (.kvCtxSel v) st' = execKvCtxSel v st' := rfl
@[simp] theorem exec_srvReqSel (v : BitVec 64) (st' : State) :
    exec (.srvReqSel v) st' = execSrvReqSel v st' := rfl
@[simp] theorem exec_srvPart (p : Fin 8) (v : BitVec 64) (st' : State) :
    exec (.srvPart p v) st' = execSrvPart p v st' := rfl
@[simp] theorem exec_tkArmAdd (p : Fin 8) (v : BitVec 32) (st' : State) :
    exec (.tkArmAdd p v) st' = execTkArmAdd p v st' := rfl
@[simp] theorem exec_memForce (v : BitVec 64) (st' : State) :
    exec (.memForce v) st' = execMemForce v st' := rfl
@[simp] theorem exec_statClear (off : BitVec 32) (v : BitVec 64) (st' : State) :
    exec (.statClear off v) st' = execStatClear off v st' := rfl
@[simp] theorem exec_registerWrite (a : Agent) (off : BitVec 32) (size : Nat) (v : BitVec 64) (st' : State) :
    exec (.registerWrite a off size v) st' = execRegisterWrite a off size v st' := rfl
@[simp] theorem exec_flowPulse (dt : Nat) (low : Nat) (st' : State) :
    exec (.flowPulse dt low) st' = execFlowPulse dt low st' := rfl
@[simp] theorem exec_moduleRestart (dt : Nat) (st' : State) :
    exec (.moduleRestart dt) st' = execModuleRestart dt st' := rfl
@[simp] theorem exec_acxAccess (core : Fin 16) (h : BitVec 32) (off : BitVec 64) (acc : OutAcc) (st' : State) :
    exec (.acxAccess core h off acc) st' = execAcxAccess core h off acc st' := rfl
@[simp] theorem exec_acxFrameSend (port : Fin 4) (part : Option (Fin 8)) (bytes : List Byte) (st' : State) :
    exec (.acxFrameSend port part bytes) st' = execAcxFrameSend port part bytes st' := rfl
@[simp] theorem exec_msixEnable (f : Func) (en : Bool) (vec : BitVec 8) (masked : Bool) (st' : State) :
    exec (.msixEnable f en vec masked) st' = execMsixEnable f en vec masked st' := rfl
@[simp] theorem exec_vfEnable (en : Bool) (st' : State) :
    exec (.vfEnable en) st' = execVfEnable en st' := rfl
@[simp] theorem exec_lanternRestart (dt : Nat) (st' : State) :
    exec (.lanternRestart dt) st' = execLanternRestart dt st' := rfl
@[simp] theorem exec_ptmRequest (dt : Nat) (st' : State) :
    exec (.ptmRequest dt) st' = execPtmRequest dt st' := rfl

end Sys2Proof.Machine
end

