-- ==== Sys2Proof/Laws/Memory.lean ====
section
/-!
SUPPORT. The laws of memory: every memory operation keeps the canonical form, and a write changes the bytes written and no
other.
-/
namespace Sys2Proof.Machine

theorem cellsPut_wf (bs : List Byte) (a : Nat) (m : List Host.Cell) (h : Memory.wf m = true) : Memory.wf (cellsPut bs a m) = true := by
  induction bs generalizing a m with
  | nil => exact h
  | cons b bs ih => exact ih _ _ (mapWf_mapSet m a b h)

theorem cellsPutAll_wf (ms : List Mirror) (a : Nat) (bs : List Byte) (m : List Host.Cell) (h : Memory.wf m = true) :
    Memory.wf (cellsPutAll ms a bs m) = true := by
  unfold cellsPutAll
  have h2 := cellsPut_wf bs a m h
  generalize cellsPut bs a m = m' at h2
  induction ms generalizing m' with
  | nil => exact h2
  | cons x ms ih => exact ih _ (cellsPut_wf _ _ _ h2)

theorem dramWrite_wf (a : Nat) (bs : List Byte) (s : State) (h : Memory.wf s.dram = true) : Memory.wf (dramWrite a bs s).dram = true :=
  cellsPutAll_wf _ a bs _ h

theorem hostWrite_wf (a : Nat) (bs : List Byte) (s : State) (h : Memory.wf s.hostMem = true) :
    Memory.wf (hostWrite a bs s).hostMem = true :=
  cellsPut_wf bs a _ h

theorem foldl_mapSet_wf (l : List Host.Cell) (f : Host.Cell → Nat) (m : List Host.Cell) (h : Memory.wf m = true) :
    Memory.wf (l.foldl (fun d c => mapSet 0 d (f c) c.2) m) = true := by
  induction l generalizing m with
  | nil => exact h
  | cons c l ih => exact ih _ (mapWf_mapSet m _ _ h)

theorem dramCopy_wf (a b n : Nat) (s : State) (h : Memory.wf s.dram = true) : Memory.wf (dramCopy a b n s).dram = true :=
  foldl_mapSet_wf _ (fun c => b + (c.1 - a)) _ (mapWf_filter _ _ h)

/-- Dropping cells, as a scrub does, keeps the canonical form. -/
theorem cells_filter_wf (m : List Host.Cell) (q : Host.Cell → Bool) (h : Memory.wf m = true) : Memory.wf (m.filter q) = true :=
  mapWf_filter m q h

/-- The bytes of a write. -/
theorem mapGet_cellsPut (bs : List Byte) (a k : Nat) (m : List Host.Cell) :
    mapGet 0 (cellsPut bs a m) k = if a ≤ k ∧ k < a + bs.length then bs.getD (k - a) 0 else mapGet 0 m k := by
  induction bs generalizing a m with
  | nil => rw [if_neg (by simp)]; rfl
  | cons b bs ih =>
    rw [cellsPut, ih]
    rcases Nat.lt_trichotomy k a with hk | rfl | hk
    · have h1 : ¬(a + 1 ≤ k ∧ k < a + 1 + bs.length) := by omega
      have h2 : ¬(a ≤ k ∧ k < a + (b :: bs).length) := by simp; omega
      rw [if_neg h1, if_neg h2, mapGet_mapSet_other _ _ (by omega)]
    · rw [if_neg (by omega), if_pos (by simp), mapGet_mapSet_same, Nat.sub_self]; rfl
    · have h3 : k - a = (k - (a + 1)) + 1 := by omega
      by_cases h : k < a + 1 + bs.length
      · rw [if_pos ⟨by omega, h⟩, if_pos (by simp; omega), h3, List.getD_cons_succ]
      · rw [if_neg (by omega), if_neg (by simp; omega), mapGet_mapSet_other _ _ (by omega)]

/-- Without a mirror a write to DRAM changes the bytes written and no other. -/
theorem dramByte_dramWrite (a k : Nat) (bs : List Byte) (s : State) (h : mirrorsOf s = []) :
    dramByte (dramWrite a bs s) k = if a ≤ k ∧ k < a + bs.length then bs.getD (k - a) 0 else dramByte s k := by
  simp only [dramByte, dramWrite, h, cellsPutAll, List.foldl_nil]
  exact mapGet_cellsPut bs a k s.dram

/-- A write to host memory changes the bytes written and no other. -/
theorem hostByte_hostWrite (a k : Nat) (bs : List Byte) (s : State) :
    mapGet 0 (hostWrite a bs s).hostMem k = if a ≤ k ∧ k < a + bs.length then bs.getD (k - a) 0 else mapGet 0 s.hostMem k :=
  mapGet_cellsPut bs a k s.hostMem

/-- Nothing is listed at reset. -/
theorem reset_lists_nothing : State.reset.dram = [] ∧ State.reset.hostMem = [] := ⟨rfl, rfl⟩

end Sys2Proof.Machine
end

