-- ==== Sys2Proof/Laws/Sequencer.lean ====
section
/-!
SUPPORT. What a sequencer instruction does once its sequencers take it.
-/
namespace Sys2Proof.Machine

@[simp] theorem withScalar_zero (v : BitVec 64) (pt : Part) : withScalar 0 v pt = pt := rfl
@[simp] theorem withPred_zero (v : Bool) (pt : Part) : withPred 0 v pt = pt := rfl

/-- A partition changed by nothing and then by `f` is changed by `f`. -/
@[simp] theorem updPart_updPart (p : Nat) (f g : Part → Part) (s : State) :
    updPart p f (updPart p g s) = updPart p (fun pt => f (g pt)) s := by
  unfold updPart; simp only [partOf_setPart_same, setPart_setPart]

theorem seqGo_updPart_self (p i : Nat) (s : State) : seqGo p i (updPart p (fun pt => pt) s) = seqGo p i s := by
  unfold seqGo
  simp only [updPart_updPart, updPart_cyc]

/-- A word that spells an instruction is no bad word. -/
theorem wordBad_of_stands {s : State} {p : Fin 8} {i : Instr} (h : stands s p i = true) : wordBad s p = false := by
  unfold stands at h
  unfold wordBad
  cases hw : wordAt (partOf s p) with
  | none => rfl
  | some v =>
    rw [hw] at h
    simp only [Option.any_some, decide_eq_true_eq] at h
    simp [h]

/-- An instruction that its sequencers come to has its effect. -/
theorem seqTakes_comes {s : State} {p : Fin 8} {i : Instr} (h : SeqComes s p i) (g : State → State) : seqTakes i p g s = g s := by
  simp [seqTakes, h.1, h.2, wordBad_of_stands h.2]

/-- An instruction that its sequencers take has its effect. -/
theorem seqDo_meets {s : State} {p : Fin 8} {i : Instr} {u : SeqUse} {w : SeqW} (h : SeqMeets s p i u w)
    (f : Part → State → State) : seqDo i p u w f s = f (partOf s p) s := by
  obtain ⟨h1, h2, h3⟩ := h
  unfold seqDo
  rw [seqTakes_comes h1]
  simp [h2, h3]

/-- An instruction whose sequencers come to it, with a field that is not as R111 wants it. -/
theorem seqDo_badField {s : State} {p : Fin 8} {i : Instr} {u : SeqUse} {w : SeqW} (h : SeqComes s p i)
    (hf : seqFieldsOk u w = false) (f : Part → State → State) : seqDo i p u w f s = seqFault p ST_INSN_INVALID s := by
  unfold seqDo
  rw [seqTakes_comes h]
  simp [hf]

theorem seqNext_sSet (p : Nat) (i : BitVec 5) (v : BitVec 64) (s : State) :
    seqNext p (sSet p i v s) = seqAt p ((partOf s p).pc + 1) (withScalar i v) s := by
  by_cases h : i = 0
  · subst h
    exact (seqGo_updPart_self _ _ _).symm
  · have e : withScalar i v = fun pt => { pt with sreg := mapSet 0 pt.sreg i.toNat v } := by
      funext pt; exact if_neg h
    simp only [seqNext, sSet, seqAt, h, if_false, e, partOf_updPart_same]

theorem seqNext_pSet (p : Nat) (i : BitVec 3) (v : Bool) (s : State) :
    seqNext p (pSet p i v s) = seqAt p ((partOf s p).pc + 1) (withPred i v) s := by
  by_cases h : i = 0
  · subst h
    exact (seqGo_updPart_self _ _ _).symm
  · have e : withPred i v = fun pt => { pt with preg := BitVec.ofNat 8 (setBit pt.preg.toNat i.toNat v) } := by
      funext pt; exact if_neg h
    simp only [seqNext, pSet, seqAt, h, if_false, e, partOf_updPart_same]

theorem seqNext_dSet (p i : Nat) (v : BitVec 256) (s : State) :
    seqNext p (dSet p i v s) = seqAt p ((partOf s p).pc + 1) (withDesc i v) s := by
  have e : withDesc i v = fun pt => { pt with dreg := mapSet 0 pt.dreg i v } := by funext pt; rfl
  simp only [seqNext, dSet, seqAt, e, partOf_updPart_same]

theorem seqNext_eq (p : Nat) (s : State) : seqNext p s = seqAt p ((partOf s p).pc + 1) (fun pt => pt) s :=
  (seqGo_updPart_self _ _ _).symm

/-- An instruction that writes SD. -/
theorem seqWrite_meets {p : Fin 8} {i : Instr} {u : SeqUse} {w : SeqW} {f : Part → BitVec 64} {s : State}
    (h : SeqMeets s p i { u with sd := true } w) :
    seqWrite i p u w f s = seqAt p ((partOf s p).pc + 1) (withScalar w.sd (f (partOf s p))) s := by
  unfold seqWrite
  rw [seqDo_meets h, seqNext_sSet]

end Sys2Proof.Machine
end

