-- ==== Sys2Proof/WellFormed.lean ====
section
/-!
DEFINITION. Which commands are well formed: lists of readings have one entry per unit, a transfer that did not fail
carries all its bytes. The meanings are total and take an ill-formed command too, with missing readings as 0.
-/
namespace Sys2Proof

/-- A transfer of `len` bytes that did not fail brings all of them; one that failed brings fewer (R319). -/
def dmaWf (len : BitVec 64) (d : Dma) : Bool :=
  if d.ok then d.data.length == len.toNat else decide (d.data.length ≤ len.toNat)

/-- An SRAM error names a Hamper of a core or the store of a cluster, within its size (R16, R252). -/
def sramErrWf (e : SramErr) : Bool :=
  (e.store == 1 && decide (e.off.toNat < 0x400000) && e.off.toNat % 8 == 0)
    || (e.store == 2 && decide (e.unit.toNat < 8) && e.off.toNat % 8 == 0)

/-- The command is well formed. -/
def Instr.wf : Instr → Bool
  | .seqNop _ _ => true
  | .seqLi _ _ => true
  | .seqAdd _ _ => true
  | .seqAddi _ _ => true
  | .seqSub _ _ => true
  | .seqMul _ _ => true
  | .seqAnd _ _ => true
  | .seqOr _ _ => true
  | .seqXor _ _ => true
  | .seqShl _ _ => true
  | .seqShr _ _ => true
  | .seqSra _ _ => true
  | .seqCmp _ _ => true
  | .seqCmpi _ _ => true
  | .seqPset _ _ => true
  | .seqDld _ _ => true
  | .seqDmov _ _ => true
  | .seqDset _ _ => true
  | .seqDget _ _ => true
  | .seqBr _ _ => true
  | .seqLoop _ _ => true
  | .seqEndloop _ _ => true
  | .seqStep _ _ => true
  | .seqWait _ _ => true
  | .seqHalt _ _ => true
  | .seqSys _ _ => true
  | .inLoad _ _ => true
  | .inWin _ _ => true
  | .inGather _ _ => true
  | .mxMm _ _ => true
  | .mxScore _ _ => true
  | .mxMix _ _ => true
  | .vxEw1 _ _ => true
  | .vxEw2 _ _ => true
  | .vxAct _ _ => true
  | .vxRmsnorm _ _ => true
  | .vxLnorm _ _ => true
  | .vxSmax _ _ => true
  | .vxMerge _ _ => true
  | .vxRope _ _ => true
  | .vxSilumul _ _ => true
  | .vxReduce _ _ => true
  | .vxPool _ _ => true
  | .kvGather _ _ => true
  | .kvAccept _ _ => true
  | .outStore _ _ => true
  | .outAppend _ _ => true
  | .outCommit _ _ => true
  | .checksumItemCompare _ _ item => !item.rows.isEmpty && !item.cols.isEmpty
  | .healthWindowExpiry _ isCore unit => !isCore || decide (unit.toNat < 64)
  | .streamDeadlock _ _ => true
  | .evEstExceeded _ _ => true
  | .commit _ _ => true
  | .publishWindowEnd _ _ => true
  | .tickBoundary _ => true
  | .reqAdmit _ _ _ _ _ => true
  | .reqCancel _ _ => true
  | .reqFinish _ _ => true
  | .reqPause _ _ => true
  | .reqResume _ _ => true
  | .reqSet _ _ _ _ _ _ _ => true
  | .reqRetire _ _ => true
  | .reqQuery _ _ _ _ => true
  | .loadImage _ _ len dma => dmaWf len dma
  | .programResume _ => true
  | .programHalt _ => true
  | .tensorRegister _ _ => true
  | .tensorRelease _ _ => true
  | .tensorWrite _ _ _ _ _ len dma => dmaWf len dma
  | .tensorRead _ _ _ _ _ _ _ => true
  | .tensorExport _ _ _ => true
  | .qpCreate _ _ => true
  | .qpModify _ _ => true
  | .qpDestroy _ _ => true
  | .mrReg _ _ _ => true
  | .mrDereg _ _ => true
  | .postSend _ _ => true
  | .postRecv _ _ _ _ _ _ => true
  | .vccSubmit _ _ _ _ _ => true
  | .vccReleaseFrame _ _ _ _ => true
  | .vccLatest _ _ => true
  | .armCmd _ _ => true
  | .secQuote _ _ _ _ _ _ => true
  | .secCert _ _ _ _ => true
  | .keyImport _ _ _ _ _ => true
  | .keyDelete _ _ => true
  | .fwWrite _ _ _ len dma => dmaWf len dma
  | .logAppend _ _ _ _ _ len dma => dmaWf len dma
  | .logReadCmd _ _ _ _ _ _ => true
  | .logFetch _ _ _ _ _ => true
  | .mgrKey _ _ _ _ _ => true
  | .sqTail _ _ => true
  | .cqHead _ _ => true
  | .cmdCfg _ _ _ => true
  | .asyncRecordDiscard _ _ => true
  | .edcDoorbell _ _ => true
  | .edcCtxClaim _ => true
  | .edcCtxComplete _ _ => true
  | .edcLock _ _ => true
  | .evEdcLockBreak _ => true
  | .auxStart _ _ => true
  | .auxStop _ => true
  | .pwrEn _ _ _ => true
  | .trayPresent _ _ _ => true
  | .railFault _ _ => true
  | .mainPowerUp _ => true
  | .bootFlowTimeout _ => true
  | .bootSelfTest _ _ => true
  | .hostLinkUp _ _ _ => true
  | .dramTraining _ r => r.length == 6
  | .journalReplay _ => true
  | .flaskReload _ => true
  | .bootComplete _ => true
  | .perst _ => true
  | .pfFlr => true
  | .vfFlr _ => true
  | .pcieTlpViolation _ => true
  | .bar2Access _ _ _ => true
  | .completionTimeout _ _ _ => true
  | .referenceLoss _ _ => true
  | .pllRelock _ _ _ => true
  | .powerGovernor _ _ => true
  | .hotspotSensorSample _ r => r.length == 32
  | .rulingTemperature _ => true
  | .sensorDisagreeTimeout _ _ => true
  | .disWindowRestart _ => true
  | .thermalForecast _ est => est.length == 32
  | .thetaUpdate _ => true
  | .lanternDiodeCheck _ => true
  | .flowLost _ => true
  | .flowRestored _ => true
  | .flowLossSafe _ => true
  | .thermalCycleSample _ => true
  | .thermalCycleJournal _ => true
  | .stackTempRead _ temps => temps.length == 6
  | .stackOvertempTrip _ _ => true
  | .sramScrub _ errs => errs.all sramErrWf
  | .retrainDue _ _ => true
  | .retrainSlackStart _ => true
  | .retrainComplete _ _ => true
  | .ppsEdge _ => true
  | .ptpMessage _ _ _ => true
  | .tbHoldover _ => true
  | .rtpPacket _ _ _ => true
  | .rtcpSenderReport _ _ _ _ _ => true
  | .frameCompleteTimeout _ _ => true
  | .frameCommit _ _ _ => true
  | .sensorGroupCommit _ _ => true
  | .sliceEmit _ _ _ => true
  | .vccSlotSubmit _ _ => true
  | .vccSlotRelease _ _ => true
  | .slotEnable _ _ => true
  | .slotDisable _ _ => true
  | .rocePacket _ _ _ => true
  | .roceRetransmitTimeout _ _ => true
  | .cnpRateRecovery _ _ => true
  | .ethFrameReceive _ _ _ => true
  | .evPortLink _ _ _ _ => true
  | .dutyGrant _ _ _ => true
  | .dutyIn _ _ _ => true
  | .slotIdChange _ => true
  | .smbAlertResponse => true
  | .smbusRead _ => true
  | .smbusWrite _ _ => true
  | .smbusRecoveryStart _ => true
  | .smbusRecoveryData _ bytes => decide (bytes.length ≤ 251)
  | .smbusRecoveryFinish => true
  | .smbusRecoveryStatus => true
  | .fwRcvStart _ => true
  | .fwRcvFinish _ => true
  | .fwVerify => true
  | .fwActivate => true
  | .mirrorComplete _ _ => true
  | .evFwUpdateFail _ => true
  | .fwConfirm => true
  | .fwRevert => true
  | .fwRecover => true
  | .journalWrite _ => true
  | .journalCommit _ => true
  | .helmClaim _ _ _ => true
  | .helmBeat _ _ => true
  | .helmPass _ _ => true
  | .evHelmLapse _ => true
  | .dutyHoldExpiry _ => true
  | .restartFollower => true
  | .rollcallQuery _ _ _ => true
  | .vote _ _ _ => true
  | .voteWindowExpiry _ _ => true
  | .logFrame _ _ _ => true
  | .logAck _ _ _ _ => true
  | .logFetchFrame _ _ _ _ _ => true
  | .logRetransmit _ _ _ => true
  | .evLogPeerLag _ _ => true
  | .logRetentionExpiry _ => true
  | .jobHold _ => true
  | .jobResume _ => true
  | .partCreate _ => true
  | .partAdd _ => true
  | .partRemove _ => true
  | .partDestroy _ => true
  | .secWindowWrite _ _ _ => true
  | .blanketClearDone _ _ => true
  | .evScrubDone _ _ _ => true
  | .secTvRecSel _ _ => true
  | .tenantViewSample _ energy => energy.length == 64
  | .bistGo _ => true
  | .maintEnter _ => true
  | .maintEntry _ => true
  | .maintExit _ => true
  | .bistTestComplete _ _ => true
  | .rasEngSel _ => true
  | .rasEngClr _ => true
  | .thmSensorClr _ => true
  | .plcEngSel _ => true
  | .plcHintSel _ => true
  | .kvCtxSel _ => true
  | .srvReqSel _ => true
  | .srvPart _ _ => true
  | .tkArmAdd _ _ => true
  | .memForce _ => true
  | .statClear _ _ => true
  | .registerWrite _ _ size _ => size == 4 || size == 8
  | .flowPulse _ _ => true
  | .moduleRestart _ => true
  | .acxAccess _ _ _ _ => true
  | .acxFrameSend _ _ _ => true
  | .msixEnable _ _ _ _ => true
  | .vfEnable _ => true
  | .lanternRestart _ => true
  | .ptmRequest _ => true

end Sys2Proof
end

