-- ==== Sys2Proof/Tests/Slice0.lean ====
section
/-!
SUPPORT. The model's own tests: a witness of the hypotheses of each statement, ill-formed commands that WellFormed
refuses, and values that the spec works out.
-/
namespace Sys2Proof.Tests
open Sys2Proof.Machine

set_option Elab.async false

/-- The module in READY with all at reset. -/
def live (m : Nat) : State := fset GEN_STATE_MODE m State.reset

/-- A word of the sequencer format with every field 0 but SD, SS1, SS2 and the immediate. -/
def sw (sd ss1 ss2 : BitVec 5) (imm : BitVec 64) : SeqW :=
  { pneg := false, pred := 0, sd := sd, ss1 := ss1, ss2 := ss2, pd := 0, dd := 0, ds := 0, cond := 0, pa := 0, pb := 0, rsv := 0, imm := imm }

/-- A program of four words (nop, loop to 2, endloop, in.load) that stands at its first. -/
def prog : Part :=
  { partReset with loaded := true, running := true, words := [0xA0#128 <<< 120, 0xB4#128 <<< 120 ||| 2#128 <<< 32, 0xB5#128 <<< 120, 0]
                   sreg := [(1, 0xFFFFFFFFFFFFFFFF), (2, 0x8000000000000003), (3, 2)] }

/-- READY with partition 0 so. -/
def at0 (pt : Part) : State := { live MODE_READY with parts := [(0, pt)] }

/-- The word of instruction `i` stands at the pc of partition 0. -/
def facing (i : Instr) (s : State) : State := updPart 0 (fun pt => { pt with words := pt.words.set pt.pc ((wordOf i).getD 0) }) s

/-- A tensor descriptor with its DTYPE, element format, rank, sizes, handle and view. -/
def td (dtype fmt rank : Nat) (dims : List Nat) (h view : Nat) : BitVec 256 :=
  BitVec.ofNat 256 (dtype * 2 ^ 252 + fmt * 2 ^ 240 + rank * 2 ^ 237 + h * 2 ^ 184 + view * 2 ^ 120
    + (dims.getD 0 0 + dims.getD 1 0 * 2 ^ 24 + dims.getD 2 0 * 2 ^ 48))

/-- A program with descriptors: d1, a tensor's; d2 and d3, descriptor tables of two rows of three in tensors 7 and 9. -/
def dprog : Part :=
  { prog with dreg := [(1, td 2 3 2 [4, 5] 7 0), (2, td 4 0 2 [3, 2] 7 0), (3, td 4 0 2 [3, 2] 9 0), (255, BitVec.allOnes 256)] }

/-- A tensor of partition 0: 4 KiB of DRAM from address 0. -/
def tn : Tensor :=
  { part := 0, cls := 0, size := 4096, writable := true, flask := false, object := 0, home := 0, stamp := 0, kvFormat := 0
    heads := 0, width := 0, hint := 0, reason := 0, declines := 0, level := 0, access := 0, lost := false, slot := none
    blocks := [], lowArmed := false, digest := 0, holder := none, moved := 0, readers := 0 }

/-- Partition 0 with a program, a window of 64 MiB from address 0, and tensor 7. -/
def withTensor : State :=
  fset (SEC_WIN_EN 0 0) 1 (fset (SEC_WIN_SIZE 0 0) 1
    { at0 dprog with tensors := [(7, tn)], dram := (List.range 192).map (fun i => (i, BitVec.ofNat 8 (i + 1))) })

/-- Partition 0 with scalar register 1 so. -/
def withS1 (v : BitVec 64) (s : State) : State := updPart 0 (fun pt => { pt with sreg := [(1, v)] }) s

/-- Partition 0 at instruction `n` with these loops open. -/
def inLoops (n : Nat) (l : List LoopFrame) (s : State) : State := updPart 0 (fun pt => { pt with pc := n, loops := l }) s

/-- A word of the station format with every field 0. -/
def sta0 : StaW :=
  { pneg := false, pred := 0, so := 0, sa := 0, ka := false, sb := 0, kb := false, da := 0, db := 0, func := 0, ofmt := 0
    rtz := false, nosat := false, sx := 0, rsv := 0, immh := 0, imm32 := 0 }

/-- Station words whose predicate is 0. -/
def offWords : List StaW :=
  let w := { sta0 with pneg := true }
  [w, { w with func := 1, immh := 64 }, { w with immh := 64 }, { w with imm32 := 1 }]

/-- A word of the stream table: producer and consumer station, depth 4, element format, tiles of 4 rows of 16 bytes. -/
def streamW (producer consumer fmt : Nat) : BitVec 64 :=
  BitVec.ofNat 64 (2 ^ 63 + producer * 2 ^ 60 + consumer * 2 ^ 57 + 4 * 2 ^ 52 + fmt * 2 ^ 44 + 3 * 2 ^ 38 + 15 * 2 ^ 28)

/-- Partition 0 in a step, with streams 1 (IN to OUT, INT8), 2 (IN to VX, FP32) and 3 (VX to OUT, FP32), d4 a tensor of INT8, and
the stacks in self-refresh. -/
def inStep : State :=
  fset CLK_STATUS_COAST 16 (updPart 0 (fun pt => { pt with
    step := some { stepNone with idx := 0, est := 1000, rows := [] }
    streamTab := [0, streamW 0 4 FMT_INT8, streamW 0 2 FMT_FP32, streamW 2 4 FMT_FP32]
    dreg := [(4, td 1 FMT_INT8 2 [16, 4] 7 0 ||| 3#256 <<< 231 ||| 15#256 <<< 221)] }) withTensor)

/-- The queue of station `k` of partition 0 with `n` instructions. -/
def queued (k n : Nat) (s : State) : State :=
  updPart 0 (fun pt => { pt with queues := mapSet [] pt.queues k (List.replicate n ⟨0, OP_COMMIT, sta0, 0, 0, 0⟩) }) s

/-- Partition 0 in a step that cannot go on since cycle 0: an out.store waits for a tile of stream 1, and the sequencer waits for OUT. -/
def stuck : State :=
  runPart 0 (updPart 0 (fun pt => { pt with
    pc := 2, waitMask := some 16, queues := [(4, [⟨1, OP_STORE, { sta0 with sa := 1, da := 4 }, dGet pt 4, 0, 0⟩])] })
    (fset CLK_ACLK_CUR_MHZ 500 (fset CLK_STATUS_COAST 0 inStep)))

/-- A request entry: state, prompt length 4, greatest length 100, length 4, and a deadline. -/
def rq (st : Nat) (deadline : BitVec 64) : ReqEnt :=
  { reqFree with w0 := BitVec.ofNat 64 (st * 2 ^ 60), w1 := BitVec.ofNat 64 (4 * 2 ^ 43 + 100 * 2 ^ 22 + 4 * 2), w3 := deadline }

/-- Entries 0 to 7 of the request table are partition 0's; entries 0 to 3 hold these. -/
def withReqs (a b c d : ReqEnt) (s : State) : State :=
  fset (SRV_PART_COUNT 0) 8 { s with reqs := [(0, a), (1, b), (2, c), (3, d)] }

/-- A row of a step bound to request `q`. -/
def row (q : Nat) (dropped : Bool) : RowEnt := ⟨true, 2, q, 0, 4, 5, dropped⟩

/-- Partition 0 with a step whose out.commit has reached OUT: a row bound to nothing, one of a live request, one of a request
whose deadline has lapsed, one of a cancelled request. -/
def committing : State :=
  withReqs (rq 2 0) (rq 2 0) (rq 2 5) (rq 4 0)
    (updPart 0 (fun pt => { pt with step := some { stepNone with
      commitIdx := some 3, commitAt := some 70
      rows := [⟨false, 0, 0, 0, 0, 0, false⟩, row 1 false, row 2 false, row 3 false, row 0 true] } }) { inStep with now := 1000 })

/-- Partition 0 ACTIVE on cluster 0, its sequencer held at STEP 3 with an estimate of 1000 cycles. -/
def heldAt : State :=
  fset (PLC_EPOCH_CLUSTERS 0) 1 (fset (SEC_PART_STATE 0) PART_ACTIVE (fset (TK_PART_VALID 0) 1 (fset HLM_HELM_STATE 1
    (fset CLK_ACLK_CUR_MHZ 500 (fset TK_NEXT_NEXT 10000000 (updPart 0 (fun pt => { pt with
      pc := 3, held := some { idx := 3, desc := td 2 3 2 [4, 5] 7 0, est := 1000 }, slots := 2, used := 1
      limit := some 9500000 }) withTensor))))))

/-- Queue 0, the control queue of partition 0, open with one entry to read. -/
def ring (s : State) : State :=
  qUpd 0 (fun x => { x with sqTail := 1 }) (fset (CMD_CFG_EN 0 0) 1 (fset (CMD_CQ_BASE_ADDR 0 0) 16 s))

/-- A command of queue 0. -/
def qc : QCmd := { queue := 0, tag := 0xABCD1234, resv := false }

/-- Requests ADMITTED, ACTIVE, PAUSED and DONE in entries 0 to 3 of partition 0, and queue 0 with a command. -/
def served : State := ring (withReqs (rq 1 0) (rq 2 0) (rq 3 0) (rq 6 0) (at0 prog))

/-- Partition 0 ACTIVE with room in its window, its program, tensor 7 and queue 0. -/
def roomy : State :=
  ring (fset (SEC_PART_STATE 0) PART_ACTIVE (fset (MEM_SHARE_NORTH 0) 14 (fset (MEM_SHARE_SOUTH 0) 14 withTensor)))

/-- Queue 0 comes to the entry of command `i`. -/
def asked (i : Instr) (s : State) : State :=
  qUpd 0 (fun x => { x with ring := [(0, ((ringSpell i).map (entryOf 0)).getD 0)] }) s

/-- Queue 0 meets command `i` in state `s`. -/
def meets (i : Instr) (s : State) : Bool := cmdMeets (asked i s) qc i

/-- A queue pair of partition 0 in state `st`, sending from PSN 0xFFFFFF with packets of 1 KiB, with a receive buffer. -/
def qp (st : Nat) : Qp :=
  { part := 0, port := 0, state := st, mtu := 3, remoteQp := 9, sendPsn := 0xFFFFFF, recvPsn := 0xFFFFFF, gid := 0, tclass := 0
    sends := [], recvs := [⟨7, 64, 16⟩], got := 0, wr := none, rate := rateFull, rateAt := 0 }

/-- Partition 0 with queue pair 5 in state `st`, port 0 up, and the range 5 to 7 of queue pairs. -/
def linked (st : Nat) : State :=
  fset (NET_PORT_STATUS_LINK 0) 1 (fset (NET_PART_W0_EN 0) 1 (fset (NET_PART_W0_IPV4 0) 0x0A000001 (fset (NET_PART_W3_QP_BASE 0) 5 (fset (NET_PART_W3_QP_COUNT 0) 3
    { roomy with qps := [(5, some (qp st))] }))))

/-- The address of partition 0 on port 0. -/
def addr0 : NetAddr := { dst := 1, vlan := none, ipv4 := some 0x0A000001, ipv6 := none }

/-- Codec slot 5 of partition 0, not enabled: 64 by 64 at 30 frames a second in INT8, payload type 96 on port 0. -/
def camera : State :=
  fset (VCC_SLOT_GEOM_WIDTH 5) 64 (fset (VCC_SLOT_GEOM_HEIGHT 5) 64 (fset (VCC_SLOT_GEOM_FPS 5) 30
    (fset (VCC_SLOT_OUT_FORMAT 5) FMT_INT8 (fset (VCC_SLOT_OUT_GROUP_MS 5) 10 (fset (VCC_SLOT_NET_PT 5) 96 (linked 3))))))

/-- A value of SLOT_CFG that enables kind `k` with four buffers and explicit release. -/
def slotCfg (k : Nat) : BitVec 64 := BitVec.ofNat 64 (2 ^ 60 + k * 2 ^ 58 + 3 * 2 ^ 40 + 2 ^ 38 + 0x105 * 2 ^ 28)

/-- The camera with slot 5 enabled as kind `k`. -/
def filming (k : Nat) : State :=
  match exec (.slotEnable 5 (slotCfg k)) camera with
  | .next t => t
  | _ => camera

/-- Changes codec slot 5. -/
def slot5 (f : Slot → Slot) (s : State) : State := slotUpd 5 f s

/-- A frame being gathered since time 100: sequence numbers 10 and 11 of extended timestamp `e`. -/
def frameOf (e : Nat) : FrameAsm :=
  { ext := e, epoch := 0, firstAt := 100, laterAt := none, head := true, marker := none, gap := false, starts := true, done := false
    timeout := false, set := none, pkts := [(10, [1, 2]), (11, [3, 4])] }

/-- The decode slot with a locked stream whose frame is being gathered. -/
def gathering : State :=
  { slot5 (fun x => { x with ssrc := some 77, lastExt := some 5000, frames := [frameOf 5000] }) (filming KIND_DECODE) with now := 1000 }

/-- A packet of the stream to the slot's address and port. -/
def rtp (seq : BitVec 16) (ts : BitVec 32) (marker : Bool) : RtpPkt :=
  { addr := addr0, udp := BitVec.ofNat 16 (fget gathering (VCC_SLOT_NET_UDP_PORT 5)), pt := 96, ssrc := 77, seq := seq, ts := ts, marker := marker
    starts := false, data := [5, 6] }

/-- An encode slot whose tensor 7 fits its pictures. -/
def encoding : State :=
  { fset (VCC_SLOT_CFG_EN 5) 1 (fset (VCC_SLOT_CFG_STATE 5) 1 (fset (VCC_SLOT_CFG_KIND 5) KIND_ENCODE camera)) with
    tensors := [(7, some { tn with size := 6144 })] }

/-- The module in BOOT, phase `n`, since time 0, with the outlet's temperature showing that coolant flows. -/
def booting (n : Nat) : State :=
  { fset THM_FLOW_SRC 1 (live MODE_BOOT) with
    now := 2000000000
    power := { powerReset with phase := n }
    therm := { thermReset with deltaGoodSince := some 1000000000 } }

theorem witness_step_idles :
    State.reset.pending = [] ∧ mode State.reset ≠ MODE_OFF ∧ (live MODE_OFF).pending = [] ∧ mode (live MODE_OFF) = MODE_OFF := by
  decide +kernel

theorem witness_memory_invariant :
    MemInv (dramWrite 5 [1, 0, 2] State.reset) ∧ (dramWrite 5 [1, 0, 2] State.reset).dram = [(5, 1), (7, 2)] ∧
      ∃ t, step (dramWrite 5 [1, 0, 2] State.reset) = .next t := by
  refine ⟨by decide +kernel, by decide +kernel, _, rfl⟩

/-! ### Ill-formed commands are refused -/

theorem test_wf_transfer_brings_its_bytes : (Instr.loadImage qc 0 4 ⟨true, [1, 2, 3]⟩).wf = false := by decide
theorem test_wf_failed_transfer_brings_no_more : (Instr.tensorWrite qc 7 0 0 0 2 ⟨false, [1, 2, 3]⟩).wf = false := by decide
theorem test_wf_firmware_bytes : (Instr.fwWrite qc 0 0 2 ⟨true, [1]⟩).wf = false := by decide
theorem test_wf_log_bytes : (Instr.logAppend qc 0 0 0 0 2 ⟨true, [1]⟩).wf = false := by decide
theorem test_wf_sram_error_in_its_store : (Instr.sramScrub 0 [⟨2, 8, 64, true⟩]).wf = false := by decide
theorem test_wf_sram_error_aligned : (Instr.sramScrub 0 [⟨1, 5, 17, true⟩]).wf = false := by decide
theorem test_wf_attempt_observes_sums : (Instr.checksumItemCompare 0 0 ⟨5, 0, 0, [], [0], none⟩).wf = false := by decide
theorem test_wf_health_window_core : (Instr.healthWindowExpiry 0 true 64).wf = false := by decide
theorem test_wf_training_needs_six : (Instr.dramTraining 0 []).wf = false := by decide
theorem test_wf_hot_spots_are_32 : (Instr.hotspotSensorSample 0 (List.replicate 31 (0, 0))).wf = false := by decide
theorem test_wf_forecasts_are_32 : (Instr.thermalForecast 0 (List.replicate 33 (0, 0))).wf = false := by decide
theorem test_wf_stacks_are_six : (Instr.stackTempRead 0 (List.replicate 5 0)).wf = false := by decide
theorem test_wf_smbus_block : (Instr.smbusRecoveryData 0 (List.replicate 252 0)).wf = false := by decide +kernel
theorem test_wf_energies_are_64 : (Instr.tenantViewSample 0 (List.replicate 63 0)).wf = false := by decide
theorem test_wf_register_size : (Instr.registerWrite .pf 0 2 0).wf = false := by decide

/-! ### Words and ring entries written out from the spec's encodings -/

/-- R109, R124: mx.mm (0x20) under !p2, SO 5, SA 9, KA, SB 3, DA 200, DB 7, FUNC 1, OFMT 3, RTZ, IMM_H 2, IMM_32 64. -/
theorem test_word_of_mm :
    insnOf 3 0b00100000_1_010_000101_001001_1_000011_0_11001000_00000111_00000001_00000011_1_0_00000_000000000_0000000000000010_00000000000000000000000001000000
      = some (.mxMm 3 { pneg := true, pred := 2, so := 5, sa := 9, ka := true, sb := 3, kb := false, da := 200, db := 7, func := 1
                        ofmt := 3, rtz := true, nosat := false, sx := 0, rsv := 0, immh := 2, imm32 := 64 }) := by decide +kernel

/-- R109, R124: the first operations of IN, VX, KV and OUT, and the last of each, with every field 0. -/
theorem test_opcodes_of_stations :
    insnOf 0 (0x00#128 <<< 120) = some (.inLoad 0 ⟨sta0, []⟩) ∧ insnOf 0 (0x02#128 <<< 120) = some (.inGather 0 sta0)
      ∧ insnOf 0 (0x40#128 <<< 120) = some (.vxEw1 0 sta0) ∧ insnOf 0 (0x4A#128 <<< 120) = some (.vxPool 0 sta0)
      ∧ insnOf 0 (0x60#128 <<< 120) = some (.kvGather 0 ⟨sta0, []⟩) ∧ insnOf 0 (0x61#128 <<< 120) = some (.kvAccept 0 sta0)
      ∧ insnOf 0 (0x80#128 <<< 120) = some (.outStore 0 sta0) ∧ insnOf 0 (0x82#128 <<< 120) = some (.outCommit 0 sta0)
      ∧ insnOf 0 (0x03#128 <<< 120) = none ∧ insnOf 0 (0xC0#128 <<< 120) = none := by decide +kernel

/-- R110, R127: addi (0xA3) s4, s17, -1 and pset (0xAE) p1 = p6 by COND 3 with p5, under p7. -/
theorem test_words_of_the_sequencer :
    insnOf 0 0b10100011_0_000_00100_10001_00000_000_00000000_00000000_0000_000_000_00000000_1111111111111111111111111111111111111111111111111111111111111111
        = some (.seqAddi 0 { sw 4 17 0 (BitVec.allOnes 64) with pd := 0 })
      ∧ insnOf 0 0b10101110_0_111_00000_00000_00000_001_00000000_00000000_0011_110_101_00000000_0000000000000000000000000000000000000000000000000000000000000000
        = some (.seqPset 0 { sw 0 0 0 0 with pred := 7, pd := 1, cond := 3, pa := 6, pb := 5 }) := by decide +kernel

/-- R314, R317, R318: the first 16 bytes of CANCEL (0x01, 0x02) of entry 0x0123 with tag 0xABCD1234, and KEY_DELETE (0x07, 0x04). -/
theorem test_ring_entries :
    entrySpells 0x0000000000000123_ABCD1234_0000_02_01 (.reqCancel qc 0x123) = true
      ∧ entrySpells 0x0000000000000123_ABCD1234_0000_02_01 (.reqCancel qc 0x122) = false
      ∧ entrySpells 0x0000000000000123_ABCD1234_0000_02_01 (.reqFinish qc 0x123) = false
      ∧ entrySpells 0x000000000000003F_ABCD1234_0000_04_07 (.keyDelete qc 63) = true
      ∧ entryDefined 0x0902 = false ∧ entryDefined 0x0801 = true ∧ entryDefined 0x010A = false := by decide +kernel

theorem witness_ring_entries :
    (ringSpell (.reqCancel qc 0x123)).isSome = true
      ∧ (let s := qUpd 0 (fun x => { x with ring := [(0, 0)] }) served
        qReady s 0 = true ∧ entryDefined (qEntry s 0) = false) := by
  decide +kernel

/-! ### Witnesses: for each statement with hypotheses, a state and operands that meet them, clause by clause -/

/-- The sequencers of partition 0 take instruction `i` in state `s` once its word stands at the pc. -/
abbrev takes (s : State) (i : Instr) (u : SeqUse) (w : SeqW) : Prop := SeqMeets (facing i s) 0 i u w

theorem witness_instruction_words :
    insnOf 5 (seqWord 0xA2 (sw 31 1 2 0)) = some (.seqAdd 5 (sw 31 1 2 0)) := by decide +kernel

theorem witness_scalar_arithmetic :
    (∀ f ∈ [Instr.seqAdd, .seqSub, .seqMul, .seqAnd, .seqOr, .seqXor, .seqShl, .seqShr, .seqSra],
        takes (at0 prog) (f 0 (sw 31 1 2 0)) { sd := true, ss1 := true, ss2 := true } (sw 31 1 2 0))
      ∧ takes (at0 prog) (.seqAddi 0 (sw 0 1 0 0x8000000000000000)) { sd := true, ss1 := true, imm := true }
          (sw 0 1 0 0x8000000000000000) := by decide +kernel

theorem witness_scalar_moves :
    takes (at0 prog) (.seqNop 0 (sw 0 0 0 0)) {} (sw 0 0 0 0)
      ∧ takes (at0 prog) (.seqLi 0 (sw 31 0 0 5)) { sd := true, imm := true } (sw 31 0 0 5)
      ∧ ∀ i ∈ [0, 1, 2, 3, 4, 5],
          takes (at0 prog) (.seqSys 0 (sw 31 0 0 (BitVec.ofNat 64 i))) { sd := true, imm := true } (sw 31 0 0 (BitVec.ofNat 64 i)) := by
  decide +kernel

theorem witness_predicate_instructions :
    (let w := { sw 0 1 2 0 with cond := 5, pd := 7 };
      takes (at0 prog) (.seqCmp 0 w) { pd := true, ss1 := true, ss2 := true, cond := true } w)
      ∧ (let w := { sw 0 1 0 5 with cond := 5, pd := 1 };
        takes (at0 prog) (.seqCmpi 0 w) { pd := true, ss1 := true, cond := true, imm := true } w)
      ∧ (let w := { sw 0 0 0 0 with cond := 4, pd := 1, pa := 7 };
        takes (at0 prog) (.seqPset 0 w) { pd := true, papb := true, cond := true } w) := by
  decide +kernel

theorem witness_descriptor_fields :
    (let w := { sw 0 0 0 0 with dd := 9, ds := 255 };
      takes withTensor (.seqDmov 0 w) { dd := true, ds := true } w)
      ∧ (let w := { sw 0 1 0 0x40C0 with dd := 255 };
        takes withTensor (.seqDset 0 w) { dd := true, ss1 := true, imm := true } w)
      ∧ (let w := { sw 3 0 0 0x0100 with ds := 255 };
        takes withTensor (.seqDget 0 w) { sd := true, ds := true, imm := true } w)
      ∧ (0x40C0 / 256 = 64 ∧ 0x40C0 % 256 + 64 ≤ 256) := by
  decide +kernel

theorem witness_descriptor_load :
    let u : SeqUse := { dd := true, ds := true, ss1 := true }
    (let w := { sw 0 1 0 0 with dd := 253, ds := 2 };
      let s := withS1 1 withTensor
      takes s (.seqDld 0 w) u w
        ∧ tdOk [4] (dGet (partOf s 0) 2) = true ∧ tdAgrees s 0 (tdOf (dGet (partOf s 0) 2)) = true
        ∧ tensorOf s 0 7 = some tn ∧ (readTensor 0 tn FMT_INT8 false 96 96 s).2 = none ∧ tdDim (tdOf (dGet (partOf s 0) 2)) 1 = 2
        ∧ s.dramErrs = [] ∧ ((((partOf s 0).step).getD stepNone).wild.contains 7) = false ∧ inWins s 0 (tn.home + 96) 96 = true)
      ∧ (let w := { sw 0 1 0 0 with dd := 254, ds := 2 };
        takes withTensor (.seqDld 0 w) u w ∧ 255 < 254 + 3 - 1)
      ∧ tdOk [4] (dGet dprog 1) = false
      ∧ (tdOk [4] (dGet dprog 3) = true ∧ tdAgrees withTensor 0 (tdOf (dGet dprog 3)) = true
          ∧ tensorOf withTensor 0 (tdOf (dGet dprog 3)).handle = none) := by
  decide +kernel

theorem witness_branch :
    takes (at0 prog) (.seqBr 0 (sw 0 0 0 4)) { imm := true } (sw 0 0 0 4)
      ∧ takes (at0 prog) (.seqBr 0 (sw 0 0 0 3)) { imm := true } (sw 0 0 0 3)
      ∧ ∃ b ∈ loopBodies prog, inBody b 2 = true ∧ inBody b prog.pc = false := by
  decide +kernel

theorem witness_loops :
    let u := fun (r : Bool) => ({ sd := true, ss1 := r, imm := true } : SeqUse)
    (let s := inLoops 1 [] (withS1 0xFFFFFFFF (at0 prog));
      takes s (.seqLoop 0 (sw 5 1 0 0x200000000)) (u true) (sw 5 1 0 0x200000000) ∧ opcodeAt (partOf s 0) 2 = 0xB5
        ∧ takes s (.seqLoop 0 (sw 5 0 0 0x200000000)) (u true) (sw 5 0 0 0x200000000) ∧ (partOf s 0).pc = 1)
      ∧ (let f : LoopFrame := ⟨1, 2, 3, 0, 5⟩
        let s := inLoops 1 [f, f, f, f] (at0 prog)
        takes s (.seqLoop 0 (sw 5 0 0 0x2FFFFFFFF)) (u false) (sw 5 0 0 0x2FFFFFFFF) ∧ 4 ≤ (partOf s 0).loops.length)
      ∧ (∀ l ∈ [[], [⟨1, 2, 3, 1, 31⟩], [⟨1, 2, 3, 2, 31⟩], [⟨0, 3, 3, 0, 0⟩]],
        SeqComes (facing (.seqEndloop 0 (sw 0 0 0 0)) (inLoops 2 l (at0 prog))) 0 (.seqEndloop 0 (sw 0 0 0 0))
          ∧ seqFieldsOk {} (sw 0 0 0 0) = true) := by
  decide +kernel

theorem witness_step_wait_halt :
    (let w := { sw 0 0 0 4750000 with ds := 1 };
      takes withTensor (.seqStep 0 w) { ds := true, imm := true } w)
      ∧ tdOk [2] (dGet dprog 1) = true ∧ tdAgrees withTensor 0 (tdOf (dGet dprog 1)) = true
      ∧ (tensorOf withTensor 0 (tdOf (dGet dprog 1)).handle).isSome = true ∧ estBound withTensor = 4750000
      ∧ admitAllowed withTensor 0 = false ∧ (partOf withTensor 0).haltNext = false
      ∧ (∀ i ∈ [0, 63], takes withTensor (.seqWait 0 (sw 0 0 0 (BitVec.ofNat 64 i))) { imm := true } (sw 0 0 0 (BitVec.ofNat 64 i)))
      ∧ takes withTensor (.seqHalt 0 (sw 0 0 0 0)) {} (sw 0 0 0 0) ∧ (partOf withTensor 0).step = none := by
  decide +kernel

/-- The sequencers of partition 0 come to the instruction that `f` makes of `w`. -/
def comes {α : Type} (f : Fin 8 → α → Instr) (w : α) : Bool :=
  let s := facing (f 0 w) (at0 prog)
  seqRuns s 0 && stands s 0 (f 0 w)

theorem witness_unused_fields_fault :
    (seqForms.all (fun f => let w := { sw 0 0 0 0 with rsv := 1 }; comes f.1 w && !seqFieldsOk (f.2 w) w)) = true
      ∧ comes .seqEndloop { sw 0 0 0 0 with rsv := 1 } = true
      ∧ (stationForms.all (fun f => let w := { sta0 with pneg := true, rsv := 1 }; comes f.1 w && !fieldsOk f.2 w)) = true
      ∧ predOn prog true 0 = false
      ∧ (let s := at0 { prog with words := [0xFF#128 <<< 120] };
        seqRuns s 0 = true ∧ wordBad s 0 = true)
      ∧ wordBad (at0 prog) 0 = false ∧ stands (at0 prog) 0 (.seqHalt 0 (sw 0 0 0 0)) = false := by
  decide +kernel

theorem witness_predicate_off :
    (seqForms.all (fun f => [0, 0x100, 1].any (fun v =>
        let w := { sw 0 0 0 v with pneg := true }; comes f.1 w && seqFieldsOk (f.2 w) w))) = true
      ∧ (stationForms.all (fun f => offWords.any (fun w => comes f.1 w && fieldsOk f.2 w && rangesOk f.2 w))) = true := by
  decide +kernel

theorem witness_program_end :
    prog.words.length = 4 ∧ seqStep prog = none ∧ seqStep { prog with step := some stepNone } ≠ none
      ∧ (partOf (at0 prog) 0).step = none ∧ (partOf (at0 prog) 0).pc = 0 := by
  decide +kernel

/-- A station word of partition 0 that passes, or fails, its checks in `inStep`. -/
def storeW : StaW := { sta0 with sa := 1, da := 4 }

theorem witness_station_issue :
    let chk := fun (op : Nat) (w : StaW) =>
      issueCheck inStep 0 { partOf inStep 0 with step := seqStep (partOf inStep 0) } op w
    let s := facing (.outStore 0 storeW) inStep
    (OP_STORE ∈ stationForms.map Prod.snd) ∧ SeqComes s 0 (.outStore 0 storeW) ∧ predOn (partOf s 0) false 0 = true
      ∧ (partOf s 0).step.isSome = true
      ∧ chk OP_COMMIT { sta0 with imm32 := 1022 } = none
      ∧ chk OP_LOAD { sta0 with so := 1, da := 4 } = none
      ∧ chk OP_STORE storeW = none
      ∧ chk OP_EW1 { sta0 with sa := 2, so := 3, func := 2 } = none
      ∧ chk OP_COMMIT { sta0 with imm32 := 1023 } = some ST_INSN_INVALID
      ∧ (tensorOf inStep 0 7).map Tensor.slot = some none ∧ (partOf s 0).pc + 1 < (partOf s 0).words.length ∧ dramAsleep s = true
      ∧ (queueOf (partOf (queued 4 32 inStep) 0) 4).length = 32 ∧ (queueOf (partOf (queued 4 31 inStep) 0) 4).length = 31 := by
  decide +kernel

/-- A work item: one activation row (2, 3) against two weight rows (4, 5) and (6, 7) of INT8, on engine 5, after `used` attempts. -/
def item (used : List Nat) : WorkItem :=
  { rb := 0, cb := 0, seg := 0, engine := 5, cool := false, used := used, fa := FMT_INT8, fb := FMT_INT8, xs := [⟨[2, 3], []⟩]
    ys := [⟨[4, 5], []⟩, ⟨[6, 7], []⟩], bad := [], res := none }

/-- An mx.mm whose one item is on engine 5. -/
def matmul (used : List Nat) : Active :=
  { insn := ⟨0, OP_MM, { sta0 with so := 3, sa := 1, da := 4 }, td 1 FMT_INT8 2 [16, 4] 7 0, 0, 0⟩, pos := 0, aPos := 0, bPos := 0
    aEnd := false, bEnd := false, bufA := [], bufB := [], outq := [], made := 0, par := [], mask := [], engines := [5, 9, 12]
    cool := false, skip := [], fin := false, items := [item used], jobs := [], dealt := 1 }

/-- Partition 0 in a step with that mx.mm in progress. -/
def inMatmul (used : List Nat) : State := updPart 0 (fun pt => { pt with act := [(1, some (matmul used))] }) inStep

/-- The end of engine 5's attempt with these observed sums. -/
def observed (rows cols : List (BitVec 48)) : CheckItem := { engine := 5, busy := 1, hread := 2, rows := rows, cols := cols, adder := none }

theorem witness_checksum_items :
    let good := observed [56] [23, 33]
    let ds := itemDots 0 (item [])
    itemOf (partOf (inMatmul []) 0) good = some (matmul [], item []) ∧ (partOf (inMatmul []) 0).step.isSome = true
      ∧ dramAsleep (inMatmul []) = true ∧ itemOdd (item []) ds = false
      ∧ itemPasses 0 0 (item []) good.rows good.cols = true ∧ itemPasses 0 0 (item []) [56] [23, 34] = false
      ∧ itemOf (partOf (inMatmul []) 0) (observed [56] [23]) = none
      ∧ itemOf (partOf (inMatmul [9, 12]) 0) good = some (matmul [9, 12], item [9, 12])
      ∧ retryOf (inMatmul []) 0 0 (matmul []) [5] = some (9, false) := by
  decide +kernel

/-- The items of the mx.mm after a command. -/
def itemsAfter (o : Res) : Option (List WorkItem) :=
  match o with
  | .next t => (mapGet none (partOf t 0).act 1).map Active.items
  | _ => none

/-- R150: an attempt whose sums do not agree sends the item to another engine; the third is taken whatever it is. -/
theorem test_checksum_item :
    itemsAfter (exec (.checksumItemCompare 0 0 (observed [56] [23, 34])) (inMatmul [])) = some [{ item [5] with engine := 9 }]
      ∧ (itemsAfter (exec (.checksumItemCompare 0 0 (observed [55] [23, 33])) (inMatmul [9, 12]))).map (List.map (fun x => x.res.isSome))
        = some [true] := by
  decide +kernel

theorem witness_integer_lanes : (item []).bad = [] ∧ itemCounts (item []) [56] [23, 33] = true := by decide +kernel

/-- Open health windows of engine 5 and of the adders of core 4, opened at 100 ns. -/
def withWindows : State :=
  fset HLM_HELM_STATE 1 { inStep with now := 600000000099, windows := [(5, some ⟨100, []⟩), (260, some ⟨100, []⟩)] }

theorem witness_health_window_closes :
    mapGet none withWindows.windows 5 = some ⟨100, []⟩ ∧ mapGet none withWindows.windows (256 + 4) = some ⟨100, []⟩
      ∧ since (elapse 1 withWindows) 100 = fget withWindows RAS_CTRL_WINDOW_S * 1000000000 ∧ helmHeld (elapse 1 withWindows) = true
      ∧ since (elapse 0 withWindows) 100 < fget withWindows RAS_CTRL_WINDOW_S * 1000000000
      ∧ helmHeld (elapse 0 (fset HLM_HELM_STATE 0 withWindows)) = false := by
  decide +kernel

theorem witness_step_runs_too_long :
    (partOf stuck 0).step.isSome = true ∧ (partOf stuck 0).destroying = 0 ∧ (partOf stuck 0).stuckAt = some 0
      ∧ stalled (partOf stuck 0) = true ∧ dramAsleep (elapse 512 stuck) = false ∧ seqIdle (elapse 512 stuck) 0 = true
      ∧ (elapse 512 stuck).cyc - 0 = 256000 ∧ ringsOk stuck
      ∧ ((partOf stuck 0).step.map (fun st => (st.estOver, st.est, st.admitCyc))) = some (false, 1000, 0)
      ∧ (elapse 2001 stuck).cyc / 1000 = 1000 ∧ (elapse 2002 stuck).cyc / 1000 = 1001 := by
  decide +kernel

theorem witness_commit_and_publish :
    (partOf committing 0).step.map (fun st => (st.commitAt, st.rows.length, lostWrites committing 0 st)) = some (some 70, 5, false)
      ∧ reqLive committing 0 1 = true ∧ reqLapses committing 1 1000 = false ∧ reqLapses committing 2 1000 = true
      ∧ reqLive committing 0 3 = false
      ∧ (let x : HeldStore := { handle := 7, fmt := FMT_INT8, elem := 4092, row := 0, stamp := 5, data := ⟨[1, 2, 3, 4], []⟩ }
        let s := updPart 0 (fun pt => { pt with step := pt.step.map (fun st => { st with stores := [x], rows := [] }) }) committing
        (partOf s 0).step.map StepSt.stores = some [x] ∧ (partOf s 0).step.map StepSt.segs = some []
          ∧ (partOf s 0).step.map StepSt.rows = some [] ∧ (partOf s 0).step.map StepSt.holds = some []
          ∧ tensorOf s 0 7 = some tn ∧ x.elem + 4 ≤ tn.size ∧ inWins s 0 (tn.home + 4092) 4 = true ∧ ringsOk s
          ∧ (∀ k < 4, inFwCopy (tn.home + 4092 + k) = false)
          ∧ (partOf s 0).step.map (lostWrites (elapse 0 s) 0) = some false)
      ∧ (let s := updPart 0 (fun pt => { pt with pub := some ⟨1000, 70, [], [], []⟩ }) committing
        (partOf s 0).pub.isSome = true ∧ windowOpen (updPart 0 (fun pt => { pt with pub := none }) s) = false
          ∧ dieOn s = true ∧ bellBad 70 = false ∧ (partOf s 0).destroying = 0
          ∧ fget (fset (EDC_SRC_CFG_OWNER 70) 0 s) (EDC_SRC_CFG_OWNER 70) = 0) := by
  decide +kernel

theorem witness_held_step_is_admitted :
    let pt := partOf heldAt 0
    pt.held.map HeldStep.est = some 1000 ∧ admitAllowed heldAt 0 = true ∧ pt.step = none ∧ pt.pub = none ∧ pt.used < pt.slots
      ∧ (heldAt.now.toNat : Int) * aclk heldAt + 1000 * 1000 ≤ (pt.limit.getD 0) * aclk heldAt
      ∧ admitAllowed (fset HLM_HELM_STATE 0 heldAt) 0 = false := by
  decide +kernel

theorem witness_tick_boundary :
    dieOn (elapse 10000000 heldAt) = true ∧ regGet heldAt TK_NEXT = (elapse 10000000 heldAt).now.toNat
      ∧ helmHeld heldAt = true ∧ helmHeld (fset HLM_HELM_STATE 0 heldAt) = false
      ∧ (elapse 9999999 heldAt).now.toNat < regGet heldAt TK_NEXT ∧ dieOn (fset GEN_STATE_MODE 1 heldAt) = false
      ∧ planEst (partOf heldAt 0) = some 1000 ∧ carriers heldAt 0 = [0]
      ∧ fbit (fset (TK_PART_MODE 0) 1 heldAt) (TK_PART_MODE 0) = true := by
  decide +kernel

theorem witness_ring_takes_a_command :
    meets (.reqCancel qc 0) served = true ∧ cmdMeets (asked (.reqCancel qc 1) served) qc (.reqCancel qc 0) = false
      ∧ qc.resv = false ∧ (let c := { qc with resv := true };
        cmdMeets (qUpd 0 (fun x => { x with ring := [(0, ((ringSpell (.reqCancel c 0)).map (entryOf 5)).getD 0)] }) served) c (.reqCancel c 0)
          = true)
      ∧ cmdPart qc = 0 ∧ (cmdOk 0 served).status ≠ ST_DMA_FAULT := by
  decide +kernel

/-- Word 1 of a request with a prompt of `n` and a greatest length of 100. -/
def promptW (n : Nat) : BitVec 64 := BitVec.ofNat 64 (n * 2 ^ 43 + 100 * 2 ^ 22)

theorem witness_request_admit :
    let e : ReqEnt := { reqFree with w1 := promptW 99 }
    let full := qTake 0 (fset (SRV_PART_COUNT 0) 4 served)
    (∀ n ∈ [0, 99, 100], meets (.reqAdmit qc 0 (promptW n) 0 0xFFFFFFFFFFFF0000) served = true)
      ∧ meets (.reqAdmit qc 0 (promptW 99) 0 0) (fset (SRV_PART_COUNT 0) 4 served) = true ∧ onlyBits (promptW 99).toNat admitMask1 = true ∧ onlyBits 0 admitMask0 = true
      ∧ onlyBits 0xFFFFFFFFFFFF0000 admitMask5 = true
      ∧ rqPromptLen { reqFree with w1 := promptW 0 } = 0 ∧ rqPromptLen e = 99
      ∧ admitBad (qTake 0 served) 0 e = false ∧ admitBad (qTake 0 served) 0 { reqFree with w1 := promptW 100 } = true
      ∧ (∀ i ∈ List.range 4, rqState (reqGet full i) ≠ RQ_FREE) ∧ fget full (SRV_PART_BASE 0) + fget full (SRV_PART_COUNT 0) = 4
      ∧ rqState (reqGet (qTake 0 served) 4) = RQ_FREE ∧ fget (qTake 0 served) (SRV_PART_COUNT 0) = 8 := by
  decide +kernel

theorem witness_request_state_checked :
    ([0, 1, 3, 7, 8].all (fun i => [Instr.reqCancel qc i, .reqFinish qc i, .reqPause qc i, .reqResume qc i, .reqSet qc i 0 0 0 0 63,
        .reqRetire qc i, .reqQuery qc i 64 ⟨true, []⟩].all (fun c => meets c served))) = true
      ∧ onlyBits 0 setMask0 = true ∧ onlyBits 0 admitMask5 = true
      ∧ reqInRange (qTake 0 served) 0 8 = false ∧ reqInRange (qTake 0 served) 0 7 = true
      ∧ rqState (reqGet (qTake 0 served) 0) = RQ_ADMITTED ∧ rqState (reqGet (qTake 0 served) 1) = RQ_ACTIVE
      ∧ rqState (reqGet (qTake 0 served) 3) = RQ_DONE ∧ rqState (reqGet (qTake 0 served) 7) = RQ_FREE := by
  decide +kernel

theorem witness_request_ends :
    let u := qTake 0 served
    ([0, 1, 2].all (fun i => meets (.reqCancel qc i) served && meets (.reqFinish qc i) served)) = true
      ∧ reqInRange u 0 0 = true ∧ rqState (reqGet u 0) = RQ_ADMITTED ∧ rqState (reqGet u 1) = RQ_ACTIVE
      ∧ rqState (reqGet u 2) = RQ_PAUSED ∧ (∀ i ∈ [0, 1, 2], rqCompanion (reqGet u i) = false)
      ∧ (partOf (updPart 0 (fun pt => { pt with step := some stepNone }) u) 0).step.isSome = true := by
  decide +kernel

theorem witness_request_changes :
    let u := qTake 0 served
    meets (.reqPause qc 1) served = true ∧ meets (.reqResume qc 2) served = true
      ∧ meets (.reqSet qc 2 0 0x01EF000000000000 7 0xFFFFFFFFFFFF0000 63) served = true
      ∧ meets (.reqQuery qc 3 64 ⟨true, []⟩) served = true ∧ rqCompanion (reqGet u 1) = false ∧ rqCompanion (reqGet u 2) = false
      ∧ reqInRange u 0 1 = true ∧ reqInRange u 0 3 = true ∧ reqInRange u 0 2 = true ∧ rqState (reqGet u 1) = RQ_ACTIVE ∧ rqState (reqGet u 2) = RQ_PAUSED
      ∧ rqState (reqGet u 3) = RQ_DONE ∧ onlyBits 0x01EF000000000000 setMask0 = true
      ∧ onlyBits 0xFFFFFFFFFFFF0000 admitMask5 = true := by
  decide +kernel

theorem witness_request_retire :
    let u := qTake 0 served
    meets (.reqRetire qc 3) served = true ∧ reqInRange u 0 3 = true ∧ rqState (reqGet u 3) = RQ_DONE ∧ reqPagesFree u 0 3 = true
      ∧ reqPagesFree { u with kvCtxs := [(3, 1)] } 0 3 = false := by
  decide +kernel

theorem witness_completion_entry : (1023 : Nat) < 1024 := by decide

/-- An image of one instruction word and one descriptor, by R71 and R72. -/
def image : List Byte :=
  leBytes 4 0x41495052 ++ leBytes 2 0x0100 ++ leBytes 2 1 ++ leBytes 4 1 ++ leBytes 52 0 ++ List.replicate 512 0
    ++ leBytes 32 7 ++ leBytes 16 (0xA0 * 2 ^ 120)

theorem witness_load_image :
    let c := Instr.loadImage qc 64 624 ⟨true, image⟩
    let u := qTake 0 (ring (at0 { prog with running := false }))
    meets c (ring (at0 prog)) = true ∧ (partOf (qTake 0 (ring (at0 prog))) 0).running = true
      ∧ meets c (ring (at0 { prog with running := false })) = true ∧ (partOf u 0).running = false
      ∧ image.length = 624 ∧ imgOk u 0 image = true ∧ imgOk u 0 (image.drop 1) = false := by
  decide +kernel

theorem witness_resume_and_halt :
    ([prog, { prog with loaded := false }, { prog with running := false, resumePc := 3 }, { prog with held := some ⟨3, 0, 1⟩ }].all
        (fun pt => meets (.programResume qc) (ring (at0 pt)) && meets (.programHalt qc) (ring (at0 pt)))) = true
      ∧ prog.loaded = true ∧ prog.running = true ∧ prog.held = none ∧ prog.words.length = 4 := by
  decide +kernel

/-- REGISTER of 4 KiB in DRAM. -/
def regOps : RegisterOps :=
  { size := 4096, cls := 0, writable := 1, location := 0, pad := 0, object := 0, kvFormat := 0, kvHeads := 0, kvWidth := 0 }

theorem witness_tensor_handles :
    let u := qTake 0 roomy
    let kv := { regOps with size := 0x1000000, cls := 2, kvFormat := 0x13, kvHeads := 8, kvWidth := 64 }
    ([regOps, kv, { regOps with pad := 1 }, { regOps with cls := 1 }].all (fun r => meets (.tensorRegister qc r) roomy)) = true
      ∧ ([7, 9].all (fun h => meets (.tensorRelease qc h) roomy && meets (.tensorExport qc h 1) roomy)) = true
      ∧ registerBad { regOps with pad := 1 } = true ∧ registerBad regOps = false
      ∧ freeSpot u 0 4096 [0, 1, 2, 3, 4, 5] = some 4096
      ∧ registerBad { regOps with cls := 1 } = false
      ∧ registerBad kv = false ∧ kvRegisterBad (tensorNew 0 kv 0) = none ∧ (freeSpot u 0 0x1000000 [0, 1, 2, 3, 4, 5]).isSome = true
      ∧ tensorOf u 0 9 = none ∧ tensorOf u 0 7 = some tn ∧ tn.slot = none ∧ tn.cls = 0 := by
  decide +kernel

/-- Of the two cases of a Flask object, one without a key in its header and one with a key, the first is accepted, and the second
where the key stands in its slot. -/
theorem witness_tensor_handles_flask :
    let u := fset (⟨SEC_KEYS, 63, 0⟩ : Fld) 0xFFFFFFFFFFFFFFFF { qTake 0 roomy with idReady := true }
    flaskBad u 0 5 = none := by
  have h : ∀ k < 64, bitOf (regGet (fset (⟨SEC_KEYS, 63, 0⟩ : Fld) 0xFFFFFFFFFFFFFFFF { qTake 0 roomy with idReady := true }) SEC_KEYS) k
      = true := by decide +kernel
  have hn : flaskCount (fset (⟨SEC_KEYS, 63, 0⟩ : Fld) 0xFFFFFFFFFFFFFFFF { qTake 0 roomy with idReady := true }) 0 = 0 := by
    decide +kernel
  simp only [flaskBad, hn]
  cases hk : flaskKey 5 with
  | none => rfl
  | some k =>
    have hl : k < 64 := by
      unfold flaskKey at hk
      dsimp only at hk
      split at hk
      · cases hk; exact Nat.mod_lt _ (by omega)
      · cases hk
    simp only [h k hl]
    rfl

theorem witness_tensor_data :
    let u := qTake 0 roomy
    ([4092, 4093].all (fun o => meets (.tensorWrite qc 7 0 o 64 4 ⟨true, [1, 2, 3, 4]⟩) roomy
        && meets (.tensorRead qc 7 0 o 64 4 ⟨true, []⟩) roomy)) = true
      ∧ u.dramErrs = [] ∧ poisoned u 4092 4 = false ∧ stepIsOpen u = false
      ∧ tensorOf u 0 7 = some tn ∧ tn.size < 4093 + 4 ∧ 4092 + 4 ≤ tn.size ∧ inWins u 0 4092 4 = true
      ∧ mirrorsOf u = [] ∧ tensorOf { u with tensors := [(7, some { tn with flask := true })] } 0 7 = some { tn with flask := true }
      ∧ tensorOf { u with tensors := [(7, some { tn with cls := 1 })] } 0 7 = some { tn with cls := 1 } := by
  decide +kernel

/-- A record that waits for room in a completion ring since time 0. -/
def waits (async : Bool) : RingWait := ⟨{ typ := 2, status := 0, tag := 0, value := 0, stamp := 0, payload := 0 }, async, 0⟩

theorem witness_queue_doorbells :
    qOpen roomy 0 = true ∧ qOpen roomy 1 = false ∧ sqSize roomy 0 = 64 ∧ cqSize roomy 0 = 64 ∧ (qGet roomy 0).cqHead = 0
      ∧ (qGet roomy 0).sqTail = 1 ∧ fget roomy (CMD_CFG_SQ_LOG2 (qPart 0) (qLocal 0)) = 6 ∧ dieOn roomy = true
      ∧ dieOn (fset GEN_STATE_MODE 1 roomy) = false ∧ qPart 0 = 0
      ∧ (let v := { roomy with power := { roomy.power with vfEnabled := true } }
        vfGone v 0 = false ∧ vfGone (updPart 0 (fun pt => { pt with vfDown := true }) v) 0 = true)
      ∧ vfGone (fset (SEC_PART_STATE 0) PART_FREE roomy) 0 = true := by
  decide +kernel

theorem witness_queue_configuration :
    dieOn roomy = true ∧ fget roomy (CMD_CFG_EN 0 1) = 0 ∧ fget roomy (CMD_CFG_EN 0 0) = 1
      ∧ fget roomy (SEC_PART_STATE 0) ≠ PART_FREE ∧ fieldGet 0x80100400 20 16 = 16 ∧ fieldGet 0x80100400 12 8 = 4
      ∧ (0x80100400 : BitVec 32).getLsbD 31 = true
      ∧ (let s := qUpd 0 (fun x => { x with waiting := [waits true, waits false] }) roomy
        since (elapse 1000000 s) 0 = 1000000 ∧ (qGet s 0).waiting = [waits true, waits false]) := by
  decide +kernel

theorem witness_events :
    dieOn roomy = true ∧ bellBad (evSource .stateChange) = false ∧ bellBad (evSource .flowLost) = false
      ∧ evAlerts .flowLost = true := by
  decide +kernel

theorem witness_doorbells :
    dieOn roomy = true ∧ (∀ n ∈ [0, 17, 63, 1023], bellBad n = true) ∧ (∀ n ∈ [1, 16, 64, 1022], bellBad n = false)
      ∧ fieldGet 0x400 30 10 ≠ 0 ∧ fieldGet 0x80000046 9 0 = 70 ∧ bellOwner roomy .pf = none
      ∧ bellOwner roomy (.vf 0) = some (fget (fset (EDC_SRC_CFG_OWNER 70) 0 roomy) (EDC_SRC_CFG_OWNER 70))
      ∧ bellOwner roomy (.program 1) ≠ some (fget (fset (EDC_SRC_CFG_OWNER 70) 0 roomy) (EDC_SRC_CFG_OWNER 70)) := by
  decide +kernel

/-- Sources 70 and 200 pend for context 2 at the same priority. -/
def bells : State :=
  edcSetBit EDC_PEND 70 true (edcSetBit EDC_PEND 200 true (edcSetBit EDC_MASK 70 false (edcSetBit EDC_MASK 200 false
    (fset (EDC_SRC_CFG_PRIO 200) 9 (fset (EDC_SRC_CFG_PRIO 70) 9 (fset (EDC_SRC_CFG_CTX 200) 2 (fset (EDC_SRC_CFG_CTX 70) 2 roomy)))))))

theorem witness_claim_and_complete :
    edcWinner (edcElig bells) 2 = some 70 ∧ dieOn bells = true ∧ edcWinner (edcElig bells) 27 = none
      ∧ fget bells (EDC_CTX_STATUS_NOTIFIED 27) = 0
      ∧ fget (fset (EDC_CTX_STATUS_NOTIFIED 27) 1 bells) (EDC_CTX_STATUS_NOTIFIED 27) = 1
      ∧ edcWinner (edcElig (fset (EDC_CTX_STATUS_NOTIFIED 27) 1 bells)) 27 = none ∧ mapGet 0 bells.edcCtx 70 ≠ 2 + 1
      ∧ mapGet 0 { bells with edcCtx := [(70, 3)] }.edcCtx 70 = 2 + 1 := by
  decide +kernel

theorem witness_edc_lock :
    dieOn roomy = true ∧ lockCode .lantern = 5 ∧ fget roomy EDC_LOCK_OWNER = 0
      ∧ fget (fset EDC_LOCK_OWNER 5 roomy) EDC_LOCK_OWNER = 5 ∧ since (elapse 100001 roomy) roomy.edcLockAt = 100001 := by
  decide +kernel

/-- QP_MODIFY of queue pair `n` to state `st`, MTU code 3. -/
def toState (n : BitVec 16) (st : BitVec 8) : QpModifyOps :=
  { qp := n, state := st, mtu := 3, remoteQp := 9, sendPsn := 1, recvPsn := 2, gid := 0, tclass := 0 }

theorem witness_queue_pairs :
    ((List.range 5).all (fun st => decide (qpOf (qTake 0 (linked st)) 0 5 = some (qp st))
        && [0, 1, 2, 3, 4, 5].all (fun x => meets (.qpModify qc (toState 5 x)) (linked st)))) = true
      ∧ meets (.qpModify qc (toState 8 1)) (linked 0) = true
      ∧ ([0, 3, 4].all (fun p => meets (.qpCreate qc p) (linked 0))) = true
      ∧ ([5, 8].all (fun n => meets (.qpDestroy qc n) (linked 0))) = true
      ∧ fget (qTake 0 (linked 0)) (NET_PART_W3_QP_BASE 0) = 5 ∧ fget (qTake 0 (linked 0)) (NET_PART_W3_QP_COUNT 0) = 3
      ∧ mapGet none (qTake 0 (linked 0)).qps 6 = none ∧ mapGet none (qTake 0 (linked 0)).qps 5 ≠ none
      ∧ qpOf (qTake 0 (linked 0)) 0 8 = none := by
  decide +kernel

theorem witness_memory_regions :
    let s := { linked 0 with mrs := [(3, some ⟨0, 7, true, true⟩), (4, some ⟨1, 7, true, true⟩)] }
    ([7, 9].all (fun h => meets (.mrReg qc h 3) s) && [3, 4].all (fun k => meets (.mrDereg qc k) s)) = true
      ∧ tensorOf (qTake 0 s) 0 7 = some tn ∧ tn.slot = none ∧ tn.cls ≠ 1 ∧ tensorOf (qTake 0 s) 0 9 = none
      ∧ mapGet none (qTake 0 s).mrs 3 = some ⟨0, 7, true, true⟩ ∧ mapGet none (qTake 0 s).mrs 4 = some ⟨1, 7, true, true⟩ := by
  decide +kernel

/-- A send of all of tensor 7. -/
def sendOps : PostSendOps := { qp := 5, op := 3, pad := 0, handle := 7, off := 0, raddr := 0, len := 4096, rkey := 0, imm := 0 }

theorem witness_posts :
    let u := qTake 0 (linked 3)
    meets (.postSend qc sendOps) (linked 3) = true ∧ meets (.postRecv qc 5 0 7 0 4096) (linked 3) = true
      ∧ qpOf u 0 5 = some (qp 3) ∧ (qp 3).state = QP_RTS ∧ mode u ≠ MODE_SAFE ∧ mode u ≠ MODE_FENCED
      ∧ tensorOf u 0 7 = some tn ∧ tn.slot = none ∧ tn.cls ≠ 1 ∧ tn.lost = false ∧ 0 + 4096 ≤ tn.size := by
  decide +kernel

/-- A packet for queue pair 5 that carries a whole SEND of four bytes. -/
def packet : RocePkt :=
  { addr := addr0, qp := 5, op := 0, psn := 0xFFFFFF, icrcOk := true, ecn := false, first := true, last := true, valid := true, rkey := 0
    raddr := 0, len := 0, imm := none, data := [1, 2, 3, 4] }

/-- A send that has gone out at time 0 and been retried six times. -/
def sent : Posted :=
  { queue := 0, no := 3, tag := 5, op := 0, psn := 4, npsn := 1, handle := 7, off := 0, raddr := 0, len := 4, rkey := 0, imm := 0
    data := [1, 2, 3, 4], sentAt := 0, retries := 6, rnrRetries := 7, rnr := false }

theorem witness_roce_packets :
    let s := elapse 0 (linked 2)
    let far : NetAddr := { addr0 with dst := 0x122233445566 }
    let bcast : NetAddr := { addr0 with dst := 0xFFFFFFFFFFFF }
    portUp s 0 = true ∧ portsServe s = true ∧ roceTo s 0 addr0 = some 0 ∧ mapGet none s.qps 5 = some (qp 2) ∧ mapGet none s.qps 6 = none
      ∧ roceTo s 0 far = none ∧ noRow s 0 far = true ∧ roceTo s 0 bcast = none ∧ noRow s 0 bcast = false
      ∧ qpTakes (qp 2) 0 0 packet = true ∧ qpTakes (qp 0) 0 0 packet = false
      ∧ qpTakes (qp 3) 0 0 { packet with op := 4 } = true
      ∧ packet.psn.toNat = (qp 2).recvPsn ∧ packet.data.length ≤ 16
      ∧ tensorOf s 0 7 = some tn ∧ tn.flask = false ∧ inWins s 0 (tn.home + 64) 4 = true ∧ ringsOk s
      ∧ (∀ i < 4, inFwCopy (tn.home + 64 + i) = false) ∧ serialBefore 24 1 (qp 2).recvPsn = false := by
  decide +kernel

theorem witness_roce_timers :
    let s := elapse 0 (linked 2)
    since (elapse 67108864 s) sent.sentAt = 67108864 ∧ sent.retries < 7 ∧ 7 ≤ sent.rnrRetries
      ∧ (mapGet none { s with qps := [(5, some { qp 3 with sends := [sent] })] }.qps 5).map Qp.sends = some [sent]
      ∧ since (elapse 55000 s) (qp 2).rateAt = 55000 ∧ ¬(qp 2).rate < rateFull ∧ rateFull ≤ (qp 2).rate
      ∧ { qp 2 with rate := rateFull - 1 }.rate < rateFull := by
  decide +kernel

/-- The keys of slots 0 and 63 stand, and identity is ready. -/
def keyed : State := fset (⟨SEC_KEYS, 63, 0⟩ : Fld) 0x8000000000000001 { roomy with idReady := true }

theorem witness_identity_commands :
    let u := qTake 0 keyed
    ([keyed, roomy].all (fun s => meets (.secQuote qc 7 64 1024 0 ⟨true, []⟩) s
        && meets (.secCert qc 64 16384 ⟨true, []⟩) s && meets (.secCert qc 64 16383 ⟨true, []⟩) s)) = true
      ∧ ([0, 1, 63].all (fun i => meets (.keyImport qc i 0 64 ⟨true, []⟩) keyed && meets (.keyDelete qc i) keyed)) = true
      ∧ windowOpen keyed = false ∧ quotePart qc 0 u < 8 ∧ quotePart qc 7 u = 7 ∧ (quoteList u 0).length = 0
      ∧ roomy.idReady = false ∧ fromVf qc u = false ∧ (regGet u SEC_KEYS).testBit 0 = true
      ∧ (regGet u SEC_KEYS).testBit 63 = true ∧ (regGet u SEC_KEYS).testBit 1 = false ∧ u.idReady = true
      ∧ fromVf qc (qTake 0 (qUpd 0 (fun x => { x with func := 1 }) keyed)) = true
      ∧ windowOpen (updPart 0 (fun pt => { pt with pub := some ⟨0, 0, [], [], []⟩ }) keyed) = true := by
  decide +kernel

theorem witness_codec_slots :
    let s := camera
    dieOn s = true ∧ fbit s (VCC_SLOT_CFG_EN 5) = false
      ∧ (let set := fun (v : BitVec 64) => regSet (VCC_SLOT_CFG 5)
          (mergeBits (regGet s (VCC_SLOT_CFG 5)) (2 ^ 60 - 2 ^ 45 + (2 ^ 43 - 2 ^ 28)) (setBit v.toNat 60 true)) s;
        enableRefused (set (slotCfg KIND_DECODE)) 5 = none ∧ enableRefused (set (slotCfg 3)) 5 = some 3)
      ∧ fbit (filming KIND_DECODE) (VCC_SLOT_CFG_EN 5) = true := by
  decide +kernel

/-- The decode slot with its buffers READY under handle 40. -/
def shown : State :=
  slot5 (fun x => { x with bufs := x.bufs.map (fun b => { b with state := BUF_READY, handle := 40 }) }) (filming KIND_DECODE)

theorem witness_codec_slot_commands :
    ((bufList (slotGet shown 5)).find? (fun b => b.1.handle == 40 && (40 : Nat) != 0)).map (fun b => (b.1.state, bufHeld shown 5 b.2))
        = some (BUF_READY, false)
      ∧ fbit shown (VCC_SLOT_CFG_EXPLICIT 5) = true ∧ slotOwn (qTake 0 shown) 0 5 = true
      ∧ slotOwn (qTake 0 (fset (VCC_SLOT_CFG_PART 5) 1 shown)) 0 5 = false
      ∧ (slotGet (qTake 0 shown) 5).bufs.any (fun b => b.handle == 40) = true
      ∧ ([shown, encoding].all (fun s => [Instr.vccLatest qc 5, .vccReleaseFrame qc 5 0 40, .vccSubmit qc 5 0 7 9].all (fun c => meets c s)))
          = true
      ∧ slotRuns encoding 5 KIND_ENCODE = true ∧ (tensorOf encoding 0 7).map (submitFits encoding 5) = some true
      ∧ (slotGet encoding 5).subs.length < 2 ∧ slotPart encoding 5 = 0 := by
  decide +kernel

theorem witness_codec_packets :
    let s := gathering
    let x := slotGet s 5
    let near := rtp 12 5000 false
    slotRuns s 5 KIND_DECODE = true ∧ slotReached s 5 = true ∧ portUp s 0 = true ∧ portsServe s = true
      ∧ slotTo s 0 near.addr near.udp = some 5 ∧ slotTo s 0 near.addr (near.udp + 1) = none
      ∧ noRow s 0 { addr0 with dst := 0x122233445566 } = true ∧ slotTo s 0 { addr0 with dst := 0x122233445566 } near.udp = none
      ∧ x.ssrc = some 77 ∧ fget s (VCC_SLOT_NET_PT 5) = 96 ∧ near.pt.toNat = 96
      ∧ x.frames = [frameOf 5000] ∧ x.ends = [] ∧ x.lastExt = some 5000
      ∧ extendTs x.lastExt 5000 = (5000, false) ∧ extendTs x.lastExt 5001 = (5001, false)
      ∧ since (elapse 66665766 s) (frameOf 5000).firstAt = 66666666 ∧ twoPeriods s 5 = 66666666 ∧ reorderNs s 5 = 2000000
      ∧ (slotGet (slot5 (fun x => { x with frames := [], ends := [(5000, 11)] }) s) 5).ends = [(5000, 11)] := by
  decide +kernel

/-- A whole picture in one slice. -/
def sliceOut : SliceOut := { ctus := ctuCols encoding 5 * ctuRows encoding 5, motion := [], sets := [], data := [1, 2, 3] }

theorem witness_codec_streams :
    (let t := slot5 (fun x => { x with frames := [{ frameOf 5000 with done := true }] }) gathering;
      committable (slotGet t 5) = [{ frameOf 5000 with done := true }] ∧ bufOpen t 5 = some 0 ∧ bufPick t 5 = some (0, false)
        ∧ fbit t (VCC_SLOT_CFG_EXPLICIT 5) = true ∧ fbit t (VCC_SLOT_STATUS_IRAP_SEEN 5) = false
        ∧ (let full := slot5 (fun x => { x with bufs := x.bufs.map (fun b => { b with state := BUF_READY }) }) t;
          bufOpen full 5 = none ∧ bufPick full 5 = none))
      ∧ (let t := slot5 (fun x => { x with ready := [frameOf 4000] }) (fset (VCC_SLOT_CFG_KIND 5) KIND_SENSOR gathering);
        slotRuns t 5 KIND_SENSOR = true ∧ (slotGet t 5).waiting = [] ∧ (slotGet t 5).ready = [frameOf 4000] ∧ bufOpen t 5 = some 0)
      ∧ slotRuns encoding 5 KIND_ENCODE = true ∧ fbit encoding (VCC_SLOT_NET_TX 5) = false ∧ (slotGet encoding 5).coding = none
      ∧ (let c : Coding := { handle := 7, stamp := 9, source := [], coded := 0, window := none, loaded := 0 };
        sliceOk encoding 5 c sliceOut = true ∧ sliceOk encoding 5 c { sliceOut with ctus := 0 } = false
          ∧ (slotGet (slot5 (fun x => { x with coding := some c }) encoding) 5).coding = some c
          ∧ (slotGet (slot5 (fun x => { x with subs := [(7, 9)] }) encoding) 5).subs = [(7, 9)])
      ∧ (tensorOf encoding 0 7).isSome = true := by
  decide +kernel

/-- Both contacts closed. -/
def closed (s : State) : State := fset GEN_SLOT_TRAY_PRESENT 1 (fset GEN_SLOT_PWR_EN 1 s)

theorem witness_power_domains :
    mode (live 0) = MODE_OFF ∧ mode State.reset ≠ MODE_OFF
      ∧ contactNew State.reset GEN_SLOT_PWR_EN true 999999 = false ∧ contactNew State.reset GEN_SLOT_PWR_EN true 1000000 = true
      ∧ contactNew State.reset GEN_SLOT_TRAY_PRESENT true 999999 = false
      ∧ contactNew State.reset GEN_SLOT_TRAY_PRESENT true 1000000 = true
      ∧ contactNew (closed roomy) GEN_SLOT_PWR_EN false 1000000 = true
      ∧ contactNew (closed roomy) GEN_SLOT_TRAY_PRESENT false 1000000 = true ∧ dieOn (closed roomy) = true
      ∧ mode (closed State.reset) = MODE_STANDBY ∧ contactsOn (closed State.reset) = true
      ∧ mode (closed (live MODE_SAFE)) = MODE_SAFE ∧ contactsOn (closed (live MODE_SAFE)) = true := by
  decide +kernel

theorem witness_boot_phases :
    (∀ n ∈ [1, 2, 3, 4, 5], inPhase (elapse 0 (booting n)) n = true)
      ∧ since (booting 1) (booting 1).power.upAt = 2000000000 ∧ flowShown (booting 1) = true
      ∧ flowShown { booting 1 with therm := thermReset } = false ∧ (booting 1).fw.fwSvn = 0
      ∧ jSelect { booting 3 with jArea0 := ⟨[], none⟩ } = none
      ∧ jSelect (booting 3) = some 0 ∧ (jArea (booting 3) 0).epoch = some (booting 3).fw.jrnEpoch
      ∧ fbit (booting 5) HLM_QUORUM_FENCED = false ∧ fbit (fset HLM_QUORUM_FENCED 1 (booting 5)) HLM_QUORUM_FENCED = true
      ∧ dieOn (booting 1) = true ∧ ({ booting 1 with fw := { fwReset with update := 5 } } : State).fw.update = 5 := by
  decide +kernel

/-- The host's link of a module whose VFs are enabled; vector 5 of the PF and vectors 1 and 2 of VF 2 hold a message. -/
def hosted : State :=
  { roomy with power := { powerReset with phase := 5, vfEnabled := true }, msixOn := [(0, true), (3, true)]
               vecOpen := [(0, true), (769, true)], msixHeld := [(0, 5), (3, 1), (3, 2)] }

theorem witness_host_link :
    dieOn (elapse 0 hosted) = true ∧ dieOn hosted = true ∧ 2 ≤ (elapse 0 hosted).power.phase ∧ mode (elapse 0 roomy) ≠ MODE_BOOT
      ∧ mode (elapse 0 hosted) ≠ MODE_RECOVERY
      ∧ hosted.power.vfEnabled = true ∧ roomy.power.vfEnabled = false
      ∧ decide (funcVecs 3 ≤ 31) = false ∧ decide (funcVecs 0 ≤ 255) = false ∧ decide (funcVecs 3 ≤ 32) = true
      ∧ (mapGet false hosted.msixOn 3 && mapGet false hosted.vecOpen 769) = true
      ∧ (mapGet false hosted.msixOn 3 && mapGet false hosted.vecOpen 770) = false
      ∧ fbit (elapse 0 (fset NET_STATUS_HL_UP 1 hosted)) NET_STATUS_HL_UP = true
      ∧ fbit (fset NET_HL_STATUS_CAPTURED 1 hosted) NET_HL_STATUS_CAPTURED = true ∧ fbit hosted NET_HL_STATUS_CAPTURED = false
      ∧ qReady (elapse 0 roomy) 0 = true
      ∧ (partOf roomy 0).running = true ∧ (partOf roomy 0).held = none
      ∧ 1 ∈ reqsOf served 0 ∧ rqCompanion (reqGet served 1) = false
      ∧ reqLive served 0 1 = true ∧ 2 ∈ reqsOf served 0 ∧ rqState (reqGet served 2) = RQ_PAUSED
      ∧ (qGet (qUpd 0 (fun x => { x with func := 1 }) hosted) 0).func = (0 : Nat) + 1 := by
  decide +kernel

/-- Tensor 7 exported under handle 9, read-only where `ro`. -/
def exported (ro : Bool) : State := { hosted with acxHandles := [(9, some (7, ro))] }

theorem witness_outside_accesses :
    let bar := { hosted with power := { hosted.power with pfBar2 := 4 } }
    dramOn hosted = true ∧ mirrorsOf hosted = [] ∧ dramAsleep hosted = false ∧ trainingStack hosted = none
      ∧ (∀ i < 6, fget hosted (MEM_STACK_STATE i) = 0) ∧ 2 ^ 34 - 4 + 4 ≤ pfBar2 hosted ∧ pfBase hosted + (2 ^ 34 - 4) + 4 ≤ dramEnd
      ∧ 2 ^ 38 - 4 + 4 ≤ pfBar2 bar
      ∧ poisoned hosted (2 ^ 34 - 4) 4 = false ∧ pfBar2 hosted < 2 ^ 34 - 3 + 4 ∧ inFwCopy 0 = false ∧ inFwCopy 64 = false
      ∧ fwTwin fwCopy0 = some fwCopy1 ∧ fwTwin 0 = none ∧ ringsOk hosted ∧ hosted.dramErrs = []
      ∧ roomy.power.vfEnabled = false ∧ hosted.power.vfEnabled = true ∧ vfGone hosted 0 = false
      ∧ 2 ^ 26 - 4 + 4 ≤ vfBar2 hosted ∧ 2 ^ 26 - 4 + 4 ≤ winTotal hosted 0
      ∧ mapGet none (exported false).acxHandles 9 = some (7, false) ∧ mapGet none (exported true).acxHandles 9 = some (7, true)
      ∧ mapGet none (exported true).tensors 7 = some tn ∧ 4092 + 4 ≤ tn.size ∧ tn.size < 4093 + 4
      ∧ tn.flask = false ∧ tn.lost = false
      ∧ inWins (exported false) tn.part (tn.home + 4092) 4 = true ∧ mapGet none hosted.acxHandles 9 = none
      ∧ (⟨4, .uncorrectable⟩ : DramErr).kind = .uncorrectable ∧ (250 : Nat) < 4 * 64 + 64 ∧ 4 * 64 < 256 + 1 := by
  decide +kernel

/-- A well-formed frame to `dst` of four bytes of data. -/
def frameTo (dst : BitVec 48) : EthFrame :=
  { fcsOk := true, size := 64, stacked := false, fragment := false, sumsOk := true, pause := false, addr := { addr0 with dst := dst }, src := 2
    etype := 0x800, udp := none, data := [1, 2, 3, 4] }

theorem witness_ethernet :
    let s := elapse 0 (linked 3)
    let f := frameTo
    portUp s 0 = true ∧ mode s ≠ MODE_OFF ∧ portZeroOnly s = false ∧ badFrame s 0 { f 1 with size := 63 } = true
      ∧ badFrame s 0 { f 1 with size := 9217 } = true ∧ badFrame s 0 (f 1) = false ∧ badFrame s 0 { f 1 with size := 9216 } = false
      ∧ unitFrame s 0 (f 1) = false ∧ unitFrame s 0 { f 1 with udp := some 4791 } = true
      ∧ queueTo s 0 (f 1).addr = some 0 ∧ queueTo s 0 (f 0).addr = none ∧ toAcx s 0 (f 0).addr = true
      ∧ queueTo s 0 (f 78).addr = none ∧ toAcx s 0 (f 78).addr = false
      ∧ modeOk s 0 0 = true ∧ s.therm.xoLost = false ∧ portUp s 1 = false
      ∧ dieOn (linked 3) = true ∧ txGated (linked 3) (.acx 0) = false ∧ txPort (linked 3) (.acx 0) 0 = true
      ∧ txGated (linked 3) .mgmt = false ∧ txPort (linked 3) .mgmt 0 = true
      ∧ txGated (fset HLM_QUORUM_FENCED 1 (linked 3)) (.acx 0) = true := by
  decide +kernel

/-- The module 100 s after reset, a Steward at its helm, ACLK at 500 MHz. -/
def warm : State := fset HLM_HELM_STATE 1 (fset CLK_ACLK_CUR_MHZ 500 { linked 3 with now := 100000000000 })

/-- Changes the clock and coolant conditions. -/
def therm (f : ThermSt → ThermSt) (s : State) : State := { s with therm := f s.therm }

/-- The timebase follows source `n`, its last sample came at time 0, an edge came at time `e`. -/
def onPtp (n : Nat) (e : BitVec 64) (s : State) : State :=
  fset TB_CTRL_SRC n (fset NET_PTP_PORT_EN 1 { s with time := { s.time with edges := 1, lastEdge := some e } })

theorem witness_clocks :
    let s := elapse 0 warm
    let lost := elapse 0 (therm (fun x => { x with xoLost := true, refLost := true }) warm)
    dieOn s = true ∧ s.therm.xoLost = false ∧ s.therm.refLost = false ∧ lost.therm.xoLost = true ∧ lost.therm.refLost = true
      ∧ 100 ≤ fget s CLK_ACLK_CUR_MHZ ∧ fget s CLK_ACLK_CUR_MHZ ≤ 500
      ∧ 100 ≤ fget (fset CLK_ACLK_CUR_MHZ 100 warm) CLK_ACLK_CUR_MHZ ∧ helmHeld (fset HLM_HELM_STATE 0 warm) = false := by
  decide +kernel

theorem witness_edges :
    let early := elapse 0 (onPtp 2 99100000001 warm)
    let due := fun (n : Nat) => elapse 0 (onPtp n 99100000000 warm)
    mode early ≠ MODE_OFF ∧ edgeEarly early = true ∧ ([0, 1, 2, 3].all (fun n => !edgeEarly (due n) && fget (due n) TB_CTRL_SRC == n)) = true
      ∧ ({ due 3 with time := { (due 3).time with ptpEst := some 5 } } : State).time.ptpEst = some 5
      ∧ tbSteps (due 1) 1000000001 = true ∧ tbSteps (due 1) 0 = false
      ∧ fget early TB_CTRL_SRC = 2 ∧ 3000000000 ≤ since early early.time.lastSample ∧ fget early TB_STATUS_HOLDOVER = 0
      ∧ edgesMissed (elapse 0 (onPtp 1 9 warm)) = true ∧ edgesMissed { warm with now := 5 } = false
      ∧ since { warm with now := 5 } warm.time.lastSample < 3000000000 := by
  decide +kernel

/-- Port 0 follows a master, with the last Sync's number, the delay, and a delay request under way. -/
def following : State :=
  let s := fset NET_PTP_SLAVE_PORT 0 (onPtp 2 99100000000 warm)
  { s with time := { s.time with ptp := { ptpReset with
      masters := [(0, some 9)], lastSync := some 6, delay := some 3, req := some (8, 50), diff := some 4 } } }

/-- A PTP message of domain 0 over UDP. -/
def ptp (seq : BitVec 16) (stamped : Bool) (body : PtpBody) : PtpMsg := { domain := 0, l2 := false, seq := seq, stamped := stamped, body := body }

theorem witness_ptp :
    let s := elapse 0 following
    let v := bestMaster s
    mode s ≠ MODE_OFF ∧ portZeroOnly s = false ∧ ptpOn s 0 = true ∧ fget v NET_PTP_SLAVE_PORT = 0
      ∧ fget s NET_PTP_DOMAIN = 0 ∧ fbit s NET_PTP_L2 = false ∧ fbit s NET_PTP_P2P = false
      ∧ ptpEvent (.sync (some 1)) = true ∧ v.time.ptp.delay = some 3 ∧ v.time.ptp.lastSync = some ((ptp 7 true .delayReq).seq - 1)
      ∧ v.time.ptp.req = some (8, 50) ∧ v.time.ptp.diff = some 4 ∧ fget s TB_CTRL_SRC = 2
      ∧ (let free := elapse 0 (onPtp 2 99100000000 warm);
        mapGet none free.time.ptp.masters 0 = none ∧ ptpOn free 0 = true ∧ fget (bestMaster free) NET_PTP_SLAVE_PORT ≠ 0) := by
  decide +kernel

/-- Diode, ring and model of hot spot 3 read so, and its sensors disagree since time 0. -/
def spot3 (d o m : Nat) : State :=
  fset (THM_HS_DISAGREE 3) 1 (fset (THM_HS_DIODE 3) d (fset (THM_HS_RING 3) o (fset (THM_FC_MODEL 3) m warm)))

theorem witness_temperatures_and_flow :
    let s := elapse 0 warm
    let x := elapse 0 (spot3 640 720 700)
    let fl := fset THM_FLOW_STATUS_FLOW_LOST 1 (fset THM_FLOW_SRC 1 warm)
    (List.replicate 32 (0#16, 0#16)).length = 32 ∧ dieOn s = true ∧ helmHeld s = true
      ∧ (∀ i < 32, fbit s (THM_HS_BOTH_BAD i) = false ∧ fbit s (THM_HS_DIODE_SUSPECT i) = false
          ∧ fbit s (THM_HS_RING_SUSPECT i) = false ∧ (diodeOf s i - ringOf s i).natAbs ≤ 64)
      ∧ 1760 ≤ hottest (elapse 0 (fset (THM_HS_RULING 3) 1760 warm))
      ∧ fbit x (THM_HS_BOTH_BAD 3) = false ∧ fbit x (THM_HS_DIODE_SUSPECT 3) = false ∧ fbit x (THM_HS_RING_SUSPECT 3) = false
      ∧ 64 < (diodeOf x 3 - ringOf x 3).natAbs ∧ fbit x (THM_HS_DISAGREE 3) = true ∧ 60000000000 < since x (spotOf x 3).since
      ∧ (ringOf x 3 - modelOf x 3).natAbs < (diodeOf x 3 - modelOf x 3).natAbs ∧ farFrom x (ringOf x 3) (modelOf x 3) = false
      ∧ farFrom (spot3 640 720 1600) 640 1600 = true ∧ farFrom (spot3 640 720 1600) 720 1600 = true
      ∧ ¬(ringOf (spot3 640 720 650) 3 - modelOf (spot3 640 720 650) 3).natAbs
          < (diodeOf (spot3 640 720 650) 3 - modelOf (spot3 640 720 650) 3).natAbs
      ∧ fget (fset THM_DIS_WINDOW_WINDOW_S 100 warm) THM_DIS_WINDOW_WINDOW_S * 1000000000 ≤ since warm warm.therm.disWindowAt
      ∧ 1000 ≤ fget (elapse 0 (fset THM_POWER_P_1MS 1000 warm)) THM_POWER_P_1MS
      ∧ fbit (spot3 1760 0 0) (THM_HS_DIODE_SUSPECT 3) = false ∧ 1760 ≤ diodeOf (spot3 1760 0 0) 3
      ∧ flowLost s = false ∧ flowGone s = true ∧ flowLost fl = true
      ∧ flowShown (therm (fun t => { t with deltaGoodSince := some 5 }) fl) = true
      ∧ stoodFor fl 2000000000 (some 98000000000) = true ∧ stoodFor fl 2000000000 (some 98000000001) = false
      ∧ flaskOn s = true ∧ 3600000000000 ≤ since { warm with now := 3600000000000 } warm.therm.cyclesWrittenAt := by
  decide +kernel

/-- Changes what is planned for stack 2. -/
def stack2 (f : StackSt → StackSt) (s : State) : State := { s with hbm := [(2, f stackReset)] }

/-- Stack 2 is due and planned for the tick that is at hand, with slack reserved. -/
def duePlan (s : State) : State :=
  fset TK_SLACK_RETRAIN 1 (stack2 (fun x => { x with dueNo := some 3, trainTick := some 0 }) s)

theorem witness_stacks :
    let s := elapse 0 warm
    dramOn s = true ∧ (List.replicate 6 (96 : BitVec 8)).length = 6 ∧ fget s (MEM_STACK_STATE 2) ≠ 2
      ∧ fget s (MEM_STACK_HOT_LIMIT 2) = 0 ∧ (fget s MEM_TEMP_LIMIT_C : Int) ≤ 96
      ∧ (hbmOf (stack2 (fun x => { x with hotSince := some 99000000000 }) s) 2).hotSince = some 99000000000
      ∧ 1000000000 ≤ since s 99000000000
      ∧ trainEvery (fset MEM_RETRAIN_INTERVAL_S 100 s) 2 ≤ since s (BitVec.ofNat 64 (regGet s (MEM_TRAIN_STAMP 2)))
      ∧ (hbmOf s 2).dueNo = none ∧ dieOn s = true ∧ fieldGet (2 * 2 ^ 16) 18 16 = 2
      ∧ trainNow (duePlan s) = some 2 ∧ fbit (duePlan s) TK_SLACK_RETRAIN = true ∧ fget (duePlan s) (MEM_STACK_STATE 2) = 0
      ∧ slackStart (duePlan s) ≤ (duePlan s).now.toNat ∧ stepIsOpen (duePlan s) = false
      ∧ trainNow (duePlan inStep) = some 2 ∧ stepIsOpen (duePlan inStep) = true ∧ dramOn (duePlan inStep) = true
      ∧ slackStart (duePlan { inStep with now := 100000000000 }) ≤ 100000000000
      ∧ trainingStack (fset (MEM_STACK_STATE 2) 1 s) = some 2 ∧ dramOn (fset (MEM_STACK_STATE 2) 1 s) = true
      ∧ s.heldAccs = [] ∧ dieOn s = true
      ∧ (7#6).toNat < 8 := by
  decide +kernel

/-- Both Stewards up, Steward-N at the helm; region A holds a bundle of zeros. -/
def led : State :=
  ring { warm with
    helm := { helmReset with n := { stewReset with up := true, beat := 99999000000 }, s := { stewReset with up := true } }
    fw := { fwReset with regionA := { shipped := false, bytes := [] } } }

/-- Changes the firmware's record. -/
def firm (f : FwSt → FwSt) (s : State) : State := { s with fw := f s.fw }

theorem witness_firmware_update :
    let u := qTake 0 led
    let trial := firm (fun w => { w with rec0 := { bootRecReset with trial := true } }) led
    let f := Instr.fwWrite qc (2 ^ 30 - 516) 64 4 ⟨true, [1, 2, 3, 4]⟩
    meets f led = true ∧ meets f (qUpd 0 (fun x => { x with func := 1 }) led) = true ∧ qc.resv = false ∧ fromVf qc u = false ∧ fromVf qc (qTake 0 (qUpd 0 (fun x => { x with func := 1 }) led)) = true
      ∧ bundleRoom < (2 ^ 30 - 515) + 4 ∧ (2 ^ 30 - 516) + 4 ≤ bundleRoom ∧ u.fw.update = 0 ∧ flaskOn u = true
      ∧ flaskOn led = true ∧ dieOn led = true
      ∧ activateReject (fset FW_STATUS_IDLE_OK 1 led) = 0 ∧ activateReject led ≠ 0
      ∧ 2000000000 ≤ since (elapse 0 led) led.fw.resetAt ∧ (firm (fun w => { w with update := 2 }) led).fw.update = 2
      ∧ mode led ≠ MODE_RECOVERY ∧ mode led ≠ MODE_SAFE ∧ (bootRec trial).trial = true ∧ trial.fw.update = 0
      ∧ recoverable led = true ∧ helmHeld (elapse 0 led) = true ∧ follows (elapse 0 led) .s = true := by
  decide +kernel

/-- RECOVERY with a download of ten bytes under way. -/
def downloading : State :=
  firm (fun w => { w with rcvActive := true, rcvLen := 10 }) (fset GEN_STATE_MODE MODE_RECOVERY led)

theorem witness_recovery_journal_smbus :
    mode downloading = MODE_RECOVERY ∧ downloading.fw.rcvActive = true ∧ 9 < downloading.fw.rcvLen
      ∧ rcvLenOk 1 = true ∧ rcvLenOk 1314816 = true ∧ rcvLenOk 0 = false
      ∧ fieldGet (5 : BitVec 64).toNat 20 0 = 5 ∧ (5 : BitVec 64).getLsbD 62 = false ∧ (5 : BitVec 64).getLsbD 63 = false
      ∧ recoverable led = true ∧ mode led ≠ MODE_OFF ∧ (5 : BitVec 5) ≠ led.power.straps ∧ dieOn led = true
      ∧ flaskOn (elapse 0 led) = true ∧ stewardUp (elapse 0 led) = true
      ∧ jFill (jArea (elapse 0 led) led.jActive) < 75 := by
  decide +kernel

/-- Changes what the helm knows. -/
def helm (f : HelmSt → HelmSt) (s : State) : State := { s with helm := f s.helm }

theorem witness_helm_and_duty :
    let u := elapse 0 led
    let fr := fset HLM_HELM_STATE 0 led
    dieOn u = true ∧ helmHeld fr = false ∧ (stewGet fr .n).up = true ∧ fbit fr (stewHeld .n) = false
      ∧ (stewGet fr .s).up = true ∧ fbit fr (stewHeld .s) = false
      ∧ (helm (fun h => { h with last := 1 }) fr).helm.last ≠ 0 ∧ (helm (fun h => { h with last := 1 }) fr).helm.last ≠ stewCode .s
      ∧ holds u (stewOther .s) = true ∧ beatLate u = false ∧ fbit u (stewHeld .s) = false
      ∧ 2 ≤ recentContests (helm (fun h => { h with s := { h.s with contests := [99000000000, 98000000000] } }) u) .s
      ∧ holds u .n = true ∧ fbit (fset HLM_HELM_S_MIRROR_OK 1 u) (stewMirror (stewOther .n)) = true
      ∧ beatLate (elapse 5000000 led) = true ∧ beatLate (elapse 4000000 led) = false
      ∧ fbit (fset HLM_HELM_S_HELD 1 led) (stewHeld .s) = true ∧ mode u ≠ MODE_OFF
      ∧ helmLapseLong (helm (fun h => { h with freeSince := some 99900000000 }) fr) = true
      ∧ helmLapseLong (helm (fun h => { h with freeSince := some 99900000001 }) fr) = false
      ∧ fbit u HLM_DUTY_GRANT = false := by
  decide +kernel

/-- A QUERY of manager 1. -/
def rcq : RcQuery := { mgr := 1, nonce := 77, src := 5, vlan := none }

/-- A VOTE of manager 2 to fence the module, without its code. -/
def ballot : RcVote := { mgr := 2, cmd := 1, target := 0, epoch := 0, fill := 0, auth := 0, src := 9, vlan := none }

/-- The VOTE with the code that the key 12345 gives it. -/
def signed : RcVote := { ballot with auth := BitVec.ofNat 128 (ofLe ((hmac256 (leBytes 32 12345) (votePayload ballot)).take 16)) }

/-- Manager 2 holds the key 12345; the quorum is `n`; the window for HOLD opened at 98 s. -/
def voting (n : Nat) : State :=
  fset HLM_QUORUM_Q n (fset (HLM_MGR_EN 2) 1
    (helm (fun h => { h with keys := [(2, some 12345)], windows := [(2, some ⟨98000000000, 1⟩)], answers := [(0, (100000, 64))] }) led))

theorem witness_vote_is_counted : voteRefused (elapse 0 (voting 2)) signed = false := by
  decide +kernel

theorem witness_membership :
    let u := elapse 0 led
    let v := elapse 0 (voting 2)
    rollOn u 0 = true ∧ rcq.vlan = none ∧ mapGet (0, 0) u.helm.answers 0 = (0, 0) ∧ u.now.toNat / 1000000 = 100000
      ∧ mapGet (0, 0) v.helm.answers 0 = (100000, 64) ∧ signed.vlan = none ∧ voteRefused u ballot = true
      ∧ popCount 7 (setBit 0 2 true) < fget v HLM_QUORUM_Q ∧ fget (voting 1) HLM_QUORUM_Q ≤ popCount 7 (setBit 0 2 true)
      ∧ mapGet none v.helm.windows 2 = some ⟨98000000000, 1⟩ ∧ 2000000000 ≤ since v 98000000000
      ∧ meets (.mgrKey qc 6 0 64 ⟨true, []⟩) led = true ∧ meets (.mgrKey qc 7 0 64 ⟨true, []⟩) led = true ∧ fromVf qc (qTake 0 led) = false ∧ fromVf qc (qTake 0 (qUpd 0 (fun x => { x with func := 1 }) led)) = true
      ∧ dieOn led = true ∧ fget led HLM_JOB_JOB_EPOCH < fieldGet (2 ^ 32 : Nat) 63 32
      ∧ fieldGet (2 ^ 32 : Nat) 63 32 ≤ fget (fset HLM_JOB_JOB_EPOCH 1 led) HLM_JOB_JOB_EPOCH := by
  decide +kernel

/-- A record of origin 0 with its number and time, and its CRC. -/
def logRec (lsn stamp : BitVec 64) : LogRec :=
  let r : LogRec := { lsn := lsn, origin := 0, stamp := stamp, kind := 1, part := 0, req := 0, step := 0, data := [1, 2, 3], crc := 0 }
  { r with crc := BitVec.ofNat 32 (logCrc r) }

/-- Record 5 stands in the ring, and peer 0 has not acknowledged it for 100 ms. -/
def logged : State :=
  fset (HLM_LOG_PEER_EN 0) 1 (helm (fun h => { h with log := [logRec 5 99000000000], peers := [(0, [⟨5, 99900000000, 99999000000⟩])] }) led)

theorem witness_input_log :
    let u := qTake 0 logged
    let w := elapse 0 logged
    ([1048576, 1048577].all (fun n => meets (.logAppend qc 1 0 0 64 n ⟨true, []⟩) logged)) = true
      ∧ ([4, 5].all (fun n => meets (.logReadCmd qc 0 n 64 4096 ⟨true, []⟩) logged)) = true
      ∧ meets (.logFetch qc 0 5 0 []) logged = true
      ∧ 1048576 < 1048577 ∧ 64 + 1048576 ≤ logRing u ∧ (List.replicate 67 (7 : Byte)).length = 67
      ∧ fromVf qc u = false ∧ fbit u (HLM_LOG_PEER_EN 0) = true ∧ txPort u .rollcall (fget u (HLM_LOG_PEER_PORT 0)) = true
      ∧ rollOn w 0 = true ∧ helmHeld w = true ∧ dieOn w = true ∧ logSize (logRec 6 5) ≤ 9000
      ∧ logCrc (logRec 6 5) = (logRec 6 5).crc.toNat ∧ logSize (logRec 6 5) ≤ logRing w
      ∧ (w.helm.log.any (fun x => x.origin == (logRec 6 5).origin && x.lsn == (logRec 6 5).lsn)) = false
      ∧ (w.helm.log.any (fun x => x.origin == (logRec 5 5).origin && x.lsn == (logRec 5 5).lsn)) = true
      ∧ fbit w (logLag 0) = false ∧ (∃ x ∈ mapGet [] w.helm.peers 0, 100000000 ≤ since w x.firstAt)
      ∧ ((mapGet [] w.helm.peers 0).find? (fun x => x.lsn == 5)).isSome = true
      ∧ (w.helm.log.find? (fun r => r.origin == moduleId w && r.lsn == 5)).isSome = true
      ∧ 1000000 ≤ since w 99999000000 := by
  decide +kernel

theorem witness_log_gone : logGone [logRec 5 0] 4 = true ∧ logGone [logRec 5 0] 5 = false := by
  decide +kernel

/-- Partition `n` ACTIVE on clusters `m`. -/
def owner (n m : Nat) (s : State) : State := fset (SEC_PART_STATE n) PART_ACTIVE (fset (SEC_PART_CLUSTERS n) m s)

theorem witness_partitions :
    let s := owner 0 3 led
    dieOn s = true ∧ s.secOp = none ∧ fget s (SEC_PART_STATE 1) = PART_FREE ∧ fget s (SEC_PART_STATE 0) = PART_ACTIVE
      ∧ (0x8000000000000030 : BitVec 64).getLsbD 63 = true ∧ clustersCheck s 0x30 = none ∧ clustersCheck s 0x31 = some ST_PART_CONFIG
      ∧ clustersCheck { s with uncleared := 16 } 0x30 = some ST_PART_BUSY
      ∧ removeOk s 0 1 = true ∧ removeOk s 0 3 = false
      ∧ (partOf (owner 0 3 inStep) 0).step.isSome = true ∧ (owner 0 3 inStep).secOp = none ∧ dieOn (owner 0 3 inStep) = true
      ∧ (partOf s 0).step = none ∧ (partOf s 0).pub = none
      ∧ fbit s (SEC_WIN_EN 0 2) = false ∧ winEnableOk s 0 2 8 1 = true ∧ winEnableOk s 0 2 8 385 = false
      ∧ winEnableOk s 0 2 0 1 = false
      ∧ fbit s (SEC_WIN_EN 0 0) = true ∧ (8 : BitVec 64).getLsbD 63 = false
      ∧ winEmpty { s with tensors := [] } 0 (0, winUnit) = true ∧ winEmpty s 0 (0, winUnit) = false
      ∧ bitOf ({ s with uncleared := 16 } : State).uncleared 4 = true
      ∧ dramOn s = true ∧ fget s (MEM_STACK_STATE (stackOf 8192)) ≠ 1
      ∧ (([{ part := 0, win := 2, base := 8192, len := 64 }] : List Scrub).find? (fun x => x.part == 0 && x.win == 2)).isSome = true
      ∧ (mapGet tvEmpty ([(0, (⟨[5], true⟩ : TvQueue))] : SMap TvQueue) 0).recs = [5] := by
  decide +kernel

/-- Self-test as it stands so. -/
def testing (f : BistSt → BistSt) (s : State) : State := { s with bist := f s.bist }

theorem witness_self_test :
    let m := fset GEN_STATE_MODE MODE_MAINT led
    let r := elapse 0 (testing (fun x => { x with run := some ⟨2, 1, 99820000000⟩ }) m)
    dieOn led = true ∧ mode led = MODE_READY ∧ mode m = MODE_MAINT
      ∧ (0x103 : BitVec 32).getLsbD 29 = false ∧ (0x103 : BitVec 32).getLsbD 30 = false ∧ (0x103 : BitVec 32).getLsbD 31 = false
      ∧ bistRefused led (fieldSet 0x103 31 31 1) = false ∧ bistRefused led (fieldSet 0x403 31 31 1) = false
      ∧ bistRefused led (fieldSet 0x503 31 31 1) = true ∧ bistRefused led (fieldSet 0x003 31 31 1) = true
      ∧ (testing (fun x => { x with noAdmit := true }) led).bist.noAdmit = true ∧ anyStepOpen (elapse 0 led) = false
      ∧ (m.bist.run.isNone && m.bist.queue.isEmpty && m.bist.sharedQueue.isEmpty) = true
      ∧ (r.bist.run.isNone && r.bist.queue.isEmpty && r.bist.sharedQueue.isEmpty) = false
      ∧ r.bist.run = some ⟨2, 1, 99820000000⟩ ∧ testNs 2 1 ≤ since r 99820000000 ∧ ¬testNs 2 1 ≤ since r 99820000001 := by
  decide +kernel

/-- A KV tensor 7 of partition 0 beside tensor 8, and entries of the request table. -/
def kvHeld : State :=
  withReqs (rq 1 0) (rq 2 0) (rq 0 0) (rq 4 0)
    { led with tensors := [(7, some { tn with cls := 2, kvFormat := 0x13, heads := 8, width := 64 }), (8, some tn)] }

theorem witness_selectors :
    let o := updPart 0 (fun pt => { pt with pub := some ⟨0, 0, [], [], []⟩ }) kvHeld
    let m := testing (fun x => { x with passedLogic := 2, passedCalib := 2 }) (fset GEN_STATE_MODE MODE_MAINT kvHeld)
    dieOn kvHeld = true ∧ (0x8000000000000007 : BitVec 64).getLsbD 63 = true
      ∧ windowOpen kvHeld = false ∧ windowOpen o = true ∧ dieOn o = true
      ∧ fbit kvHeld SRV_STATUS_SEL_BUSY = false ∧ fbit kvHeld KV_STATUS_CTX_BUSY = false
      ∧ ctxExists kvHeld 1 7 = true ∧ ctxExists kvHeld 2 7 = false
      ∧ rqState (reqGet kvHeld 2) = RQ_FREE ∧ rqState (reqGet kvHeld 1) ≠ RQ_FREE
      ∧ (mapGet none kvHeld.tensors 7).isSome = true ∧ (mapGet none kvHeld.tensors 9) = none
      ∧ rangeClash kvHeld 0 0 8 = false ∧ (reqsOf kvHeld 0).all (fun i => decide (0 ≤ i ∧ i < 0 + 8)) = true ∧ 4095 + 1 ≤ 4096
      ∧ rangeClash kvHeld 1 7 1 = true ∧ rangeClash kvHeld 1 8 1 = false
      ∧ (0x80000020 : BitVec 32).getLsbD 31 = true ∧ mode m = MODE_MAINT ∧ bitOf m.bist.passedLogic (0x20 / 32) = true
      ∧ bitOf m.bist.passedCalib (4 / 4) = true ∧ mode kvHeld ≠ MODE_MAINT ∧ dieOn m = true := by
  decide +kernel

theorem witness_registers :
    let s := fset (TK_PART_VALID 0) 1 led
    dieOn s = true ∧ mode s ≠ MODE_RECOVERY ∧ 1000001 % 2 ^ 32 > 1000000 ∧ (2 ^ 32 : Nat) % 2 ^ 32 < 1
      ∧ agentFunc .pf = some none ∧ 6 % 4 ≠ 0 ∧ s.power.vfEnabled = false ∧ 8 % 8 = 0
      ∧ blockOn s TK_STAT_ADMITTED = true ∧ isStat TK_STAT_ADMITTED = true ∧ (0x4000000000000000 : BitVec 64).getLsbD 62 = true
      ∧ (0 : BitVec 64).getLsbD 62 = false ∧ fbit s (TK_PART_VALID 0) = true
      ∧ meets (.armCmd qc 5) s = true ∧ qc.resv = false ∧ fbit (qTake 0 s) (TK_PART_VALID (cmdPart qc)) = true := by
  decide +kernel

/-! ### Values that the spec works out -/

/-- R49, with the example behind it: 5.3, -0.71 and 0.004 in a block of BS8 and of BS4. -/
theorem test_block_of_the_spec :
    let xs := [FVal.fin false 5557453 (-20), .fin true 744489 (-20), .fin false 4194 (-20)]
    quantBlock FMT_BS8 false xs = (0x81, [0x55, 0xF5, 0], false) ∧ quantBlock FMT_BS4 false xs = (0x81, [5, 15, 0], false) := by
  decide +kernel

/-- R61: 127 and -128 in a block of BS8 store 64 and -64, and nothing is clamped. -/
theorem test_integers_in_a_block : quantBlock FMT_BS8 false [.fin true 128 0, .fin false 127 0] = (134, [0xC0, 64], false) := by
  decide +kernel

/-- The table of FP8 encodings after R61: 0.3, 500 and -0.001. -/
theorem test_fp8_of_the_spec :
    fltEncode ffE4M3 false false (.fin false 314573 (-20)) = (0x2A, false) ∧ fltEncode ffE4M3 false false (.fin false 500 0) = (0x7E, true)
      ∧ fltEncode ffE4M3 false false (.fin true 1049 (-20)) = (0x81, false)
      ∧ fltEncode ffE5M2 false false (.fin false 314573 (-20)) = (0x35, false) ∧ fltEncode ffE5M2 false false (.fin false 500 0) = (0x60, false)
      ∧ fltEncode ffE5M2 false false (.fin true 1049 (-20)) = (0x94, false) := by
  decide +kernel

/-- R496: 65 530 in FP16 is 65 504 without a flag under RTZ, and overflows under RNE. -/
theorem test_fp16_overflow_of_the_spec :
    fltEncode ffFP16 true false (.fin false 65530 0) = (0x7BFF, false) ∧ fltEncode ffFP16 false false (.fin false 65520 0) = (0x7BFF, true)
      ∧ fltEncode ffE4M3 false false (.inf false) = (0x7E, true) := by
  decide +kernel

/-- R167: Tern-41's pages, T = 2640 and U = 43 008. -/
theorem test_kv_page_of_the_spec :
    let t := { tn with cls := 2, kvFormat := FMT_BS8, heads := 10, width := 128 }
    kvU t = 43008 ∧ kvRowBytes t + kvScaleBytes t = 132 ∧ kvPickK 0 16384 = 8 := by
  decide +kernel

/-- R229: an estimate of 2 000 000 cycles at 500 MHz fits twice into a tick of 10 ms, at 250 MHz once. -/
theorem test_slots_of_the_spec :
    let s := fset CLK_ACLK_CUR_MHZ 500 (owner 0 255 (fset (PLC_EPOCH_CLUSTERS 0) 255 (at0 { prog with lastEst := some 2000000 })))
    slotsOf s 0 = 2 ∧ slotsOf (fset TK_SLACK_RETRAIN 1 s) 0 = 2 ∧ slotsOf (fset CLK_ACLK_CUR_MHZ 250 s) 0 = 1
      ∧ slotsOf (fset CLK_ACLK_CUR_MHZ 250 (fset TK_SLACK_RETRAIN 1 s)) 0 = 1 := by
  decide +kernel

/-- R308: the registers of local queue 5 of partition 2 lie at 0x0220_0140. -/
theorem test_queue_registers_of_the_spec : CMD_CFG 2 5 = 0x02200140 + 0x10 ∧ qPart 261 = 2 ∧ qLocal 261 = 5 := by
  decide +kernel

/-- R275: an encode slot at 1280 × 720 and 30 frames a second takes 8 LU, a decode slot at 1920 × 1080 16. -/
theorem test_load_of_the_spec :
    let s := fun (w h : Nat) => fset (VCC_SLOT_GEOM_WIDTH 5) w (fset (VCC_SLOT_GEOM_HEIGHT 5) h (fset (VCC_SLOT_GEOM_FPS 5) 30 State.reset))
    slotLu (s 1280 720) 5 = 8 ∧ slotLu (s 1920 1080) 5 = 16 ∧ slotLu (s 3840 2160) 5 = 64 := by
  decide +kernel

end Sys2Proof.Tests
end

section
/-!
PROOFS, family 04 (instruction encoding): the arithmetic of scalar registers (R114) and LOAD_IMAGE with the register files that it
resets (R73, R113, R319).
-/
namespace Sys2Proof.Machine

/-! ### Scalar arithmetic as arithmetic of integers (R114) -/

theorem shiftLeft_eq_ofNat (a : BitVec 64) (n : Nat) : a <<< n = BitVec.ofNat 64 (a.toNat * 2 ^ n) := by
  apply BitVec.eq_of_toNat_eq
  rw [BitVec.toNat_shiftLeft, Nat.shiftLeft_eq, BitVec.toNat_ofNat]

theorem ushiftRight_eq_ofNat (a : BitVec 64) (n : Nat) : a >>> n = BitVec.ofNat 64 (a.toNat / 2 ^ n) := by
  rw [← Nat.shiftRight_eq_div_pow, ← BitVec.toNat_ushiftRight, BitVec.ofNat_toNat, BitVec.setWidth_eq]

theorem sshiftRight_eq_ofInt (a : BitVec 64) (n : Nat) : a.sshiftRight n = BitVec.ofInt 64 (a.toInt / 2 ^ n) := by
  rw [BitVec.sshiftRight, Int.shiftRight_eq_div_pow, Nat.cast_pow, Nat.cast_ofNat]

theorem add_eq_ofInt (a b : BitVec 64) : a + b = BitVec.ofInt 64 (a.toInt + b.toInt) := by
  rw [BitVec.ofInt_add, BitVec.ofInt_toInt, BitVec.ofInt_toInt]

theorem sub_eq_ofInt (a b : BitVec 64) : a - b = BitVec.ofInt 64 (a.toInt - b.toInt) := by
  rw [Int.sub_eq_add_neg, BitVec.ofInt_add, BitVec.ofInt_neg, BitVec.ofInt_toInt, BitVec.ofInt_toInt, BitVec.sub_eq_add_neg]

theorem mul_eq_ofInt (a b : BitVec 64) : a * b = BitVec.ofInt 64 (a.toInt * b.toInt) := by
  rw [BitVec.ofInt_mul, BitVec.ofInt_toInt, BitVec.ofInt_toInt]

/-- An instruction that exec runs as an operation of two scalar registers sets SD to the operation's value and goes on. -/
theorem seqAlu_does {p : Fin 8} {i : Instr} {w : SeqW} {f : BitVec 64 → BitVec 64 → BitVec 64} {v : BitVec 64} {s : State}
    (hexec : exec i s = .next (seqAlu i p w f s)) (hv : f (sGet (partOf s p) w.ss1) (sGet (partOf s p) w.ss2) = v) :
    SeqDoes s p { sd := true, ss1 := true, ss2 := true } w i
      (.next (seqAt p ((partOf s p).pc + 1) (withScalar w.sd v) s)) := by
  intro h
  rw [hexec, seqAlu, seqWrite_meets (u := { ss1 := true, ss2 := true }) h, hv]

/-- addi adds its immediate. -/
theorem seqAddi_does (p : Fin 8) (w : SeqW) (s : State) :
    SeqDoes s p { sd := true, ss1 := true, imm := true } w (.seqAddi p w)
      (.next (seqAt p ((partOf s p).pc + 1) (withScalar w.sd (sGet (partOf s p) w.ss1 + w.imm)) s)) := by
  intro h
  rw [exec_seqAddi, execSeqAddi, seqWrite_meets (u := { ss1 := true, imm := true }) h]

/-- Settles O8: each form runs one function of 64-bit words, which agrees with the integers modulo 2^64. -/
theorem scalarArithmetic : Obligations.scalar_arithmetic := by
  intro p w s a b does alu
  refine ⟨?add, ?sub, ?mul, ?and, ?or, ?xor, ?shl, ?shr, ?sra, ?addi⟩
  case add => exact seqAlu_does (exec_seqAdd p w s) (add_eq_ofInt a b)
  case sub => exact seqAlu_does (exec_seqSub p w s) (sub_eq_ofInt a b)
  case mul => exact seqAlu_does (exec_seqMul p w s) (mul_eq_ofInt a b)
  case and => exact seqAlu_does (exec_seqAnd p w s) rfl
  case or => exact seqAlu_does (exec_seqOr p w s) rfl
  case xor => exact seqAlu_does (exec_seqXor p w s) rfl
  case shl => exact seqAlu_does (exec_seqShl p w s) (shiftLeft_eq_ofNat a _)
  case shr => exact seqAlu_does (exec_seqShr p w s) (ushiftRight_eq_ofNat a _)
  case sra => exact seqAlu_does (exec_seqSra p w s) (sshiftRight_eq_ofInt a _)
  case addi =>
    have h := seqAddi_does p w s
    rwa [add_eq_ofInt] at h

/-! ### Commands of a ring -/

/-- A command that its queue meets and whose effect is no failed transfer completes with what the effect answers. -/
theorem runCmd_meets {i : Instr} {q : QCmd} {f : State → CmdOut} {s t : State} {st v : Nat} (hm : cmdMeets s q i = true)
    (hr : q.resv = false) (ho : f (qTake q.queue.toNat s) = ⟨st, v, t⟩) (hst : st ≠ ST_DMA_FAULT) :
    runCmd i q false f s = .next (cmdEnd q st v t) := by
  simp [runCmd, hm, hr, ho, hst]

/-- A failed transfer is recorded as a violation of class 0x07 (R329). -/
theorem runCmd_meets_dmaFault {i : Instr} {q : QCmd} {f : State → CmdOut} {s t : State} {v : Nat} (hm : cmdMeets s q i = true)
    (hr : q.resv = false) (ho : f (qTake q.queue.toNat s) = ⟨ST_DMA_FAULT, v, t⟩) :
    runCmd i q false f s = .next (cmdEnd q ST_DMA_FAULT v (violationFree 0x07 (qGet t q.queue.toNat).func t)) := by
  simp [runCmd, hm, hr, ho]

/-! ### Violations of the host link (R329) -/

@[simp] theorem violation_parts (cls func h0 h1 : Nat) (s : State) : (violation cls func h0 h1 s).parts = s.parts := by
  unfold violation
  split
  · rfl
  · exact (beside_raise false false _ _ _).parts

@[simp] theorem violationFree_parts (cls func : Nat) (s : State) : (violationFree cls func s).parts = s.parts :=
  violation_parts _ _ _ _ _

@[simp] theorem violationFree_hlErr (cls func : Nat) (s : State) : fget (violationFree cls func s) NET_STATUS_HL_ERR = 1 :=
  fget_fset_same NET_STATUS_HL_ERR 1 _ (by decide)

/-! ### The register files of a partition (R113) -/

@[simp] theorem sGet_zero (pt : Part) : sGet pt 0 = 0 := rfl
@[simp] theorem pGet_zero (pt : Part) : pGet pt 0 = true := rfl

/-- The map that sets each of `n` keys from `i` on. -/
theorem mapGet_foldl_tabulate {α : Type} [DecidableEq α] {d : α} (f : Nat → α) (n i j : Nat) (m : SMap α) :
    mapGet d ((tabulate (fun k => k) n i).foldl (fun m k => mapSet d m k (f k)) m) j
      = if i ≤ j ∧ j < i + n then f j else mapGet d m j := by
  induction n generalizing i m with
  | zero => rw [if_neg (by omega)]; rfl
  | succ n ih =>
    rw [tabulate, List.foldl_cons, ih, mapGet_mapSet]
    by_cases hj : j = i
    · subst hj
      simp
    · have hiff : (i + 1 ≤ j ∧ j < i + 1 + n) ↔ (i ≤ j ∧ j < i + (n + 1)) := by omega
      simp only [hiff, hj, if_false]

theorem length_tabulate {α : Type} (f : Nat → α) (n i : Nat) : (tabulate f n i).length = n := by
  induction n generalizing i with
  | zero => rfl
  | succ n ih => rw [tabulate, List.length_cons, ih]

/-! ### A partition with an image loaded -/

@[simp] theorem sGet_imgLoad (bs : List Byte) (pt : Part) (i : BitVec 5) : sGet (imgLoad bs pt) i = 0 := by
  simp [sGet, imgLoad, mapGet]

@[simp] theorem pGet_imgLoad (bs : List Byte) (pt : Part) (i : BitVec 3) : pGet (imgLoad bs pt) i = decide (i = 0) := by
  have h : (imgLoad bs pt).preg = 1 := rfl
  rw [pGet, h]
  revert i
  decide

@[simp] theorem dGet_imgLoad (bs : List Byte) (pt : Part) (i : Nat) :
    dGet (imgLoad bs pt) i
      = if i < (imgHdr bs).descInit then BitVec.ofNat 256 (ofLe ((bs.drop (576 + 32 * i)).take 32)) else 0 := by
  refine (mapGet_foldl_tabulate _ _ 0 i []).trans ?_
  simp [mapGet]

theorem imgLoad_words_length (bs : List Byte) (pt : Part) : (imgLoad bs pt).words.length = (imgHdr bs).insns :=
  length_tabulate _ _ _

/-- A partition with this room for scratch (R240). -/
def withScratch (k : Nat) (a : Option (Nat × Nat)) (pt : Part) : Part := { pt with scratchSram := k, scratchAt := a }

@[simp] theorem sGet_withScratch (k : Nat) (a : Option (Nat × Nat)) (pt : Part) (i : BitVec 5) :
    sGet (withScratch k a pt) i = sGet pt i := rfl
@[simp] theorem pGet_withScratch (k : Nat) (a : Option (Nat × Nat)) (pt : Part) (i : BitVec 3) :
    pGet (withScratch k a pt) i = pGet pt i := rfl
@[simp] theorem dGet_withScratch (k : Nat) (a : Option (Nat × Nat)) (pt : Part) (i : Nat) :
    dGet (withScratch k a pt) i = dGet pt i := rfl

/-- Reserving room for scratch changes nothing else. -/
theorem scratchReserve_eq (p : Nat) (s : State) : ∃ k a, scratchReserve p s = updPart p (withScratch k a) s := by
  unfold scratchReserve
  dsimp only
  rw [updPart_updPart]
  exact ⟨_, _, rfl⟩

/-- The state that an accepted image leaves: its partition loaded and with some room for scratch, and TK_PART_HELD 0. -/
theorem imgLoad_state (p : Nat) (bs : List Byte) (s : State) :
    ∃ k a, fset (TK_PART_HELD p) 0 (scratchReserve p (updPart p (imgLoad bs) s))
      = fset (TK_PART_HELD p) 0 (updPart p (fun pt => withScratch k a (imgLoad bs pt)) s) := by
  obtain ⟨k, a, h⟩ := scratchReserve_eq p (updPart p (imgLoad bs) s)
  exact ⟨k, a, by rw [h, updPart_updPart]⟩

@[simp] theorem partOf_fset (f : Fld) (x : Nat) (s : State) (p : Nat) : partOf (fset f x s) p = partOf s p := rfl

/-- A state that some registers and partitions make of another differs from it in its registers and partitions only. -/
theorem frame_of_regs_parts {s v : State} (regs : SMap (BitVec 64)) (parts : SMap Part)
    (h : v = { s with regs := regs, parts := parts }) : v = { s with regs := v.regs, parts := v.parts } := by
  subst h
  rfl

theorem partOf_imgLoad_state {p k : Nat} {a : Option (Nat × Nat)} {bs : List Byte} {s v : State}
    (hv : v = fset (TK_PART_HELD p) 0 (updPart p (fun pt => withScratch k a (imgLoad bs pt)) s)) :
    partOf v p = withScratch k a (imgLoad bs (partOf s p)) := by
  rw [hv, partOf_fset, partOf_updPart_same]

/-- What an accepted image leaves in partition `p` with its other fields, and beside it. -/
theorem imgLoad_state_fields (p k : Nat) (a : Option (Nat × Nat)) (bs : List Byte) (s v : State)
    (hv : v = fset (TK_PART_HELD p) 0 (updPart p (fun pt => withScratch k a (imgLoad bs pt)) s)) :
    (partOf v p).pc = (imgHdr bs).entry ∧ (partOf v p).running = true ∧ (partOf v p).loops = []
      ∧ (partOf v p).words.length = (imgHdr bs).insns ∧ (partOf v p).step = (partOf s p).step
      ∧ fget v (TK_PART_HELD p) = 0 ∧ (∀ r, r ≠ p → partOf v r = partOf s r)
      ∧ v = { s with regs := v.regs, parts := v.parts } := by
  rw [partOf_imgLoad_state hv]
  refine ⟨rfl, rfl, rfl, ?words, rfl, ?held, fun r hr => ?others, ?beside⟩
  case words => exact imgLoad_words_length bs (partOf s p)
  case held => rw [hv, fget_fset_same _ _ _ (by simp), Nat.zero_mod]
  case others => rw [hv, partOf_fset, partOf_updPart_other _ _ hr]
  case beside => exact frame_of_regs_parts _ _ hv

/-! ### LOAD_IMAGE (R73, R319) -/

section
variable {q : QCmd} {addr len : BitVec 64} {dma : Dma} {s : State}

theorem loadImage_running (hrun : (partOf (qTake q.queue.toNat s) (cmdPart q)).running = true) :
    CmdIs s q (.loadImage q addr len dma) ST_PROGRAM_BUSY 0 (qTake q.queue.toNat s) := by
  intro hm hr
  rw [exec_loadImage]
  exact runCmd_meets hm hr (by simp [hrun, cmdFail]) (by decide)

theorem loadImage_failedTransfer (hrun : (partOf (qTake q.queue.toNat s) (cmdPart q)).running = false) (hok : dma.ok = false) :
    CmdGives s q (.loadImage q addr len dma) ST_DMA_FAULT 0
      (fun v => v.parts = (qTake q.queue.toNat s).parts ∧ fget v NET_STATUS_HL_ERR = 1) := by
  intro hm hr
  rw [exec_loadImage]
  exact ⟨_, runCmd_meets_dmaFault hm hr (by simp [hrun, hok, cmdFail]), violationFree_parts _ _ _, violationFree_hlErr _ _ _⟩

theorem loadImage_badImage (hrun : (partOf (qTake q.queue.toNat s) (cmdPart q)).running = false) (hok : dma.ok = true)
    (hbad : dma.data.length ≠ len.toNat ∨ imgOk (qTake q.queue.toNat s) (cmdPart q) dma.data = false) :
    CmdIs s q (.loadImage q addr len dma) ST_PROGRAM_IMAGE 0 (qTake q.queue.toNat s) := by
  intro hm hr
  have hnot : ¬(dma.data.length = len.toNat ∧ imgOk (qTake q.queue.toNat s) (cmdPart q) dma.data = true) := by
    rwa [not_and_or, Bool.not_eq_true]
  rw [exec_loadImage]
  exact runCmd_meets hm hr (by simp [hrun, hok, hnot, cmdFail]) (by decide)

theorem loadImage_accepted (hrun : (partOf (qTake q.queue.toNat s) (cmdPart q)).running = false) (hok : dma.ok = true)
    (hlen : dma.data.length = len.toNat) (himg : imgOk (qTake q.queue.toNat s) (cmdPart q) dma.data = true) :
    CmdMoves s q (.loadImage q addr len dma) 0 (fun v => ∃ k a, v = fset (TK_PART_HELD (cmdPart q)) 0
      (updPart (cmdPart q) (fun pt => withScratch k a (imgLoad dma.data pt)) (qTake q.queue.toNat s))) := by
  intro hm hr
  rw [exec_loadImage]
  exact ⟨_, runCmd_meets hm hr (by simp [hrun, hok, hlen, himg, cmdMoved, cmdOk]) (by decide), _, rfl,
    imgLoad_state _ _ _⟩

end

/-- Settles O29: the three refusals and the accepted image, each a lemma above, and the registers s0 and p0. -/
theorem loadImage : Obligations.load_image := by
  intro q addr len dma s u p c h
  refine ⟨loadImage_running, loadImage_failedTransfer, loadImage_badImage, fun hrun hok hlen himg hm hr => ?_,
    fun pt x => ⟨sGet_zero pt, pGet_zero pt, withScalar_zero x pt⟩, fun pt b => withPred_zero b pt⟩
  obtain ⟨t, ht, v, rfl, k, a, hv⟩ := loadImage_accepted hrun hok hlen himg hm hr
  have hpart := partOf_imgLoad_state hv
  refine ⟨_, ht, v, rfl, fun i => ?scalars, fun i => ?predicates, fun i => ?descriptors, imgLoad_state_fields p k a _ u v hv⟩
  case scalars => rw [hpart, sGet_withScratch, sGet_imgLoad]
  case predicates => rw [hpart, pGet_withScratch, pGet_imgLoad]
  case descriptors => rw [hpart, dGet_withScratch, dGet_imgLoad]

end Sys2Proof.Machine
end

section
/-!
PROOFS, family 12 (event doorbells): what a doorbell write does in each of its cases (R335 to R337), and which registers each
part of it leaves as they are.
-/
namespace Sys2Proof.Machine

/-! ### The pending bit of a source as a field -/

/-- The pending bit of source `n`. -/
def pendFld (n : Nat) : Fld := ⟨EDC_PEND (n / 32), n % 32, n % 32⟩

theorem edcSetBit_pend (n : Nat) (b : Bool) (s : State) :
    edcSetBit EDC_PEND n b s = fset (pendFld n) (if b then 1 else 0) s := rfl

theorem edcBit_pend (n : Nat) (s : State) : edcBit s EDC_PEND n = decide (fget s (pendFld n) = 1) := by
  simp [edcBit, bitOf, fget, fieldGet, pendFld, Nat.testBit_eq_decide_div_mod_eq]

theorem pendFld_hi (n : Nat) : (pendFld n).hi < 64 := by
  have : n % 32 < 32 := Nat.mod_lt _ (by decide)
  simp only [pendFld]
  omega

/-- The pending bits of two sources are two fields. -/
theorem pendFld_apart {m n : Nat} (h : m ≠ n) : apart [pendFld n] (pendFld m) := by
  intro g hg hreg
  obtain rfl := List.mem_singleton.1 hg
  simp only [pendFld, EDC_PEND] at hreg ⊢
  omega

theorem edcBit_setPend_same (n : Nat) (b : Bool) (s : State) : edcBit (edcSetBit EDC_PEND n b s) EDC_PEND n = b := by
  rw [edcBit_pend, edcSetBit_pend, fget_fset_same _ _ _ (pendFld_hi n)]
  cases b <;> simp [pendFld]

theorem fget_setPend {n : Nat} {f : Fld} (hf : f.hi < 64) (ha : apart [pendFld n] f) (b : Bool) (s : State) :
    fget (edcSetBit EDC_PEND n b s) f = fget s f := by
  by_cases hreg : f.reg = (pendFld n).reg
  · exact fget_fset_beside f (pendFld n) _ s hf (by simp [pendFld]) (ha _ (List.mem_singleton_self _) hreg)
  · exact fget_fset_other f (pendFld n) _ s hreg

/-! ### What the parts of a doorbell leave as it is -/

/-- The registers of the event doorbell controller from EDC_STATUS to its ACTIVE words (R347): beside flags and pending bits
a doorbell touches none of them. -/
abbrev edcWord (o : Nat) : Prop := EDC_STATUS ≤ o ∧ o < EDC_STAT_DOORBELLS

theorem edcWord_pendFld {n : Nat} (h : n < 1024) : edcWord (pendFld n).reg := by
  simp only [edcWord, pendFld, EDC_PEND, EDC_STATUS, EDC_STAT_DOORBELLS]
  omega

theorem fget_eq_of_regs {s t : State} (h : t.regs = s.regs) (f : Fld) : fget t f = fget s f := by
  simp only [fget, regGet, h]

section
variable {f : Fld}

/-- A fold whose steps each leave a field leaves it. -/
theorem fget_foldl {α : Type} {g : State → α → State} (l : List α)
    (h : ∀ a ∈ l, ∀ s, fget (g s a) f = fget s f) (s : State) :
    fget (l.foldl g s) f = fget s f :=
  List.foldlRecOn (motive := fun t => fget t f = fget s f) l g rfl (fun t ht a ha => (h a ha t).trans ht)

theorem fget_ite {s t u : State} {c : Prop} [Decidable c] (ht : fget t f = fget s f) (hu : fget u f = fget s f) :
    fget (if c then t else u) f = fget s f := by
  split
  · exact ht
  · exact hu

theorem fget_fwWriteAt (o : Nat) (bs : List Byte) (s : State) : fget (fwWriteAt o bs s) f = fget s f :=
  fget_ite rfl rfl

theorem fget_sendMsix (c v : Nat) (s : State) : fget (sendMsix c v s) f = fget s f := rfl

theorem fget_logEvent (e : Ev) (u : Nat) (s : State) : fget (logEvent e u s) f = fget s f := rfl

/-- The head of the trace ring moves on, around at the ring's end. -/
theorem fget_traceHead (hf : f.reg ≠ TB_TRACE_HEAD) {c : Prop} [Decidable c] (i w : Nat) (s : State) :
    fget (if c then fset TB_TRACE_HEAD_WRAPS w (fset TB_TRACE_HEAD_INDEX i s) else fset TB_TRACE_HEAD_INDEX i s) f
      = fget s f := by
  have hi : fget (fset TB_TRACE_HEAD_INDEX i s) f = fget s f := fget_fset_other _ _ _ _ hf
  exact fget_ite ((fget_fset_other _ _ _ _ hf).trans hi) hi

/-- A trace record moves the head of the trace ring and no other register. -/
theorem fget_traceFree (hf : f.reg ≠ TB_TRACE_HEAD) (typ part cls : Nat) (s : State) :
    fget (traceFree typ part cls s) f = fget s f := by
  suffices h : ∀ data, fget (traceRec typ part cls data s) f = fget s f from h _
  intro data
  unfold traceRec
  refine fget_ite ?_ rfl
  dsimp only
  generalize hmoved : (if fget s TB_TRACE_HEAD_INDEX + 1 = 2097152 then _ else _) = moved
  have h : fget moved f = fget s f := by
    rw [← hmoved, fget_traceHead hf]
    exact fget_fwWriteAt _ _ s
  exact fget_ite ((fget_eq_of_regs rfl f).trans h) h

theorem fget_edcNotify (hf : edcWord f.reg) (l : List (Nat × Nat × Nat)) (c : Nat) (s : State) :
    fget (edcNotify l c s) f = fget s f := by
  have hc : f.reg ≠ (EDC_CTX_STATUS_NOTIFIED c).reg := by
    simp only [edcWord, EDC_STAT_DOORBELLS, EDC_CTX_STATUS] at hf ⊢
    omega
  have hn : fget (fset (EDC_CTX_STATUS_NOTIFIED c) 1 s) f = fget s f := fget_fset_other _ _ _ _ hc
  unfold edcNotify
  split
  · rfl
  · exact fget_ite ((fget_sendMsix _ _ _).trans hn) hn

theorem fget_edcUpdate (hf : edcWord f.reg) (l : List (Nat × Nat × Nat)) (s : State) :
    fget (edcUpdate l s) f = fget s f :=
  fget_foldl _ (fun _ _ _ => fget_ite rfl (fget_edcNotify hf _ _ _)) s

theorem fget_armBySource (hf : edcWord f.reg) (n : Nat) (s : State) : fget (armBySource n s) f = fget s f := by
  refine fget_foldl _ (fun p hp t => ?_) s
  have hp8 := mem_tabulate_iff _ _ _ hp
  have hc : f.reg ≠ (TK_PART_CREDITS p).reg := by
    simp only [edcWord, EDC_STATUS, TK_PART] at hf ⊢
    omega
  exact fget_ite (fget_ite (fget_fset_other _ _ _ _ hc) rfl) rfl

end

/-! ### The cases of a doorbell -/

/-- The event doorbell controller counts one in its counter `o`; saturating, the counter signals source 3 (R348, R387). -/
def edcCount (fuel o : Nat) (s : State) : State :=
  if statSaturates o 1 s then edcRing fuel none false 3 (logEvent (.counterSat 3) 0 (statBump o 1 s)) else statBump o 1 s

/-- A doorbell that sets a bit is counted, and as merged as well where the bit is pending already (R337). -/
def edcCounted (fuel n : Nat) (s : State) : State :=
  let s := edcCount fuel EDC_STAT_DOORBELLS s
  if edcBit s EDC_PEND n then edcCount fuel EDC_STAT_COALESCED s else s

/-- Source `n` becomes pending, and the contexts are notified (R337, R339). -/
def edcPresent (n : Nat) (s : State) : State :=
  edcUpdate (edcElig s) (traceFree 0x10 0xFF 8 (armBySource n (edcSetBit EDC_PEND n true s)))

/-- The writer may signal source `n` (R336). -/
def bellAllowed (who : BellOwner) (n : Nat) (s : State) : Prop := ∀ p, who = some p → p = fget s (EDC_SRC_CFG_OWNER n)

theorem dieOn_iff (s : State) : dieOn s = true ↔ mode s ≠ MODE_OFF ∧ mode s ≠ MODE_STANDBY := by
  simp only [dieOn, MODE_OFF, MODE_STANDBY, decide_eq_true_eq]
  omega

section
variable {who : BellOwner} {n : Nat} {s : State} (fuel : Nat) (wd : Bool)

theorem edcRing_regs_of_dieOff (h : dieOn s = false) : (edcRing fuel who wd n s).regs = s.regs := by
  have hm : mode s = MODE_OFF ∨ mode s = MODE_STANDBY := by
    by_contra hc
    simp [(dieOn_iff s).2 (not_or.1 hc)] at h
  cases fuel with
  | zero => rfl
  | succ fuel =>
    unfold edcRing
    obtain hoff | hstandby := hm
    · rw [if_pos hoff]
    · rw [if_neg (by rw [hstandby]; decide), if_pos hstandby]
      split
      · rfl
      · rfl

variable (h : dieOn s = true)
include h

theorem edcRing_bad (hb : bellBad n = true) :
    edcRing (fuel + 1) who wd n s = fset EDC_STATUS_BAD_DOORBELL 1 s := by
  obtain ⟨hoff, hstandby⟩ := (dieOn_iff s).1 h
  unfold edcRing
  rw [if_neg hoff, if_neg hstandby, if_pos hb]

theorem edcRing_foreign (hb : bellBad n = false) {p : Nat} (hp : p ≠ fget s (EDC_SRC_CFG_OWNER n)) :
    edcRing (fuel + 1) (some p) wd n s = edcCount fuel EDC_STAT_FOREIGN (fset EDC_STATUS_FOREIGN 1 s) := by
  obtain ⟨hoff, hstandby⟩ := (dieOn_iff s).1 h
  unfold edcRing
  rw [if_neg hoff, if_neg hstandby, if_neg (by simp [hb]), if_pos (by simpa using hp.symm)]
  rfl

theorem edcRing_effective (hb : bellBad n = false) (ha : bellAllowed who n s) :
    edcRing (fuel + 1) who wd n s
      = if wd then edcSetBit EDC_PEND n false (edcCount fuel EDC_STAT_DOORBELLS s)
        else edcPresent n (edcCounted fuel n s) := by
  obtain ⟨hoff, hstandby⟩ := (dieOn_iff s).1 h
  unfold edcRing
  rw [if_neg hoff, if_neg hstandby, if_neg (by simp [hb]), if_neg ?owner]
  case owner =>
    cases who with
    | none => simp
    | some p => simp [ha p rfl]
  rfl

end

/-! ### Pending bits and flags after a doorbell -/

section
variable {f : Fld} (hf : edcWord f.reg) (hhi : f.hi < 64)
include hf

/-- A source that becomes pending moves, of these registers, its own bit only. -/
theorem fget_edcPresent (n : Nat) (s : State) : fget (edcPresent n s) f = fget (edcSetBit EDC_PEND n true s) f := by
  have hne : f.reg ≠ TB_TRACE_HEAD := by
    simp only [edcWord, EDC_STATUS, TB_TRACE_HEAD] at hf ⊢
    omega
  rw [edcPresent, fget_edcUpdate hf, fget_traceFree hne, fget_armBySource hf]

section
variable {fuel : Nat} (report : ∀ t, fget (edcRing fuel none false 3 t) f = fget t f)
include report

theorem fget_edcCount_of_report {o : Nat} (ho : EDC_STAT_DOORBELLS ≤ o) (s : State) :
    fget (edcCount fuel o s) f = fget s f := by
  have hc : fget (statBump o 1 s) f = fget s f := fget_regSet_other f _ s (by omega)
  unfold edcCount
  exact fget_ite ((report _).trans ((fget_logEvent _ _ _).trans hc)) hc

theorem fget_edcCounted_of_report (n : Nat) (s : State) : fget (edcCounted fuel n s) f = fget s f := by
  have hd : fget (edcCount fuel EDC_STAT_DOORBELLS s) f = fget s f := fget_edcCount_of_report hf report (Nat.le_refl _) s
  have hc := fget_edcCount_of_report hf report (o := EDC_STAT_COALESCED) (by decide) (edcCount fuel EDC_STAT_DOORBELLS s)
  unfold edcCounted
  exact fget_ite (hc.trans hd) hd

end

include hhi

theorem fget_edcPresent_apart {n : Nat} (s : State) (ha : apart [pendFld n] f) : fget (edcPresent n s) f = fget s f := by
  rw [fget_edcPresent hf, fget_setPend hhi ha]

/-- The report of a saturated counter changes no bit but source 3's. -/
theorem fget_edcRing_report (ha : apart [pendFld 3] f) (fuel : Nat) (s : State) :
    fget (edcRing fuel none false 3 s) f = fget s f := by
  induction fuel generalizing s with
  | zero => rfl
  | succ fuel ih =>
    cases hdie : dieOn s with
    | false => exact fget_eq_of_regs (edcRing_regs_of_dieOff _ _ hdie) f
    | true =>
      rw [edcRing_effective fuel false hdie rfl (by simp [bellAllowed]), if_neg (by decide),
        fget_edcPresent_apart hf hhi _ ha]
      exact fget_edcCounted_of_report hf ih _ _

theorem fget_edcCount (ha : apart [pendFld 3] f) (fuel : Nat) {o : Nat} (ho : EDC_STAT_DOORBELLS ≤ o) (s : State) :
    fget (edcCount fuel o s) f = fget s f :=
  fget_edcCount_of_report hf (fget_edcRing_report hf hhi ha fuel) ho s

theorem fget_edcCounted (ha : apart [pendFld 3] f) (fuel n : Nat) (s : State) : fget (edcCounted fuel n s) f = fget s f :=
  fget_edcCounted_of_report hf (fget_edcRing_report hf hhi ha fuel) n s

end

theorem edcBit_eq_of_fget {n : Nat} {s t : State} (h : fget t (pendFld n) = fget s (pendFld n)) :
    edcBit t EDC_PEND n = edcBit s EDC_PEND n := by
  rw [edcBit_pend, edcBit_pend, h]

section
variable {who : BellOwner} {n : Nat} {s : State} (fuel : Nat) (wd : Bool) (h : dieOn s = true) (hb : bellBad n = false)
include h hb

/-- R335: an effective doorbell sets its source's pending bit, or with WITHDRAW clears it. -/
theorem edcBit_edcRing_same (ha : bellAllowed who n s) : edcBit (edcRing (fuel + 1) who wd n s) EDC_PEND n = !wd := by
  have hn : n < 1024 := by have := bellBad_lt hb; omega
  rw [edcRing_effective fuel wd h hb ha]
  cases wd with
  | true => exact edcBit_setPend_same n false _
  | false => exact (edcBit_eq_of_fget (fget_edcPresent (edcWord_pendFld hn) n _)).trans (edcBit_setPend_same n true _)

/-- The other sources' pending bits stay, but for source 3's, which a saturated counter sets. -/
theorem edcBit_edcRing_other (ha : bellAllowed who n s) {m : Nat} (hm : m < 1024) (hmn : m ≠ n) (hm3 : m ≠ 3) :
    edcBit (edcRing (fuel + 1) who wd n s) EDC_PEND m = edcBit s EDC_PEND m := by
  have hf := edcWord_pendFld hm
  have hhi := pendFld_hi m
  have han := pendFld_apart hmn
  have ha3 := pendFld_apart hm3
  apply edcBit_eq_of_fget
  rw [edcRing_effective fuel wd h hb ha]
  cases wd with
  | true => exact (fget_setPend hhi han false _).trans (fget_edcCount hf hhi ha3 fuel (Nat.le_refl _) s)
  | false => exact (fget_edcPresent_apart hf hhi _ han).trans (fget_edcCounted hf hhi ha3 fuel n s)

section
variable {p : Nat} (hp : p ≠ fget s (EDC_SRC_CFG_OWNER n))
include hp

/-- R336: a foreign doorbell sets FOREIGN. -/
theorem fget_edcRing_foreign : fget (edcRing (fuel + 1) (some p) wd n s) EDC_STATUS_FOREIGN = 1 := by
  have ha : apart [pendFld 3] EDC_STATUS_FOREIGN := by
    simp [apart, pendFld, EDC_PEND, EDC_STATUS]
  rw [edcRing_foreign fuel wd h hb hp, fget_edcCount (by decide) (by decide) ha fuel (by decide)]
  exact fget_fset_same EDC_STATUS_FOREIGN 1 s (by decide)

/-- R336: a foreign doorbell is dropped. -/
theorem edcBit_edcRing_foreign {m : Nat} (hm : m < 1024) (hm3 : m ≠ 3) :
    edcBit (edcRing (fuel + 1) (some p) wd n s) EDC_PEND m = edcBit s EDC_PEND m := by
  have hf := edcWord_pendFld hm
  have ha3 := pendFld_apart hm3
  have hne : (pendFld m).reg ≠ EDC_STATUS := by
    simp only [pendFld, EDC_PEND, EDC_STATUS]
    omega
  apply edcBit_eq_of_fget
  rw [edcRing_foreign fuel wd h hb hp, fget_edcCount hf (pendFld_hi m) ha3 fuel (by decide)]
  exact fget_fset_other _ _ _ _ hne

end
end

/-! ### Doorbell writes -/

/-- The numbers that R335 drops, of those that the ten bits of SOURCE can name. -/
theorem bellBad_iff {n : Nat} (hn : n < 1024) : bellBad n = true ↔ n = 0 ∨ n = 1023 ∨ (17 ≤ n ∧ n ≤ 63) := by
  simp only [bellBad, Bool.or_eq_true, Bool.and_eq_true, beq_iff_eq, decide_eq_true_eq]
  omega

section
variable {a : Agent} {v : BitVec 32} {s : State} (h : dieOn s = true)
include h

theorem exec_edcDoorbell_dieOn : exec (.edcDoorbell a v) s = .next (bellWrite a v.toNat s) := by
  obtain ⟨hoff, hstandby⟩ := (dieOn_iff s).1 h
  rw [exec_edcDoorbell, execEdcDoorbell, if_neg (by simp [hoff, hstandby])]

theorem exec_edcDoorbell_reserved (hr : fieldGet v.toNat 30 10 ≠ 0) :
    exec (.edcDoorbell a v) s = .next (fset EDC_STATUS_BAD_DOORBELL 1 s) := by
  rw [exec_edcDoorbell_dieOn h, bellWrite, if_pos hr, if_pos h]

theorem exec_edcDoorbell_rings (hr : fieldGet v.toNat 30 10 = 0) :
    exec (.edcDoorbell a v) s = .next (edcRing 4 (bellOwner s a) (v.getLsbD 31) (fieldGet v.toNat 9 0) s) := by
  rw [exec_edcDoorbell_dieOn h, bellWrite, if_neg (by simpa using hr)]
  rfl

end

/-- Settles O35: a write with reserved bits is dropped before the doorbell; the others are the three cases of a doorbell. -/
theorem doorbells : Obligations.doorbells := by
  intro a v s h n bad
  have hn : n < 1024 := Nat.mod_lt _ (by decide)
  have good : ¬bad → bellBad n = false ∧
      exec (.edcDoorbell a v) s = .next (edcRing 4 (bellOwner s a) (v.getLsbD 31) n s) := by
    intro hbad
    simp only [bad, not_or] at hbad
    obtain ⟨h0, htop, hgap, hr⟩ := hbad
    refine ⟨Bool.eq_false_iff.2 fun hb => ?_, exec_edcDoorbell_rings h (not_not.1 hr)⟩
    rw [bellBad_iff hn] at hb
    tauto
  refine ⟨fun hbad hown => ?allowed, fun hbad => ?dropped, fun hbad k hk hown => ?foreign⟩
  case allowed =>
    obtain ⟨hb, hexec⟩ := good hbad
    exact ⟨_, hexec, edcBit_edcRing_same 3 _ h hb hown, fun m hm hmn hm3 => edcBit_edcRing_other 3 _ h hb hown hm hmn hm3,
      beside_edcRing _ _ _ _ _ _ _⟩
  case dropped =>
    by_cases hr : fieldGet v.toNat 30 10 = 0
    · have hb : bellBad n = true := (bellBad_iff hn).2 (by tauto)
      rw [exec_edcDoorbell_rings h hr, edcRing_bad 3 _ h hb]
    · exact exec_edcDoorbell_reserved h hr
  case foreign =>
    obtain ⟨hb, hexec⟩ := good hbad
    rw [hk] at hexec
    exact ⟨_, hexec, fget_edcRing_foreign 3 _ h hb hown, fun m hm hm3 => edcBit_edcRing_foreign 3 _ h hb hown hm hm3,
      beside_edcRing _ _ _ _ _ _ _⟩

end Sys2Proof.Machine
end
